-- ==== Sys2Proof/Word.lean ====
section
/-! DEFINITION. The word types of the machine and the sparse map every table of the state is held in. -/
namespace Sys2Proof

/-- One byte of storage (R4). -/
abbrev Byte := BitVec 8
/-- A scalar register, an address before translation, a special register (R93, R95). -/
abbrev Word := BitVec 64
/-- A stream register (R192). -/
abbrev Desc := BitVec 256
/-- One row of 64 bytes, the unit of every array access (R122). -/
abbrev Row := BitVec 512
/-- A vector register (R163). -/
abbrev VReg := BitVec 1024
/-- A mask register (R164). -/
abbrev Mask := BitVec 128

/-- A table by number: the entries in rising order of key, none equal to the table's default. The operations that keep this
form stand in Machine/Sparse.lean. -/
abbrev SMap (α : Type) := List (Nat × α)

end Sys2Proof
end

