-- ==== Sys2Proof/Config.lean ====
section
/-! DEFINITION. What the part leaves open and what rests on standards outside the spec: constants with no body, so that no proof
can lean on a value of theirs. -/
namespace Sys2Proof.Config

/-- Which entry of a large page's group a walk takes when the entries of the group differ (R306: "which one is not
specified"), for each value of the free counter of the state. Log entry 13. -/
opaque freeIndex : Nat → Nat

/-- Fresh secret or random values (world keys, ephemeral keys, fabric keys): R366, R367 say only that they are generated.
Log entry 11. -/
opaque freshKey : Nat → BitVec 256

/-- A value the spec leaves open, wide enough for every register, for each value of the free counter. Log entry 13. -/
opaque freeBits : Nat → BitVec 1024

/-- The HSS signature of a device identity key over a message at an index (R369, R370). Log entry 11. -/
opaque hssSign : (key : List Byte) → (index : Nat) → (message : List Byte) → List Byte

/-- The device's provisioning key, under which keys come wrapped (R366): a secret of the part. Log entry 11. -/
opaque provisioningKey : List Byte

/-- The vendor's firmware key, under which configuration images are signed (R371). Log entry 11. -/
opaque vendorKey : List Byte

/-- The package at the other end of the cable of an Ethernet port, and the port by which packets for a package that is not this one leave: how
the ports are cabled is the installation's (R379, R423). Log entry 99. -/
opaque portPeer : (port : Nat) → Nat
opaque portFor : (package : Nat) → Nat

/-- The device identity public key of manufacture, the firmware digest (R369, R370). Log entry 11. -/
opaque identityKey : List Byte
opaque firmwareDigest : BitVec 256

end Sys2Proof.Config
end

