-- ==== Sys2Proof/Syntax.lean ====
section
/-! DEFINITION. The instructions: one constructor of `Instr` for every row of the opcode table. Slot words carry their fields
as the encodings name them (R77 to R83, R415); the steps the table gives no encoding carry plain data. -/
namespace Sys2Proof

/-- The guard G (R76): bit 3 inverts, bits 2:0 name the predicate. -/
abbrev Guard := BitVec 4
/-- A register field of five bits: an s or v register, or a special-register number (R77, R85). -/
abbrev Reg := BitVec 5
/-- A register of a communication core, k0 to k15 (R415). -/
abbrev KReg := BitVec 4

/-- The format codes of R45. -/
inductive Fmt
  | s8 | s16 | s32 | s64 | z8 | z16 | z32 | z64 | bf16 | fp16 | fp32 | fp64 | e4m3 | e5m2 | q4 | wfx128
  deriving DecidableEq, Repr

/-- The rounding codes of R50. -/
inductive Rnd
  | rne | rtz | rup | rdn | rto
  deriving DecidableEq, Repr

/-- The scope codes of R82. -/
inductive Scope
  | task | clu | die | pkg | fab | sys
  deriving DecidableEq, Repr

/-- The count of a hardware loop (R77, form P). -/
inductive LoopCount
  | imm (n : BitVec 8)
  | sreg (a : Reg)
  | spr (n : Reg)
  deriving DecidableEq, Repr

/-- The conditions of c.waith (R113). -/
inductive HCond
  | free | full | quiet | ready | room
  deriving DecidableEq, Repr

/-- The actions of c.farm (R281). -/
inductive FAction
  | wake | start | signal
  deriving DecidableEq, Repr

/-- The conditions of a.cmp (R118). -/
inductive ACond
  | eq | ne | lt | ge | lo | hs
  deriving DecidableEq, Repr

/-- The conditions of v.cmp (R172). -/
inductive VCond
  | eq | ne | lt | ge | le | gt | un
  deriving DecidableEq, Repr

/-- Which lanes of a row access: one row in lane groups 0-1, one row in lane groups 2-3, or a pair (R146). -/
inductive RowSel
  | lo | hi | pair
  deriving DecidableEq, Repr

/-- The size codes of l.ldg and l.stg (R138). -/
inductive Size
  | b1 | b2 | b4 | b8
  deriving DecidableEq, Repr

/-- The operation codes of l.aop and l.saop (R138). -/
inductive AOp
  | add | min | max | and | or | xor | xchg
  deriving DecidableEq, Repr

/-- The operation codes of e.ratom (R399): those of l.aop and .cas. -/
inductive ROp
  | aop (o : AOp)
  | cas
  deriving DecidableEq, Repr

/-- The three widths of l.cas (R154). -/
inductive CasSize
  | w4 | w8 | q16
  deriving DecidableEq, Repr

/-- The kinds of l.fence (R138). -/
inductive FenceKind
  | acq | rel | full
  deriving DecidableEq, Repr

/-- The Q4 types of a scale byte (R55, R56). -/
inductive QType
  | uni | e2m1 | pow2 | hyb
  deriving DecidableEq, Repr

/-- The operations of v.red (R178). -/
inductive RedOp
  | add | min | max | and | or | xor
  deriving DecidableEq, Repr

/-- The modes of v.adjb (R219). -/
inductive AdjMode
  | first | split | pass
  deriving DecidableEq, Repr

/-- The element formats of the F slot (R185). -/
inductive FFmt
  | bf16 | fp16 | fp32
  deriving DecidableEq, Repr

/-- The stationary widths of x.ldw (R196). -/
inductive Wid
  | sw | dwh | dwl
  deriving DecidableEq, Repr

/-- Held values of 16 under structured sparsity (R79). -/
inductive Sparsity
  | sp16 | sp8 | sp4 | sp2
  deriving DecidableEq, Repr

/-- The DARITH codes of R81. -/
inductive Darith
  | none | add | max | min | wadd
  deriving DecidableEq, Repr

/-- The registers x.cfg writes (R207). -/
inductive XReg
  | rdcur | oscale
  deriving DecidableEq, Repr

/-- The actions of e.cbp and e.cbc (R243). -/
inductive RingAct
  | adv (n : BitVec 14)
  | bind (q : BitVec 4)
  | unb
  deriving DecidableEq, Repr

/-- DEST of e.put other than a landing (R399). -/
inductive PutDest
  | gva | rsp | chan
  deriving DecidableEq, Repr

/-- W, L and M of a V word (R78). -/
structure VRange where
  w : BitVec 2
  l : BitVec 2
  m : BitVec 2
  deriving DecidableEq, Repr

/-- ACQ, REL and SCOPE of an E word (R81). -/
structure EOrd where
  acq : Bool
  rel : Bool
  scope : Scope
  deriving DecidableEq, Repr

/-- One element of a reduction packet (R391, R392): a WFX128 integer with its status, or a ranked value. -/
structure RedEl where
  val : BitVec 128
  status : BitVec 4
  rank : Nat
  tie : Bool
  deriving DecidableEq, Repr

/-- A packet with the tensor-coordinate header of R389: its header, its payload rows, and for a contribution or a result of a
reduction its elements; the rows or elements that are poisoned, by place in the packet (R256); of a contribution the rows of the whole
message, which the transport's own headers give (R381; log entry 99). -/
structure TensorPkt where
  hdr : BitVec 128
  rows : List Row
  els : List RedEl
  poison : List Nat
  total : Nat := 0
  deriving DecidableEq, Repr

/-- What a request of another package asks for (R385, R388, R405, R311). -/
inductive FabKind
  | read | write | atomic (op : ROp) (n : Nat) (z ar : Bool) | tileRead | tileWrite (d : Darith) (f : Fmt) (r : Rnd)
  | sig | tlbi
  /-- a channel line, with the header of R389: a send operation (R380, R398) -/
  | send (hdr : BitVec 128)
  deriving DecidableEq, Repr

/-- A request between packages (R385). `addr` is a PA for memory, the tile address of R388 for a tile, the operand of R405 for a
flag, the operand of R310 for an invalidation; `rows` the bytes of a read, the rows of a tile access. An atomic is of n bytes, `ar`
where the access is .ar; `compare` of a write is 1 where its data are poisoned (R256). -/
structure FabReq where
  src : Nat
  tagId : Nat
  world : Nat
  kind : FabKind
  addr : Nat
  rows : Nat
  data : List Byte
  operand : BitVec 128
  compare : BitVec 128
  deriving DecidableEq, Repr

/-- Matching key of a collective step (R440). -/
structure StepKey where
  world : Nat
  rid : Nat
  step : Nat
  sender : Nat
  receiver : Nat
  deriving DecidableEq, Repr

/-- What a packet of a connection carries (R380, R389, R440). -/
inductive FabPayload
  | request (r : FabReq)
  | reply (tagId : Nat) (ok : Bool) (poison : Bool) (data : List Byte)
  | tensor (p : TensorPkt)
  | multicast (group : Nat) (port : Nat) (p : TensorPkt)
  | cts (k : StepKey) (rows : Nat)
  | stepRow (k : StepKey) (row : Nat) (poison : Bool) (data : Row)
  /-- what became of a packet of a landing chunk at its core: it has performed, or it was discarded (R261, R400) -/
  | landed (tag chunk : Nat) (ok : Bool)
  /-- a peer asks for a connection: its package, world, mode (0 RUD, 1 ROD, else one the part does not implement), whether it is a hop
  (R380 to R382); the answer where it is refused -/
  | setup (src world mode : Nat) (hop : Bool)
  | noSetup (mode : Nat)
  /-- the report that a packet was discarded for want of a key or for its tag (R384), and what stands in a withdrawn packet's place -/
  | denied
  | void
  /-- a packet whose destination is another package (R379) -/
  | foreign (dst : Nat) (data : List Byte)
  deriving DecidableEq, Repr

/-- What a debugger reads or writes (R372, R373). -/
inductive DbgItem
  | sreg (n : Nat) | preg | qreg (n : Nat) | vreg (n : Nat) | wreg (n : Nat) | row (off : Nat) | tile (t r c : Nat)
  | special (n : Nat) | handle (n : Nat)
  deriving DecidableEq, Repr

/-- The MESI states of R130. -/
inductive Mesi
  | m | e | s | i
  deriving DecidableEq, Repr

/-- The instructions and the steps of the part: one constructor per row of the opcode table: the encoded rows in
the table's order, then the steps without an encoding. -/
inductive Instr
  | nopGroup
  -- C slot
  | cNop (g : Guard)
  | cBr (g : Guard) (line : BitVec 16)
  | cJmp (g : Guard) (a : Reg)
  | cCall (g : Guard) (d : Reg) (line : BitVec 16)
  | cRet (g : Guard) (a : Reg)
  | cLoop (g : Guard) (count : LoopCount) (last : BitVec 11)
  | cBrk (g : Guard) (code : BitVec 16)
  | cTrap (g : Guard) (code : BitVec 16)
  | cTret (g : Guard)
  | cEnd (g : Guard)
  | cWait (g : Guard) (l s c t : BitVec 4)
  | cWaith (g : Guard) (cond : HCond) (h : BitVec 6)
  | cWaitt (g : Guard) (a : Reg) (h : BitVec 6)
  | cWaitl (g : Guard) (a : Reg)
  | cScheck (g : Guard) (seg : BitVec 11)
  | cRelb (g : Guard) (a b : Reg)
  | cAcqb (g : Guard) (a b : Reg)
  | cFinc (g : Guard) (a b : Reg)
  | cFwait (g : Guard) (a b : Reg)
  | cFarm (g : Guard) (a b : Reg) (act : FAction)
  | cFdis (g : Guard) (a : Reg)
  | cBpost (g : Guard) (a b : Reg)
  | cBarr (g : Guard) (a : Reg)
  | cBwait (g : Guard) (a : Reg)
  | cLaunch (g : Guard) (a : Reg)
  | cTlbi (g : Guard) (a : Reg) (scope : Scope)
  | cScrub (g : Guard) (units : BitVec 5)
  -- A slot
  | aAdd (g : Guard) (d a b : Reg)
  | aSub (g : Guard) (d a b : Reg)
  | aAnd (g : Guard) (d a b : Reg)
  | aOr (g : Guard) (d a b : Reg)
  | aXor (g : Guard) (d a b : Reg)
  | aShl (g : Guard) (d a b : Reg)
  | aShr (g : Guard) (d a b : Reg)
  | aSar (g : Guard) (d a b : Reg)
  | aMul (g : Guard) (d a b : Reg)
  | aMulh (g : Guard) (d a b : Reg) (z : Bool)
  | aMin (g : Guard) (d a b : Reg) (z : Bool)
  | aMax (g : Guard) (d a b : Reg) (z : Bool)
  | aCmp (g : Guard) (cond : ACond) (p : BitVec 3) (a b : Reg)
  | aSel (g : Guard) (d a b : Reg) (p : BitVec 3)
  | aClz (g : Guard) (d a : Reg)
  | aPop (g : Guard) (d a : Reg)
  | aAddi (g : Guard) (d a : Reg) (imm : BitVec 11)
  | aAndi (g : Guard) (d a : Reg) (imm : BitVec 11)
  | aOri (g : Guard) (d a : Reg) (imm : BitVec 11)
  | aXori (g : Guard) (d a : Reg) (imm : BitVec 11)
  | aShli (g : Guard) (d a : Reg) (imm : BitVec 6)
  | aShri (g : Guard) (d a : Reg) (imm : BitVec 6)
  | aLi (g : Guard) (d : Reg) (imm : BitVec 16)
  | aLih (g : Guard) (d : Reg) (imm : BitVec 16)
  | aMov (g : Guard) (d a : Reg)
  | aMfs (g : Guard) (d : Reg) (n : Reg)
  | aMts (g : Guard) (n : Reg) (a : Reg)
  | aPand (g : Guard) (d a b : BitVec 3)
  | aPor (g : Guard) (d a b : BitVec 3)
  | aPxor (g : Guard) (d a b : BitVec 3)
  | aPnot (g : Guard) (d a : BitVec 3)
  | aQset (g : Guard) (q : BitVec 4) (a : Reg) (wn : BitVec 2)
  | aQget (g : Guard) (d : Reg) (q : BitVec 4) (wn : BitVec 2)
  | aHq (g : Guard) (d : Reg) (h : BitVec 6)
  -- L slot
  | lLd (g : Guard) (sel : RowSel) (d a : Reg) (off : BitVec 8)
  | lSt (g : Guard) (sel : RowSel) (d a : Reg) (off : BitVec 8)
  | lLdq (g : Guard) (sp : Bool) (q : BitVec 4) (a : Reg) (off : BitVec 8)
  | lStq (g : Guard) (q : BitVec 4) (a : Reg) (off : BitVec 8)
  | lLdg (g : Guard) (size : Size) (acq : Bool) (d a : Reg) (off : BitVec 8)
  | lStg (g : Guard) (size : Size) (rel : Bool) (d a : Reg) (off : BitVec 8)
  | lLdgv (g : Guard) (q16 hi acq : Bool) (d a : Reg) (off : BitVec 8)
  | lStgv (g : Guard) (q16 hi rel : Bool) (d a : Reg) (off : BitVec 8)
  | lLdx (g : Guard) (sel : RowSel) (acq : Bool) (d a : Reg) (off : BitVec 8)
  | lStx (g : Guard) (sel : RowSel) (ofl : Bool) (d a : Reg) (off : BitVec 8)
  | lAop (g : Guard) (op : AOp) (w4 z ar : Bool) (d a b : Reg)
  | lCas (g : Guard) (size : CasSize) (ar : Bool) (d a b : Reg)
  | lSaop (g : Guard) (op : AOp) (fmt : BitVec 3) (d a b : Reg)
  | lFence (g : Guard) (kind : FenceKind) (scope : Scope)
  | lDrain (g : Guard) (scope : Scope)
  | lCwb (g : Guard) (a : Reg)
  | lCinv (g : Guard) (a : Reg)
  | lCzero (g : Guard) (a : Reg)
  | lPf (g : Guard) (ex l2 : Bool) (a : Reg) (off : BitVec 8)
  | lTlbp (g : Guard) (d a : Reg)
  -- V slot
  | vAdd (t : Fmt) (d a b : Reg) (r : VRange)
  | vSub (t : Fmt) (d a b : Reg) (r : VRange)
  | vMul (t : Fmt) (d a b : Reg) (r : VRange)
  | vFma (t : Fmt) (d a b : Reg) (r : VRange)
  | vMin (t : Fmt) (d a b : Reg) (r : VRange)
  | vMax (t : Fmt) (d a b : Reg) (r : VRange)
  | vAbs (t : Fmt) (d a : Reg) (r : VRange)
  | vNeg (t : Fmt) (d a : Reg) (r : VRange)
  | vSadd (t : Fmt) (d a b : Reg) (r : VRange)
  | vAnd (t : Fmt) (d a b : Reg) (r : VRange)
  | vOr (t : Fmt) (d a b : Reg) (r : VRange)
  | vXor (t : Fmt) (d a b : Reg) (r : VRange)
  | vShl (t : Fmt) (d a b : Reg) (r : VRange)
  | vShr (t : Fmt) (d a b : Reg) (r : VRange)
  | vSar (t : Fmt) (d a b : Reg) (r : VRange)
  | vCmp (t : Fmt) (cond : VCond) (wd : BitVec 2) (a b : Reg) (r : VRange)
  | vSel (t : Fmt) (d a b : Reg) (r : VRange)
  | vCvt (t from_ : Fmt) (rnd : Rnd) (d a : Reg) (w l : BitVec 2)
  | vScl (t : Fmt) (qt : QType) (blk32 : Bool) (d a : Reg) (r : VRange)
  | vPack (t : Fmt) (rnd : Rnd) (blk32 : Bool) (d a : Reg) (r : VRange)
  | vUnpk (t : Fmt) (rnd : Rnd) (blk32 : Bool) (d a : Reg) (r : VRange)
  | vRed (t : Fmt) (op : RedOp) (d a : Reg) (r : VRange)
  | vRedx (t : Fmt) (isMin : Bool) (d a : Reg) (r : VRange)
  | vPerm (t : Fmt) (d a b : Reg) (r : VRange)
  | vRot (t : Fmt) (d a b : Reg) (r : VRange)
  | vRmg (t : Fmt) (d a b : Reg) (r : VRange)
  | vBc (t : Fmt) (d a : Reg) (r : VRange)
  | vIns (t : Fmt) (d a b : Reg) (r : VRange)
  | vExt (t : Fmt) (d a b : Reg) (w l : BitVec 2)
  | vIota (t : Fmt) (d a : Reg) (r : VRange)
  | vMovVv (t : Fmt) (d a : Reg) (r : VRange)
  | vMovVw (wd : BitVec 2) (a : Reg)
  | vMovWv (d : Reg) (wa : BitVec 2)
  | vWmax (t : Fmt) (d a b : Reg)
  | vWmin (t : Fmt) (d a b : Reg)
  | vWclamp (t : Fmt) (d a b : Reg)
  | vWmed (t : Fmt) (d a b : Reg)
  | vWsum (t : Fmt) (d a b : Reg)
  | vWtopk (t : Fmt) (d a b : Reg)
  | vAdjb (t : Fmt) (mode : AdjMode) (acc last : Bool) (a b : Reg)
  -- F slot
  | fTsel (g : Guard) (ts : Bool) (a : Reg)
  | fEval (g : Guard) (fmt : FFmt) (rg : BitVec 3) (ts : Bool) (d a : Reg)
  | fRcp (g : Guard) (fmt : FFmt) (rg : BitVec 3) (d a : Reg)
  | fRsq (g : Guard) (fmt : FFmt) (rg : BitVec 3) (d a : Reg)
  | fExp2 (g : Guard) (fmt : FFmt) (rg : BitVec 3) (d a : Reg)
  | fLog2 (g : Guard) (fmt : FFmt) (rg : BitVec 3) (d a : Reg)
  -- X slot
  | xZero (mt : BitVec 3)
  | xLdw (arr : Bool) (wid : Wid) (sp : Sparsity) (qw : BitVec 4) (cols : BitVec 12)
  | xSwap (arr : Bool)
  | xMul (mt : BitVec 3) (qa : BitVec 4) (beats : BitVec 12) (pl : BitVec 5) (sp : Sparsity) (dw sub : Bool)
  | xAcc (mt : BitVec 3) (qa : BitVec 4) (beats : BitVec 12) (pl : BitVec 5) (sub : Bool)
  | xRd (mt : BitVec 3) (fmt : Fmt) (rnd : Rnd) (vx : Reg)
  | xSt (mt : BitVec 3) (qa : BitVec 4) (fmt : Fmt) (rnd : Rnd) (clr : Bool)
  | xCfg (arr : Bool) (reg : XReg) (sx : Reg)
  -- E slot
  | eCpy (h : BitVec 6) (qs qd : BitVec 4) (len : BitVec 16) (dar : Darith) (ord : EOrd) (ec : BitVec 14)
  | eCpyWadd (h : BitVec 6) (qs qd : BitVec 4) (len : BitVec 16) (ord : EOrd) (rnd : BitVec 2) (bexp : BitVec 12)
  | eGath (h : BitVec 6) (qs qd : BitVec 4) (len : BitVec 16) (ord : EOrd) (es : Reg) (xsh : BitVec 5) (glb : Bool)
      (fmt : Fmt)
  | eScat (h : BitVec 6) (qs qd : BitVec 4) (len : BitVec 16) (dar : Darith) (ord : EOrd) (es : Reg) (xsh : BitVec 5)
      (glb : Bool) (fmt : Fmt)
  | eLand (h : BitVec 6) (es : Reg) (tag : BitVec 14)
  | eHset (h : BitVec 6) (ring full : Bool) (isz : BitVec 3) (row rows : BitVec 13)
  | eHfree (h : BitVec 6)
  | eCbp (h : BitVec 6) (act : RingAct)
  | eCbc (h : BitVec 6) (act : RingAct)
  | ePut (h : BitVec 6) (qs : BitVec 4) (len : BitVec 16) (dar : Darith) (ord : EOrd) (es : Reg) (dest : PutDest)
      (be : Bool) (bar : BitVec 6)
  | ePutLand (h : BitVec 6) (qs : BitVec 4) (len : BitVec 16) (ord : EOrd) (es : Reg) (chunk : BitVec 12)
  | eGet (h : BitVec 6) (qd : BitVec 4) (len : BitVec 16) (ord : EOrd) (es : Reg) (rsp : Bool)
  | eRatom (h : BitVec 6) (ord : EOrd) (es : Reg) (op : ROp) (w4 z : Bool)
  | eColl (h : BitVec 6) (len : BitVec 16) (dar : Darith) (ord : EOrd) (es : Reg) (cbase : BitVec 12)
  | eMcast (h : BitVec 6) (qs : BitVec 4) (len : BitVec 16) (ord : EOrd) (es : Reg) (group : BitVec 12)
  | eSig (ord : EOrd) (es : Reg)
  | eCtxSave (h : BitVec 6) (es : Reg) (core : BitVec 3) (units : BitVec 9)
  | eCtxRest (h : BitVec 6) (es : Reg) (core : BitVec 3) (units : BitVec 9)
  -- communication core
  | kNop
  | kAdd (d a b : KReg)
  | kSub (d a b : KReg)
  | kAnd (d a b : KReg)
  | kOr (d a b : KReg)
  | kXor (d a b : KReg)
  | kShl (d a b : KReg)
  | kShr (d a b : KReg)
  | kAddi (d a : KReg) (imm : BitVec 18)
  | kAndi (d a : KReg) (imm : BitVec 18)
  | kOri (d a : KReg) (imm : BitVec 18)
  | kShli (d a : KReg) (imm : BitVec 6)
  | kShri (d a : KReg) (imm : BitVec 6)
  | kLi (d : KReg) (imm : BitVec 22)
  | kLih (d : KReg) (imm : BitVec 16)
  | kMfs (d : KReg) (n : BitVec 5)
  | kLd (d a : KReg) (imm : BitVec 18)
  | kSt (d a : KReg) (imm : BitVec 18)
  | kLdg (d a : KReg) (imm : BitVec 18)
  | kBeq (d a : KReg) (imm : BitVec 18)
  | kBne (d a : KReg) (imm : BitVec 18)
  | kBlt (d a : KReg) (imm : BitVec 18)
  | kJmp (imm : BitVec 22)
  | kCall (d : KReg) (imm : BitVec 22)
  | kRet (a : KReg)
  | kLoop (a : KReg) (imm : BitVec 18)
  | kEnd
  | kEwait (nb : Bool) (d : KReg)
  | kEack (a : KReg)
  | kEmask (a : KReg)
  | kTimer (a b : KReg)
  | kConn (d a : KReg)
  | kRetx (d a b : KReg)
  | kCctl (rto : Bool) (d a b : KReg)
  | kPath (en : Bool) (d a b : KReg)
  | kArm (d a : KReg)
  | kMgrp (a b : KReg)
  | kRfail (a : KReg)
  | kSig (a b : KReg)
  | kRset (d a b : KReg)
  | kPeer (d a : KReg) (imm : BitVec 18)
  | kRpkg (d a : KReg)
  | kSend (a b : KReg) (step : BitVec 14)
  | kRecv (a b : KReg) (step : BitVec 14)
  | kRrs (a b : KReg) (step : BitVec 14)
  | kCopy (a b : KReg)
  | kMcast (a b : KReg) (tag : BitVec 14)
  | kWait (n : BitVec 18)
  -- steps the table gives no encoding: those the machine schedules for itself
  | asyncCauseTake (core : Nat)
  | witnessComplete (core : Nat)
  | adjbComplete (core : Nat)
  | fTableLoadComplete (core : Nat) (ts : Bool)
  | pendingResultDelivery (core : Nat)
  | loadResultArrival (core id : Nat)
  | storeAckArrival (core id : Nat)
  | xLdwComplete (core : Nat) (arr : Bool)
  | xPassCommit (core : Nat) (tile : Nat)
  | xStComplete (core : Nat) (arr : Bool)
  | engineCommandStart (core id : Nat)
  | engineCommandComplete (core id : Nat)
  | landingChunkArrival (core : Nat) (p : TensorPkt)
  | remoteAccessArrival (pkt : Nat)
  | orderedFlagArrival (pkt : Nat)
  | orderedFlagPerform (core : Nat) (pkt : Nat)
  | flagIncrementApply (cluster : Nat) (idx : Nat)
  | barrierPostApply (core id : Nat)
  | barrierArrivalApply (core id : Nat)
  | barrierByteArrival (bar bytes : Nat)
  | pageWalkComplete (core : Nat)
  | tlbInvalidateArrival (core : Nat)
  | tlbiComplete (core : Nat)
  | stepComplete (unit slot id : Nat)
  | mcoreTimerExpire (unit slot timer : Nat)
  | reductionContribution (hop : Option Nat) (p : TensorPkt)
  | reductionResultDelivery (core : Nat) (p : TensorPkt)
  | multicastDelivery (group port : Nat) (p : TensorPkt)
  | transportRtoExpire (conn : Nat)
  | faaCombine (first second : Nat)
  | clusterRelease (lid : Nat)
  | launchCompletionRelease (lid : Nat)
  | coreHaltStop (core : Nat)
  | weightStoreWriteStart (die : Nat)
  | clearToSendArrival (k : StepKey) (rows : Nat)
  | stepRowArrival (k : StepKey) (row : Nat) (poison : Bool) (data : Row)
  | fabricRequestServe (r : FabReq)
  | sweepBlock (die ctl : Nat)
  | sweepStart (die ctl : Nat)
  -- steps the table gives no encoding: the rest
  | clockGateEntry (core : Nat)
  | refreshWindowOpen (core : Nat)
  | refreshWindowClose (core : Nat)
  | dirRead (core line : Nat)
  | dirReadExclusive (core line : Nat)
  | dirUpgrade (core line : Nat)
  | dirEvictionNotice (core line : Nat) (dirty : Bool)
  | l1Invalidate (core line : Nat)
  | l1Downgrade (core line : Nat)
  | hostSnoop (line : Nat) (inv : Bool)
  | hostHbmRead (line : Nat)
  | hostHbmWrite (line : Nat) (data : Row)
  | memoryRead (block world : Nat)
  | memoryWrite (block world : Nat) (lines : BitVec 8) (compress : Bool) (shape : BitVec 2)
  | sweepPause (die ctl : Nat) (hold : Bool)
  | routerPacketReceive (router : Nat) (hdr : BitVec 128)
  | nonminTimeout (pkt : Nat)
  | pegRequest (pkt : Nat)
  | pegArrival (router : Nat)
  | linkFlitNak (link : Nat)
  | linkRetrainComplete (link : Nat)
  | bucketLeak (link : Nat)
  | linkExchangeTimeout (link : Nat)
  | fabricPacketReceive (conn psn : Nat) (authentic : Bool) (payload : FabPayload)
  | fabricAckReceive (conn cum : Nat) (bitmap : BitVec 64) (mark : Bool)
  | transitHoldExpire (idx : Nat)
  | slotLost (slot : Nat)
  | firmwareEventAction (unit : Nat)
  | engineHaltStop (cluster e : Nat)
  | mcoreHaltStop (unit slot : Nat)
  | lportWrite (bytes : List Byte)
  | launchWaitRecheck (queue : Nat)
  | clusterDefect (cluster : Nat)
  | spcmdWopen (wid : Nat)
  | spcmdKeyload (wid : Nat)
  | spcmdWclose (wid : Nat)
  | spcmdToken (wid : Nat)
  | spcmdRekey (wid : Nat)
  | spcmdInvalid (opc : Nat)
  | registerWrite (off : Nat) (value : Word)
  | retentionEntry (core : Nat)
  | powerGateEntry (core : Nat)
  | powerThrottle (on : Bool)
  | debugHalt (lid : Nat)
  | debugStep (core : Nat)
  | debugAccess (core : Nat) (item : DbgItem) (write : Option VReg)
  | backInvalidationResponse (line : Nat)
  | cxlCacheGrant (line : Nat) (state : Mesi) (data : Row)
  | weightStoreGranuleAssign (die granule world : Nat)
  | debugResume (lid : Nat)
  | burrowDelivery
  | pegReissue
  | launchDispatch
  | spcmdConfig
  | spcmdAttest
  | spcmdWarm
  | spcmdSleep
  | spcmdLoad
  | spcmdUnload
  | coldStart
  | sleepExit
  | thermalTrip
  deriving DecidableEq, Repr

end Sys2Proof
end

