-- ==== Sys2Proof/WellFormed.lean ====
section
/-! DEFINITION. Which instructions have an encoding: the values R77 to R85 and the entries of the instructions call reserved
are ill-formed. A step without an encoding is always well-formed. -/
namespace Sys2Proof

/-- The integer formats, codes 0x0 to 0x7 (R45). -/
def Fmt.isInt : Fmt → Bool
  | .s8 | .s16 | .s32 | .s64 | .z8 | .z16 | .z32 | .z64 => true
  | _ => false

/-- The floating formats BF16 to E5M2 (R46). -/
def Fmt.isFloat : Fmt → Bool
  | .bf16 | .fp16 | .fp32 | .fp64 | .e4m3 | .e5m2 => true
  | _ => false

/-- I and F of R168. -/
def Fmt.isIF (f : Fmt) : Bool := f.isInt || f.isFloat

/-- A W and L pair of the table of R78. -/
def wlOk (w l : BitVec 2) : Bool :=
  w == 0#2 || (w == 1#2 && (l == 0#2 || l == 2#2)) || (w == 2#2 && l == 0#2)

def VRange.ok (r : VRange) : Bool := wlOk r.w r.l

/-- Special-register numbers of R85 that name a register. -/
def sprOk (n : Reg) : Bool := !(3 ≤ n.toNat && n.toNat ≤ 7) && n.toNat != 27

def LoopCount.ok : LoopCount → Bool
  | .spr n => sprOk n
  | _ => true

/-- A format of T that the witness forms accept (R219). -/
def witFmtOk (f : Fmt) : Bool := f.isIF

/-- BEATS from 1 and PL from 1 to 16 (R79). -/
def beatsOk (b : BitVec 12) : Bool := b != 0#12
def plOk (p : BitVec 5) : Bool := p != 0#5 && p.toNat ≤ 16

/-- Held values per 16 of a sparsity code (R79). -/
def Sparsity.held : Sparsity → Nat
  | .sp16 => 16 | .sp8 => 8 | .sp4 => 4 | .sp2 => 2

/-- A command without DARITH .wadd in its DARITH field, where the entry gives .wadd a layout or a command of its own. -/
def Darith.plain : Darith → Bool
  | .wadd => false
  | _ => true

/-- EC of e.cpy in the layout of R247, and in that of R251, which a conversion out of WFX128 uses: a word no source format could give a
meaning is ill-formed (R88). -/
def cpyEcOk (ec : BitVec 14) : Bool := !ec.getLsbD 13 && ec.extractLsb' 5 2 != 3#2 && (ec.extractLsb' 7 3).toNat ≤ 4
def wfxEcOk (ec : BitVec 14) : Bool := (ec.extractLsb' 0 12).toNat ≤ 2303

def AOp.isMinMax : AOp → Bool
  | .min | .max => true
  | _ => false

/-- Whether an instruction has an encoding with no reserved value (R77 to R85). -/
def Instr.wf : Instr → Bool
  | .cLoop _ c _ => c.ok
  | .aMfs _ _ n => sprOk n
  | .aMts _ n _ => sprOk n
  | .lAop _ op _ z _ _ _ _ => !z || op.isMinMax
  | .lCas _ sz _ d _ b => sz != .q16 || (d.toNat % 2 == 0 && b.toNat % 2 == 0)
  | .vAdd t _ _ _ r | .vSub t _ _ _ r | .vMul t _ _ _ r | .vFma t _ _ _ r | .vMin t _ _ _ r | .vMax t _ _ _ r =>
    t.isIF && r.ok
  | .vAbs t _ _ r | .vNeg t _ _ r => t.isIF && r.ok
  | .vSadd t _ _ _ r => t.isInt && r.ok
  | .vAnd t _ _ _ r | .vOr t _ _ _ r | .vXor t _ _ _ r => (t.isIF || t == .q4) && r.ok
  | .vShl t _ _ _ r | .vShr t _ _ _ r | .vSar t _ _ _ r => t.isInt && r.ok
  | .vCmp t c wd _ _ r => t.isIF && r.ok && wd != 0#2 && (c != .un || t.isFloat)
  | .vSel t _ _ _ r => (t.isIF || t == .q4) && r.ok
  | .vCvt t f _ _ _ w l => t.isIF && f.isIF && wlOk w l
  | .vScl t _ _ _ _ r => t.isIF && r.ok
  | .vPack t _ _ _ a r | .vUnpk t _ _ _ a r => t.isIF && r.ok && a != 31#5
  | .vRed t op _ _ r => t.isIF && r.ok && (t.isInt || op == .add || op == .min || op == .max)
  | .vRedx t _ _ _ r => t.isIF && r.ok
  | .vPerm t _ _ _ r => t.isIF && r.ok
  | .vRot t _ _ _ r => (t.isIF || t == .q4) && r.ok
  | .vRmg t _ _ _ r => (t == .s8 || t == .z8) && r.ok
  | .vBc t _ _ r => t.isIF && r.ok
  | .vIns t _ _ _ r => t.isIF && r.ok
  | .vExt t _ _ _ w l => t.isIF && wlOk w l
  | .vIota t _ _ r => t.isInt && r.ok
  | .vMovVv t _ _ r => (t.isIF || t == .q4) && r.ok
  | .vMovVw wd _ => wd != 0#2
  | .vWmax t _ _ _ | .vWmin t _ _ _ | .vWmed t _ _ _ | .vWtopk t _ _ _ => witFmtOk t
  | .vWclamp t _ _ b => witFmtOk t && b.toNat ≤ 29
  | .vWsum t _ _ _ => t == .s8 || t == .s16 || t == .s32
  | .vAdjb t _ _ _ _ _ => t == .bf16 || t == .fp16 || t == .fp32 || t == .fp64
  | .fEval _ _ rg _ _ _ => rg != 7#3
  | .fRcp _ _ rg _ _ | .fRsq _ _ rg _ _ | .fExp2 _ _ rg _ _ | .fLog2 _ _ rg _ _ => rg != 7#3
  | .xLdw _ _ sp _ cols => beatsOk cols && cols.toNat ≤ 256 * (16 / sp.held)
  | .xMul _ _ beats pl _ dw _ => beatsOk beats && plOk pl && beats.toNat % (pl.toNat * (if dw then 2 else 1)) == 0
  | .xAcc _ _ beats pl _ => beatsOk beats && plOk pl && beats.toNat % pl.toNat == 0
  | .xRd _ f _ _ => f.isIF
  | .xSt _ _ f _ _ => f.isIF
  | .eCpy _ _ _ _ d _ ec => d.plain && (cpyEcOk ec || (d == .none && wfxEcOk ec))
  | .eCpyWadd _ _ _ _ _ _ b => b.toNat ≤ 2303
  | .eGath _ _ _ len _ _ _ _ f => len != 0#16 && f.isIF
  | .eScat _ _ _ len d _ _ _ glb f => len != 0#16 && f.isIF && d.plain && (!glb || d == .none)
  | .eHset _ ring full isz _ _ => if ring then !full else isz == 0#3
  | .ePut _ _ len d _ es dest be bar =>
    len != 0#16 && d.plain && (be || bar == 0#6) && (dest == .rsp || d == .none) && (dest != .chan || es.toNat ≤ 29)
  | .ePutLand _ _ len _ _ _ => len != 0#16
  | .eGet _ _ len _ _ _ => len != 0#16
  | .eRatom _ _ es op _ z =>
    (match op with | .aop o => es.toNat ≤ 30 && (!z || o.isMinMax) | .cas => es.toNat ≤ 29 && !z)
  | .eColl _ len d _ es cbase =>
    len != 0#16 && len.toNat ≤ 16384 && (d == .wadd || d == .max || d == .min) && es.toNat ≤ 30 &&
      cbase.toNat + (len.toNat - 1) / 1024 ≤ 4095
  | .eMcast _ _ len _ _ _ => len != 0#16
  | .eSig _ es => es.toNat ≤ 30
  | .kMfs _ n => n.toNat ≤ 16
  | .kEwait _ d => 1 ≤ d.toNat && d.toNat ≤ 14
  | .kRetx _ _ b => b != 15#4
  | .kRrs _ b _ => b != 15#4
  | .kWait n => n.toNat ≤ 16
  | _ => true

end Sys2Proof
end

