-- ==== Sys2Proof/Decode.lean ====
section
/-! DEFINITION. The decoder of every slot word and of the words of the communication cores, and the encoder written from the same
tables: R77 to R85, R107, R116, R137, R138, R168, R185, R196, R219, R240 to R252, R260, R272, R278, R310, R359, R399, R415,
R416. The decoder answers none for a word that R84 or R416 makes ILLEGAL. -/
namespace Sys2Proof

/-- The slot classes in presence order (R69). -/
inductive Slot
  | c | a | l | v | f | x | e
  deriving DecidableEq, Repr

/-- The number CAUSE[10:8] gives a slot class (R95), which is its presence bit (R69). -/
def Slot.code : Slot → Nat
  | .c => 0 | .a => 1 | .l => 2 | .v => 3 | .f => 4 | .x => 5 | .e => 6

/-- Bytes of a slot word (R69). -/
def Slot.bytes : Slot → Nat
  | .x | .e => 8
  | _ => 4

/-! Codes of the enumerated fields. -/

def Fmt.code : Fmt → BitVec 4
  | .s8 => 0 | .s16 => 1 | .s32 => 2 | .s64 => 3 | .z8 => 4 | .z16 => 5 | .z32 => 6 | .z64 => 7
  | .bf16 => 8 | .fp16 => 9 | .fp32 => 10 | .fp64 => 11 | .e4m3 => 12 | .e5m2 => 13 | .q4 => 14 | .wfx128 => 15

def Fmt.ofCode (c : BitVec 4) : Fmt :=
  match c.toNat with
  | 0 => .s8 | 1 => .s16 | 2 => .s32 | 3 => .s64 | 4 => .z8 | 5 => .z16 | 6 => .z32 | 7 => .z64
  | 8 => .bf16 | 9 => .fp16 | 10 => .fp32 | 11 => .fp64 | 12 => .e4m3 | 13 => .e5m2 | 14 => .q4 | _ => .wfx128

def Rnd.code : Rnd → BitVec 3
  | .rne => 0 | .rtz => 1 | .rup => 2 | .rdn => 3 | .rto => 4

def Rnd.ofCode (c : BitVec 3) : Option Rnd :=
  match c.toNat with
  | 0 => some .rne | 1 => some .rtz | 2 => some .rup | 3 => some .rdn | 4 => some .rto | _ => none

def Scope.code : Scope → BitVec 3
  | .task => 0 | .clu => 1 | .die => 2 | .pkg => 3 | .fab => 4 | .sys => 5

def Scope.ofCode (c : BitVec 3) : Option Scope :=
  match c.toNat with
  | 0 => some .task | 1 => some .clu | 2 => some .die | 3 => some .pkg | 4 => some .fab | 5 => some .sys | _ => none

def HCond.code : HCond → BitVec 5
  | .free => 0 | .full => 1 | .quiet => 2 | .ready => 3 | .room => 4

def HCond.ofCode (c : BitVec 5) : Option HCond :=
  match c.toNat with
  | 0 => some .free | 1 => some .full | 2 => some .quiet | 3 => some .ready | 4 => some .room | _ => none

def FAction.code : FAction → BitVec 6
  | .wake => 1 | .start => 2 | .signal => 3

def FAction.ofCode (c : BitVec 6) : Option FAction :=
  match c.toNat with
  | 1 => some .wake | 2 => some .start | 3 => some .signal | _ => none

def ACond.code : ACond → BitVec 6
  | .eq => 0 | .ne => 1 | .lt => 2 | .ge => 3 | .lo => 4 | .hs => 5

def ACond.ofCode (c : BitVec 6) : Option ACond :=
  match c.toNat with
  | 0 => some .eq | 1 => some .ne | 2 => some .lt | 3 => some .ge | 4 => some .lo | 5 => some .hs | _ => none

def VCond.code : VCond → BitVec 3
  | .eq => 0 | .ne => 1 | .lt => 2 | .ge => 3 | .le => 4 | .gt => 5 | .un => 6

def VCond.ofCode (c : BitVec 3) : Option VCond :=
  match c.toNat with
  | 0 => some .eq | 1 => some .ne | 2 => some .lt | 3 => some .ge | 4 => some .le | 5 => some .gt | 6 => some .un
  | _ => none

def RowSel.code : RowSel → BitVec 2
  | .lo => 0 | .pair => 1 | .hi => 2

def RowSel.ofCode (c : BitVec 2) : Option RowSel :=
  match c.toNat with
  | 0 => some .lo | 1 => some .pair | 2 => some .hi | _ => none

def Size.code : Size → BitVec 2
  | .b1 => 0 | .b2 => 1 | .b4 => 2 | .b8 => 3

def Size.ofCode (c : BitVec 2) : Size :=
  match c.toNat with
  | 0 => .b1 | 1 => .b2 | 2 => .b4 | _ => .b8

def AOp.code : AOp → BitVec 3
  | .add => 0 | .min => 1 | .max => 2 | .and => 3 | .or => 4 | .xor => 5 | .xchg => 6

def AOp.ofCode (c : BitVec 3) : Option AOp :=
  match c.toNat with
  | 0 => some .add | 1 => some .min | 2 => some .max | 3 => some .and | 4 => some .or | 5 => some .xor
  | 6 => some .xchg | _ => none

def ROp.code : ROp → BitVec 3
  | .aop o => o.code
  | .cas => 7

def ROp.ofCode (c : BitVec 3) : ROp :=
  match AOp.ofCode c with
  | some o => .aop o
  | none => .cas

/-- K[3:2] of l.cas: .w4 in the upper bit, .q16 in the lower (R137). -/
def CasSize.code : CasSize → BitVec 2
  | .w8 => 0 | .q16 => 1 | .w4 => 2

def CasSize.ofCode (c : BitVec 2) : Option CasSize :=
  match c.toNat with
  | 0 => some .w8 | 1 => some .q16 | 2 => some .w4 | _ => none

def FenceKind.code : FenceKind → BitVec 2
  | .acq => 0 | .rel => 1 | .full => 2

def FenceKind.ofCode (c : BitVec 2) : Option FenceKind :=
  match c.toNat with
  | 0 => some .acq | 1 => some .rel | 2 => some .full | _ => none

def QType.code : QType → BitVec 2
  | .uni => 0 | .e2m1 => 1 | .pow2 => 2 | .hyb => 3

def QType.ofCode (c : BitVec 2) : QType :=
  match c.toNat with
  | 0 => .uni | 1 => .e2m1 | 2 => .pow2 | _ => .hyb

def RedOp.code : RedOp → BitVec 3
  | .add => 0 | .min => 1 | .max => 2 | .and => 3 | .or => 4 | .xor => 5

def RedOp.ofCode (c : BitVec 3) : Option RedOp :=
  match c.toNat with
  | 0 => some .add | 1 => some .min | 2 => some .max | 3 => some .and | 4 => some .or | 5 => some .xor | _ => none

def AdjMode.code : AdjMode → BitVec 2
  | .first => 0 | .split => 1 | .pass => 2

def AdjMode.ofCode (c : BitVec 2) : Option AdjMode :=
  match c.toNat with
  | 0 => some .first | 1 => some .split | 2 => some .pass | _ => none

def FFmt.code : FFmt → BitVec 2
  | .bf16 => 0 | .fp16 => 1 | .fp32 => 2

def FFmt.ofCode (c : BitVec 2) : Option FFmt :=
  match c.toNat with
  | 0 => some .bf16 | 1 => some .fp16 | 2 => some .fp32 | _ => none

def Wid.code : Wid → BitVec 2
  | .sw => 0 | .dwh => 1 | .dwl => 2

def Wid.ofCode (c : BitVec 2) : Option Wid :=
  match c.toNat with
  | 0 => some .sw | 1 => some .dwh | 2 => some .dwl | _ => none

def Sparsity.code : Sparsity → BitVec 2
  | .sp16 => 0 | .sp8 => 1 | .sp4 => 2 | .sp2 => 3

def Sparsity.ofCode (c : BitVec 2) : Sparsity :=
  match c.toNat with
  | 0 => .sp16 | 1 => .sp8 | 2 => .sp4 | _ => .sp2

def Darith.code : Darith → BitVec 3
  | .none => 0 | .add => 1 | .max => 2 | .min => 3 | .wadd => 4

def Darith.ofCode (c : BitVec 3) : Option Darith :=
  match c.toNat with
  | 0 => some .none | 1 => some .add | 2 => some .max | 3 => some .min | 4 => some .wadd | _ => Option.none

def XReg.code : XReg → BitVec 2
  | .rdcur => 0 | .oscale => 1

def XReg.ofCode (c : BitVec 2) : Option XReg :=
  match c.toNat with
  | 0 => some .rdcur | 1 => some .oscale | _ => none

def PutDest.code : PutDest → BitVec 2
  | .gva => 0 | .rsp => 2 | .chan => 3

def RingAct.code : RingAct → BitVec 16
  | .adv n => 0#2 ++ n
  | .bind q => 1#2 ++ 0#10 ++ q
  | .unb => 2#2 ++ 0#14

def RingAct.ofCode (len : BitVec 16) : Option RingAct :=
  match (len.extractLsb' 14 2).toNat with
  | 0 => some (.adv (len.extractLsb' 0 14))
  | 1 => if len.extractLsb' 4 10 = 0#10 then some (.bind (len.extractLsb' 0 4)) else none
  | 2 => if len.extractLsb' 0 14 = 0#14 then some .unb else none
  | _ => none

/-- A single bit as a field. -/
def bit (b : Bool) : BitVec 1 := BitVec.ofBool b

/-! The forms of R77. -/

def wordR (op : Nat) (g : Guard) (d a b : BitVec 5) (k : BitVec 6) : BitVec 32 := BitVec.ofNat 7 op ++ g ++ d ++ a ++ b ++ k
def wordI (op : Nat) (g : Guard) (d a : BitVec 5) (imm : BitVec 11) : BitVec 32 := BitVec.ofNat 7 op ++ g ++ d ++ a ++ imm
def wordJ (op : Nat) (g : Guard) (d : BitVec 5) (imm : BitVec 16) : BitVec 32 := BitVec.ofNat 7 op ++ g ++ d ++ imm
def wordM (op : Nat) (g : Guard) (d a : BitVec 5) (q : BitVec 3) (off : BitVec 8) : BitVec 32 :=
  BitVec.ofNat 7 op ++ g ++ d ++ a ++ q ++ off
def wordP (op : Nat) (g : Guard) (ck : BitVec 2) (cv : BitVec 8) (last : BitVec 11) : BitVec 32 :=
  BitVec.ofNat 7 op ++ g ++ ck ++ cv ++ last
/-- The V word of R78. -/
def wordV (op : Nat) (t : Fmt) (d a b : BitVec 5) (r : VRange) : BitVec 32 :=
  BitVec.ofNat 7 op ++ t.code ++ d ++ a ++ b ++ r.w ++ r.l ++ r.m
/-- The X word of R79. -/
def wordX (op : Nat) (arr : Bool) (mt : BitVec 3) (qa qw : BitVec 4) (beats : BitVec 12) (pl : BitVec 5) (sp : BitVec 2)
    (mode : BitVec 8) (xr : BitVec 5) : BitVec 64 :=
  BitVec.ofNat 7 op ++ bit arr ++ mt ++ qa ++ qw ++ beats ++ pl ++ sp ++ mode ++ xr ++ 0#13
/-- The E word of R81. -/
def wordE (op : Nat) (h : BitVec 6) (qs qd : BitVec 4) (len : BitVec 16) (dar : BitVec 3) (acq rel : Bool) (scope : BitVec 3)
    (es : BitVec 5) (ec : BitVec 14) : BitVec 64 :=
  BitVec.ofNat 7 op ++ h ++ qs ++ qd ++ len ++ dar ++ bit acq ++ bit rel ++ scope ++ es ++ ec
/-- The three forms of R415. -/
def wordKR (op : Nat) (d a b : KReg) (x : BitVec 14) : BitVec 32 := BitVec.ofNat 6 op ++ d ++ a ++ b ++ x
def wordKI (op : Nat) (d a : KReg) (imm : BitVec 18) : BitVec 32 := BitVec.ofNat 6 op ++ d ++ a ++ imm
def wordKL (op : Nat) (d : KReg) (imm : BitVec 22) : BitVec 32 := BitVec.ofNat 6 op ++ d ++ imm

/-- A predicate field: bits 4:3 zero (R77). -/
def predField (f : BitVec 5) : Option (BitVec 3) := if f.extractLsb' 3 2 = 0#2 then some (f.extractLsb' 0 3) else none
/-- A stream field: bit 4 zero (R77). -/
def streamField (f : BitVec 5) : Option (BitVec 4) := if f.extractLsb' 4 1 = 0#1 then some (f.extractLsb' 0 4) else none

/-- A word is accepted only when no value of it is reserved (R84). -/
def checked (i : Instr) : Option Instr := if i.wf then some i else none

/-- An instruction under a condition on its unused fields, which must be zero (R77). -/
def given_ (b : Bool) (i : Instr) : Option Instr := if b then checked i else none

/-- The C words (R84, R107, R278, R310, R351, R359, R274). -/
def decodeC (w : BitVec 32) : Option Instr :=
  let g := w.extractLsb' 21 4
  let d := w.extractLsb' 16 5
  let a := w.extractLsb' 11 5
  let b := w.extractLsb' 6 5
  let k := w.extractLsb' 0 6
  let imm := w.extractLsb' 0 16
  let dz := d == 0#5
  let az := a == 0#5
  let bz := b == 0#5
  let kz := k == 0#6
  match (w.extractLsb' 25 7).toNat with
  | 0x00 => given_ (dz && az && bz && kz) (.cNop g)
  | 0x01 => given_ dz (.cBr g imm)
  | 0x02 => given_ (dz && bz && kz) (.cJmp g a)
  | 0x03 => checked (.cCall g d imm)
  | 0x04 => given_ (dz && bz && kz) (.cRet g a)
  | 0x05 =>
    let cv := w.extractLsb' 11 8
    let last := w.extractLsb' 0 11
    (match (w.extractLsb' 19 2).toNat with
     | 0 => checked (.cLoop g (.imm cv) last)
     | 1 => given_ (cv.extractLsb' 5 3 == 0#3) (.cLoop g (.sreg (cv.extractLsb' 0 5)) last)
     | 2 => given_ (cv.extractLsb' 5 3 == 0#3) (.cLoop g (.spr (cv.extractLsb' 0 5)) last)
     | _ => none)
  | 0x06 => given_ dz (.cBrk g imm)
  | 0x07 => given_ dz (.cTrap g imm)
  | 0x08 => given_ (dz && az && bz && kz) (.cTret g)
  | 0x09 => given_ (dz && az && bz && kz) (.cEnd g)
  | 0x10 => given_ dz (.cWait g (w.extractLsb' 12 4) (w.extractLsb' 8 4) (w.extractLsb' 4 4) (w.extractLsb' 0 4))
  | 0x11 => (HCond.ofCode b).bind fun c => given_ (dz && az) (.cWaith g c k)
  | 0x12 => given_ (dz && bz) (.cWaitt g a k)
  | 0x13 => given_ (dz && bz && kz) (.cWaitl g a)
  | 0x14 => given_ (dz && az) (.cScheck g (w.extractLsb' 0 11))
  | 0x18 => given_ (dz && kz) (.cRelb g a b)
  | 0x19 => given_ (dz && kz) (.cAcqb g a b)
  | 0x20 => given_ (dz && kz) (.cFinc g a b)
  | 0x21 => given_ (dz && kz) (.cFwait g a b)
  | 0x22 => (FAction.ofCode k).bind fun f => given_ dz (.cFarm g a b f)
  | 0x23 => given_ (dz && bz && kz) (.cFdis g a)
  | 0x28 => given_ (dz && kz) (.cBpost g a b)
  | 0x29 => given_ (dz && bz && kz) (.cBarr g a)
  | 0x2A => given_ (dz && bz && kz) (.cBwait g a)
  | 0x30 => given_ (dz && bz && kz) (.cLaunch g a)
  | 0x31 => (Scope.ofCode (k.extractLsb' 0 3)).bind fun s => given_ (dz && bz && k.extractLsb' 3 3 == 0#3) (.cTlbi g a s)
  | 0x32 => given_ (dz && az && bz && k.extractLsb' 5 1 == 0#1) (.cScrub g (k.extractLsb' 0 5))
  | _ => none

/-- The A words (R84, R116). -/
def decodeA (w : BitVec 32) : Option Instr :=
  let g := w.extractLsb' 21 4
  let d := w.extractLsb' 16 5
  let a := w.extractLsb' 11 5
  let b := w.extractLsb' 6 5
  let k := w.extractLsb' 0 6
  let imm11 := w.extractLsb' 0 11
  let imm16 := w.extractLsb' 0 16
  let sh := w.extractLsb' 0 6
  let shz := w.extractLsb' 6 5 == 0#5
  let bz := b == 0#5
  let kz := k == 0#6
  let z := k == 1#6
  let zOk := kz || z
  match (w.extractLsb' 25 7).toNat with
  | 0x00 => given_ kz (.aAdd g d a b)
  | 0x01 => given_ kz (.aSub g d a b)
  | 0x02 => given_ kz (.aAnd g d a b)
  | 0x03 => given_ kz (.aOr g d a b)
  | 0x04 => given_ kz (.aXor g d a b)
  | 0x05 => given_ kz (.aShl g d a b)
  | 0x06 => given_ kz (.aShr g d a b)
  | 0x07 => given_ kz (.aSar g d a b)
  | 0x08 => given_ kz (.aMul g d a b)
  | 0x09 => given_ zOk (.aMulh g d a b z)
  | 0x0A => given_ zOk (.aMin g d a b z)
  | 0x0B => given_ zOk (.aMax g d a b z)
  | 0x0C => (ACond.ofCode k).bind fun c => (predField d).bind fun p => checked (.aCmp g c p a b)
  | 0x0D => given_ (k.extractLsb' 3 3 == 0#3) (.aSel g d a b (k.extractLsb' 0 3))
  | 0x0E => given_ (bz && kz) (.aClz g d a)
  | 0x0F => given_ (bz && kz) (.aPop g d a)
  | 0x10 => checked (.aAddi g d a imm11)
  | 0x11 => checked (.aAndi g d a imm11)
  | 0x12 => checked (.aOri g d a imm11)
  | 0x13 => checked (.aXori g d a imm11)
  | 0x14 => given_ shz (.aShli g d a sh)
  | 0x15 => given_ shz (.aShri g d a sh)
  | 0x18 => checked (.aLi g d imm16)
  | 0x19 => checked (.aLih g d imm16)
  | 0x1A => given_ (bz && kz) (.aMov g d a)
  | 0x1B => given_ (bz && kz) (.aMfs g d a)
  | 0x1C => given_ (bz && kz) (.aMts g d a)
  | 0x20 => (predField d).bind fun pd => (predField a).bind fun pa => (predField b).bind fun pb =>
      given_ kz (.aPand g pd pa pb)
  | 0x21 => (predField d).bind fun pd => (predField a).bind fun pa => (predField b).bind fun pb =>
      given_ kz (.aPor g pd pa pb)
  | 0x22 => (predField d).bind fun pd => (predField a).bind fun pa => (predField b).bind fun pb =>
      given_ kz (.aPxor g pd pa pb)
  | 0x23 => (predField d).bind fun pd => (predField a).bind fun pa => given_ (bz && kz) (.aPnot g pd pa)
  | 0x28 => (streamField d).bind fun q => given_ (bz && k.extractLsb' 2 4 == 0#4) (.aQset g q a (k.extractLsb' 0 2))
  | 0x29 => (streamField a).bind fun q => given_ (bz && k.extractLsb' 2 4 == 0#4) (.aQget g d q (k.extractLsb' 0 2))
  | 0x2A => given_ (a == 0#5 && bz) (.aHq g d k)
  | _ => none

/-- The L words (R84, R137, R138). -/
def decodeL (w : BitVec 32) : Option Instr :=
  let g := w.extractLsb' 21 4
  let d := w.extractLsb' 16 5
  let a := w.extractLsb' 11 5
  let b := w.extractLsb' 6 5
  let k := w.extractLsb' 0 6
  let q := w.extractLsb' 8 3
  let off := w.extractLsb' 0 8
  let q0 := q.getLsbD 0
  let q1 := q.getLsbD 1
  let q2 := q.getLsbD 2
  let dz := d == 0#5
  let az := a == 0#5
  let bz := b == 0#5
  let kz := k == 0#6
  match (w.extractLsb' 25 7).toNat with
  | 0x00 => (RowSel.ofCode (q.extractLsb' 0 2)).bind fun s => given_ (!q2) (.lLd g s d a off)
  | 0x01 => (RowSel.ofCode (q.extractLsb' 0 2)).bind fun s => given_ (!q2) (.lSt g s d a off)
  | 0x02 => (streamField d).bind fun qd => given_ (q.extractLsb' 1 2 == 0#2) (.lLdq g q0 qd a off)
  | 0x03 => (streamField d).bind fun qd => given_ (q == 0#3) (.lStq g qd a off)
  | 0x08 => checked (.lLdg g (Size.ofCode (q.extractLsb' 0 2)) q2 d a off)
  | 0x09 => checked (.lStg g (Size.ofCode (q.extractLsb' 0 2)) q2 d a off)
  | 0x0A => checked (.lLdgv g q0 q1 q2 d a off)
  | 0x0B => checked (.lStgv g q0 q1 q2 d a off)
  | 0x10 => (RowSel.ofCode (q.extractLsb' 0 2)).bind fun s => checked (.lLdx g s q2 d a off)
  | 0x11 => (RowSel.ofCode (q.extractLsb' 0 2)).bind fun s => checked (.lStx g s q2 d a off)
  | 0x18 => (AOp.ofCode (k.extractLsb' 0 3)).bind fun o =>
      checked (.lAop g o (k.getLsbD 3) (k.getLsbD 4) (k.getLsbD 5) d a b)
  | 0x19 => (CasSize.ofCode (k.extractLsb' 2 2)).bind fun s =>
      given_ (k.extractLsb' 0 2 == 0#2 && !k.getLsbD 4) (.lCas g s (k.getLsbD 5) d a b)
  | 0x1A => (AOp.ofCode (k.extractLsb' 0 3)).bind fun o => checked (.lSaop g o (k.extractLsb' 3 3) d a b)
  | 0x20 => (FenceKind.ofCode (k.extractLsb' 3 2)).bind fun f => (Scope.ofCode (k.extractLsb' 0 3)).bind fun s =>
      given_ (dz && az && bz && !k.getLsbD 5) (.lFence g f s)
  | 0x21 => (Scope.ofCode (k.extractLsb' 0 3)).bind fun s =>
      given_ (dz && az && bz && k.extractLsb' 3 3 == 0#3) (.lDrain g s)
  | 0x28 => given_ (dz && bz && kz) (.lCwb g a)
  | 0x29 => given_ (dz && bz && kz) (.lCinv g a)
  | 0x2A => given_ (dz && bz && kz) (.lCzero g a)
  | 0x2B => given_ (dz && !q2) (.lPf g q0 q1 a off)
  | 0x2C => given_ (bz && kz) (.lTlbp g d a)
  | _ => none

/-- The V words (R78, R84, R168, R184, R219). -/
def decodeV (w : BitVec 32) : Option Instr :=
  let t := Fmt.ofCode (w.extractLsb' 21 4)
  let tz := w.extractLsb' 21 4 == 0#4
  let d := w.extractLsb' 16 5
  let a := w.extractLsb' 11 5
  let b := w.extractLsb' 6 5
  let r : VRange := ⟨w.extractLsb' 4 2, w.extractLsb' 2 2, w.extractLsb' 0 2⟩
  let rz := w.extractLsb' 0 6 == 0#6
  let bz := b == 0#5
  match (w.extractLsb' 25 7).toNat with
  | 0x00 => checked (.vAdd t d a b r)
  | 0x01 => checked (.vSub t d a b r)
  | 0x02 => checked (.vMul t d a b r)
  | 0x03 => checked (.vFma t d a b r)
  | 0x04 => checked (.vMin t d a b r)
  | 0x05 => checked (.vMax t d a b r)
  | 0x06 => given_ bz (.vAbs t d a r)
  | 0x07 => given_ bz (.vNeg t d a r)
  | 0x08 => checked (.vSadd t d a b r)
  | 0x10 => checked (.vAnd t d a b r)
  | 0x11 => checked (.vOr t d a b r)
  | 0x12 => checked (.vXor t d a b r)
  | 0x13 => checked (.vShl t d a b r)
  | 0x14 => checked (.vShr t d a b r)
  | 0x15 => checked (.vSar t d a b r)
  | 0x18 => (VCond.ofCode (d.extractLsb' 2 3)).bind fun c => checked (.vCmp t c (d.extractLsb' 0 2) a b r)
  | 0x19 => checked (.vSel t d a b r)
  | 0x20 => (Rnd.ofCode (b.extractLsb' 4 1 ++ r.m)).bind fun rd =>
      checked (.vCvt t (Fmt.ofCode (b.extractLsb' 0 4)) rd d a r.w r.l)
  | 0x21 => given_ (b.extractLsb' 3 2 == 0#2) (.vScl t (QType.ofCode (b.extractLsb' 0 2)) (b.getLsbD 2) d a r)
  | 0x22 => (Rnd.ofCode (b.extractLsb' 0 3)).bind fun rd => given_ (!b.getLsbD 4) (.vPack t rd (b.getLsbD 3) d a r)
  | 0x23 => (Rnd.ofCode (b.extractLsb' 0 3)).bind fun rd => given_ (!b.getLsbD 4) (.vUnpk t rd (b.getLsbD 3) d a r)
  | 0x28 => (RedOp.ofCode (b.extractLsb' 0 3)).bind fun o => given_ (b.extractLsb' 3 2 == 0#2) (.vRed t o d a r)
  | 0x29 => given_ (b.extractLsb' 1 4 == 0#4) (.vRedx t (b.getLsbD 0) d a r)
  | 0x30 => checked (.vPerm t d a b r)
  | 0x31 => checked (.vRot t d a b r)
  | 0x32 => checked (.vRmg t d a b r)
  | 0x33 => given_ bz (.vBc t d a r)
  | 0x34 => checked (.vIns t d a b r)
  | 0x35 => given_ (r.m == 0#2) (.vExt t d a b r.w r.l)
  | 0x36 => given_ bz (.vIota t d a r)
  | 0x37 =>
    (match b.toNat with
     | 0 => checked (.vMovVv t d a r)
     | 1 => given_ (tz && rz && d.extractLsb' 2 3 == 0#3) (.vMovVw (d.extractLsb' 0 2) a)
     | 2 => given_ (tz && rz && a.extractLsb' 2 3 == 0#3) (.vMovWv d (a.extractLsb' 0 2))
     | _ => none)
  | 0x40 => given_ rz (.vWmax t d a b)
  | 0x41 => given_ rz (.vWmin t d a b)
  | 0x42 => given_ rz (.vWclamp t d a b)
  | 0x43 => given_ rz (.vWmed t d a b)
  | 0x44 => given_ rz (.vWsum t d a b)
  | 0x45 => given_ rz (.vWtopk t d a b)
  | 0x46 => (AdjMode.ofCode (d.extractLsb' 0 2)).bind fun m =>
      given_ (rz && !d.getLsbD 4) (.vAdjb t m (d.getLsbD 2) (d.getLsbD 3) a b)
  | _ => none

/-- The F words (R185, R186). -/
def decodeF (w : BitVec 32) : Option Instr :=
  let g := w.extractLsb' 21 4
  let d := w.extractLsb' 16 5
  let a := w.extractLsb' 11 5
  let b := w.extractLsb' 6 5
  let k := w.extractLsb' 0 6
  let ts := k.getLsbD 5
  let rg := k.extractLsb' 2 3
  let bz := b == 0#5
  let fmt := FFmt.ofCode (k.extractLsb' 0 2)
  match (w.extractLsb' 25 7).toNat with
  | 0x00 => given_ (d == 0#5 && bz && k.extractLsb' 0 5 == 0#5) (.fTsel g ts a)
  | 0x01 => fmt.bind fun f => given_ bz (.fEval g f rg ts d a)
  | 0x02 => fmt.bind fun f => given_ (bz && !ts) (.fRcp g f rg d a)
  | 0x03 => fmt.bind fun f => given_ (bz && !ts) (.fRsq g f rg d a)
  | 0x04 => fmt.bind fun f => given_ (bz && !ts) (.fExp2 g f rg d a)
  | 0x05 => fmt.bind fun f => given_ (bz && !ts) (.fLog2 g f rg d a)
  | _ => none

/-- The X words (R79, R80, R196, R197). Bits 12:0 must be zero and MT[2] must equal ARR. -/
def decodeX (w : BitVec 64) : Option Instr :=
  let arr := w.getLsbD 56
  let mt := w.extractLsb' 53 3
  let qa := w.extractLsb' 49 4
  let qw := w.extractLsb' 45 4
  let beats := w.extractLsb' 33 12
  let pl := w.extractLsb' 28 5
  let sp := w.extractLsb' 26 2
  let mode := w.extractLsb' 18 8
  let xr := w.extractLsb' 13 5
  let own := mt.getLsbD 2 == arr
  let mtz := mt == 0#3
  let qaz := qa == 0#4
  let qwz := qw == 0#4
  let bz := beats == 0#12
  let plz := pl == 0#5
  let spz := sp == 0#2
  let xz := xr == 0#5
  if w.extractLsb' 0 13 != 0#13 then none
  else match (w.extractLsb' 57 7).toNat with
  | 0x00 => given_ (own && qaz && qwz && bz && plz && spz && mode == 0#8 && xz) (.xZero mt)
  | 0x01 => (Wid.ofCode (mode.extractLsb' 0 2)).bind fun wd =>
      given_ (mtz && qaz && plz && mode.extractLsb' 2 6 == 0#6 && xz) (.xLdw arr wd (Sparsity.ofCode sp) qw beats)
  | 0x02 => given_ (mtz && qaz && qwz && bz && plz && spz && mode == 0#8 && xz) (.xSwap arr)
  | 0x03 => given_ (own && qwz && mode.extractLsb' 2 6 == 0#6 && xz)
      (.xMul mt qa beats pl (Sparsity.ofCode sp) (mode.getLsbD 0) (mode.getLsbD 1))
  | 0x04 => given_ (own && qwz && spz && mode.extractLsb' 2 6 == 0#6 && !mode.getLsbD 0 && xz)
      (.xAcc mt qa beats pl (mode.getLsbD 1))
  | 0x05 => (Rnd.ofCode (mode.extractLsb' 4 3)).bind fun rd =>
      given_ (own && qaz && qwz && bz && plz && spz && !mode.getLsbD 7) (.xRd mt (Fmt.ofCode (mode.extractLsb' 0 4)) rd xr)
  | 0x06 => (Rnd.ofCode (mode.extractLsb' 4 3)).bind fun rd =>
      given_ (own && qwz && bz && plz && spz && xz) (.xSt mt qa (Fmt.ofCode (mode.extractLsb' 0 4)) rd (mode.getLsbD 7))
  | 0x07 => (XReg.ofCode (mode.extractLsb' 0 2)).bind fun x =>
      given_ (mtz && qaz && qwz && bz && plz && spz && mode.extractLsb' 2 6 == 0#6) (.xCfg arr x xr)
  | _ => none

/-- The E words (R81, R83, R240, R243, R247, R251, R252, R260, R272, R399). -/
def decodeE (w : BitVec 64) : Option Instr :=
  let h := w.extractLsb' 51 6
  let qs := w.extractLsb' 47 4
  let qd := w.extractLsb' 43 4
  let len := w.extractLsb' 27 16
  let dar := w.extractLsb' 24 3
  let es := w.extractLsb' 14 5
  let ec := w.extractLsb' 0 14
  let hz := h == 0#6
  let qsz := qs == 0#4
  let qdz := qd == 0#4
  let lz := len == 0#16
  let dz := dar == 0#3
  let esz := es == 0#5
  let ecz := ec == 0#14
  let ordz := w.extractLsb' 19 5 == 0#5
  let ord := (Scope.ofCode (w.extractLsb' 19 3)).map fun s => EOrd.mk (w.getLsbD 23) (w.getLsbD 22) s
  match (w.extractLsb' 57 7).toNat with
  | 0x00 => ord.bind fun o => (Darith.ofCode dar).bind fun d =>
      if d = .wadd then given_ esz (.eCpyWadd h qs qd len o (ec.extractLsb' 12 2) (ec.extractLsb' 0 12))
      else given_ esz (.eCpy h qs qd len d o ec)
  | 0x01 => ord.bind fun o =>
      given_ (dz && ec.extractLsb' 10 4 == 0#4)
        (.eGath h qs qd len o es (ec.extractLsb' 5 5) (ec.getLsbD 4) (Fmt.ofCode (ec.extractLsb' 0 4)))
  | 0x02 => ord.bind fun o => (Darith.ofCode dar).bind fun d =>
      given_ (ec.extractLsb' 10 4 == 0#4)
        (.eScat h qs qd len d o es (ec.extractLsb' 5 5) (ec.getLsbD 4) (Fmt.ofCode (ec.extractLsb' 0 4)))
  | 0x03 => given_ (qsz && qdz && lz && dz && ordz) (.eLand h es ec)
  | 0x04 =>
    let row := ec.extractLsb' 0 13
    let rows := len.extractLsb' 0 13
    if ec.getLsbD 13 then given_ (qsz && qdz && dz && ordz && esz) (.eHset h true false (len.extractLsb' 13 3) row rows)
    else given_ (qsz && qdz && dz && ordz && esz && len.extractLsb' 14 2 == 0#2)
      (.eHset h false (len.getLsbD 13) 0#3 row rows)
  | 0x05 => given_ (qsz && qdz && lz && dz && ordz && esz && ecz) (.eHfree h)
  | 0x06 => (RingAct.ofCode len).bind fun act => given_ (qsz && qdz && dz && ordz && esz && ecz) (.eCbp h act)
  | 0x07 => (RingAct.ofCode len).bind fun act => given_ (qsz && qdz && dz && ordz && esz && ecz) (.eCbc h act)
  | 0x10 => ord.bind fun o => (Darith.ofCode dar).bind fun d =>
    (match (ec.extractLsb' 12 2).toNat with
     | 1 => given_ (qdz && dz) (.ePutLand h qs len o es (ec.extractLsb' 0 12))
     | 0 => given_ (qdz && ec.extractLsb' 7 5 == 0#5) (.ePut h qs len d o es .gva (ec.getLsbD 6) (ec.extractLsb' 0 6))
     | 2 => given_ (qdz && ec.extractLsb' 7 5 == 0#5) (.ePut h qs len d o es .rsp (ec.getLsbD 6) (ec.extractLsb' 0 6))
     | _ => given_ (qdz && ec.extractLsb' 7 5 == 0#5) (.ePut h qs len d o es .chan (ec.getLsbD 6) (ec.extractLsb' 0 6)))
  | 0x11 => ord.bind fun o =>
      given_ (qsz && dz && !ec.getLsbD 12 && ec.extractLsb' 0 12 == 0#12) (.eGet h qd len o es (ec.getLsbD 13))
  | 0x12 => ord.bind fun o =>
      given_ (qsz && qdz && lz && dz && ec.extractLsb' 5 9 == 0#9)
        (.eRatom h o es (ROp.ofCode (ec.extractLsb' 0 3)) (ec.getLsbD 3) (ec.getLsbD 4))
  | 0x13 => ord.bind fun o => (Darith.ofCode dar).bind fun d =>
      given_ (qsz && qdz && ec.extractLsb' 12 2 == 0#2) (.eColl h len d o es (ec.extractLsb' 0 12))
  | 0x14 => ord.bind fun o =>
      given_ (qdz && dz && ec.extractLsb' 12 2 == 0#2) (.eMcast h qs len o es (ec.extractLsb' 0 12))
  | 0x15 => ord.bind fun o => given_ (hz && qsz && qdz && lz && dz && ecz) (.eSig o es)
  | 0x18 =>
    (match (ec.extractLsb' 12 2).toNat with
     | 0 => given_ (qsz && qdz && lz && dz && ordz) (.eCtxSave h es (ec.extractLsb' 9 3) (ec.extractLsb' 0 9))
     | 1 => given_ (qsz && qdz && lz && dz && ordz) (.eCtxRest h es (ec.extractLsb' 9 3) (ec.extractLsb' 0 9))
     | _ => none)
  | _ => none

/-- The words of the communication cores (R415, R416, R418 to R441). -/
def decodeK (w : BitVec 32) : Option Instr :=
  let d := w.extractLsb' 22 4
  let a := w.extractLsb' 18 4
  let b := w.extractLsb' 14 4
  let x := w.extractLsb' 0 14
  let imm := w.extractLsb' 0 18
  let imm22 := w.extractLsb' 0 22
  let dz := d == 0#4
  let az := a == 0#4
  let bz := b == 0#4
  let xz := x == 0#14
  let shz := imm.extractLsb' 6 12 == 0#12
  let sh := imm.extractLsb' 0 6
  match (w.extractLsb' 26 6).toNat with
  | 0x00 => given_ (dz && az && bz && xz) .kNop
  | 0x01 => given_ xz (.kAdd d a b)
  | 0x02 => given_ xz (.kSub d a b)
  | 0x03 => given_ xz (.kAnd d a b)
  | 0x04 => given_ xz (.kOr d a b)
  | 0x05 => given_ xz (.kXor d a b)
  | 0x06 => given_ xz (.kShl d a b)
  | 0x07 => given_ xz (.kShr d a b)
  | 0x08 => checked (.kAddi d a imm)
  | 0x09 => checked (.kAndi d a imm)
  | 0x0A => checked (.kOri d a imm)
  | 0x0B => given_ shz (.kShli d a sh)
  | 0x0C => given_ shz (.kShri d a sh)
  | 0x0D => checked (.kLi d imm22)
  | 0x0E => given_ (imm22.extractLsb' 16 6 == 0#6) (.kLih d (imm22.extractLsb' 0 16))
  | 0x0F => given_ (az && bz && x.extractLsb' 5 9 == 0#9) (.kMfs d (x.extractLsb' 0 5))
  | 0x10 => checked (.kLd d a imm)
  | 0x11 => checked (.kSt d a imm)
  | 0x12 => checked (.kLdg d a imm)
  | 0x18 => checked (.kBeq d a imm)
  | 0x19 => checked (.kBne d a imm)
  | 0x1A => checked (.kBlt d a imm)
  | 0x1B => given_ dz (.kJmp imm22)
  | 0x1C => checked (.kCall d imm22)
  | 0x1D => given_ (dz && bz && xz) (.kRet a)
  | 0x1E => given_ dz (.kLoop a imm)
  | 0x1F => given_ (dz && az && bz && xz) .kEnd
  | 0x20 => given_ (az && bz && x.extractLsb' 1 13 == 0#13) (.kEwait (x.getLsbD 0) d)
  | 0x21 => given_ (dz && bz && xz) (.kEack a)
  | 0x22 => given_ (dz && bz && xz) (.kEmask a)
  | 0x23 => given_ (dz && xz) (.kTimer a b)
  | 0x24 => given_ (bz && xz) (.kConn d a)
  | 0x25 => given_ xz (.kRetx d a b)
  | 0x26 => given_ (x.extractLsb' 1 13 == 0#13) (.kCctl (x.getLsbD 0) d a b)
  | 0x27 => given_ (x.extractLsb' 1 13 == 0#13) (.kPath (x.getLsbD 0) d a b)
  | 0x28 => given_ (bz && xz) (.kArm d a)
  | 0x29 => given_ (dz && xz) (.kMgrp a b)
  | 0x2A => given_ (dz && bz && xz) (.kRfail a)
  | 0x2B => given_ (dz && xz) (.kSig a b)
  | 0x2C => given_ xz (.kRset d a b)
  | 0x2D => checked (.kPeer d a imm)
  | 0x2E => given_ (bz && xz) (.kRpkg d a)
  | 0x30 => given_ dz (.kSend a b x)
  | 0x31 => given_ dz (.kRecv a b x)
  | 0x32 => given_ dz (.kRrs a b x)
  | 0x33 => given_ (dz && xz) (.kCopy a b)
  | 0x34 => given_ dz (.kMcast a b x)
  | 0x35 => given_ (dz && az) (.kWait imm)
  | _ => none

/-- What an instruction is written as: a slot word of 32 or 64 bits, a word of a communication core, the header 0x80, or nothing
for a step without an encoding. -/
inductive Encoded
  | w32 (s : Slot) (w : BitVec 32)
  | w64 (s : Slot) (w : BitVec 64)
  | kw (w : BitVec 32)
  | header
  | none
  deriving DecidableEq, Repr

/-- A sub-field of a register width: a predicate, a stream register, a two-bit selector (R77). -/
def z5 {n : Nat} (x : BitVec n) : BitVec 5 := x.setWidth 5
/-- A sub-field of the K field, high bits zero (R77). -/
def z6 {n : Nat} (x : BitVec n) : BitVec 6 := x.setWidth 6

def LoopCount.ck : LoopCount → BitVec 2
  | .imm _ => 0
  | .sreg _ => 1
  | .spr _ => 2

def LoopCount.cv : LoopCount → BitVec 8
  | .imm n => n
  | .sreg a => 0#3 ++ a
  | .spr n => 0#3 ++ n

/-- The word of an E instruction from its ordering fields. -/
def wordEO (op : Nat) (h : BitVec 6) (qs qd : BitVec 4) (len : BitVec 16) (dar : BitVec 3) (o : EOrd) (es : BitVec 5)
    (ec : BitVec 14) : BitVec 64 := wordE op h qs qd len dar o.acq o.rel o.scope.code es ec

/-- The encoding of every instruction, from the tables of the spec the decoder follows. -/
def encode : Instr → Encoded
  | .nopGroup => .header
  | .cNop g => .w32 .c (wordR 0x00 g 0 0 0 0)
  | .cBr g l => .w32 .c (wordJ 0x01 g 0 l)
  | .cJmp g a => .w32 .c (wordR 0x02 g 0 a 0 0)
  | .cCall g d l => .w32 .c (wordJ 0x03 g d l)
  | .cRet g a => .w32 .c (wordR 0x04 g 0 a 0 0)
  | .cLoop g c last => .w32 .c (wordP 0x05 g c.ck c.cv last)
  | .cBrk g code => .w32 .c (wordJ 0x06 g 0 code)
  | .cTrap g code => .w32 .c (wordJ 0x07 g 0 code)
  | .cTret g => .w32 .c (wordR 0x08 g 0 0 0 0)
  | .cEnd g => .w32 .c (wordR 0x09 g 0 0 0 0)
  | .cWait g l s c t => .w32 .c (wordJ 0x10 g 0 (l ++ s ++ c ++ t))
  | .cWaith g c h => .w32 .c (wordR 0x11 g 0 0 c.code h)
  | .cWaitt g a h => .w32 .c (wordR 0x12 g 0 a 0 h)
  | .cWaitl g a => .w32 .c (wordR 0x13 g 0 a 0 0)
  | .cScheck g seg => .w32 .c (wordI 0x14 g 0 0 seg)
  | .cRelb g a b => .w32 .c (wordR 0x18 g 0 a b 0)
  | .cAcqb g a b => .w32 .c (wordR 0x19 g 0 a b 0)
  | .cFinc g a b => .w32 .c (wordR 0x20 g 0 a b 0)
  | .cFwait g a b => .w32 .c (wordR 0x21 g 0 a b 0)
  | .cFarm g a b act => .w32 .c (wordR 0x22 g 0 a b act.code)
  | .cFdis g a => .w32 .c (wordR 0x23 g 0 a 0 0)
  | .cBpost g a b => .w32 .c (wordR 0x28 g 0 a b 0)
  | .cBarr g a => .w32 .c (wordR 0x29 g 0 a 0 0)
  | .cBwait g a => .w32 .c (wordR 0x2A g 0 a 0 0)
  | .cLaunch g a => .w32 .c (wordR 0x30 g 0 a 0 0)
  | .cTlbi g a s => .w32 .c (wordR 0x31 g 0 a 0 (z6 s.code))
  | .cScrub g u => .w32 .c (wordR 0x32 g 0 0 0 (z6 u))
  | .aAdd g d a b => .w32 .a (wordR 0x00 g d a b 0)
  | .aSub g d a b => .w32 .a (wordR 0x01 g d a b 0)
  | .aAnd g d a b => .w32 .a (wordR 0x02 g d a b 0)
  | .aOr g d a b => .w32 .a (wordR 0x03 g d a b 0)
  | .aXor g d a b => .w32 .a (wordR 0x04 g d a b 0)
  | .aShl g d a b => .w32 .a (wordR 0x05 g d a b 0)
  | .aShr g d a b => .w32 .a (wordR 0x06 g d a b 0)
  | .aSar g d a b => .w32 .a (wordR 0x07 g d a b 0)
  | .aMul g d a b => .w32 .a (wordR 0x08 g d a b 0)
  | .aMulh g d a b z => .w32 .a (wordR 0x09 g d a b (z6 (bit z)))
  | .aMin g d a b z => .w32 .a (wordR 0x0A g d a b (z6 (bit z)))
  | .aMax g d a b z => .w32 .a (wordR 0x0B g d a b (z6 (bit z)))
  | .aCmp g c p a b => .w32 .a (wordR 0x0C g (z5 p) a b c.code)
  | .aSel g d a b p => .w32 .a (wordR 0x0D g d a b (z6 p))
  | .aClz g d a => .w32 .a (wordR 0x0E g d a 0 0)
  | .aPop g d a => .w32 .a (wordR 0x0F g d a 0 0)
  | .aAddi g d a i => .w32 .a (wordI 0x10 g d a i)
  | .aAndi g d a i => .w32 .a (wordI 0x11 g d a i)
  | .aOri g d a i => .w32 .a (wordI 0x12 g d a i)
  | .aXori g d a i => .w32 .a (wordI 0x13 g d a i)
  | .aShli g d a i => .w32 .a (wordI 0x14 g d a (0#5 ++ i))
  | .aShri g d a i => .w32 .a (wordI 0x15 g d a (0#5 ++ i))
  | .aLi g d i => .w32 .a (wordJ 0x18 g d i)
  | .aLih g d i => .w32 .a (wordJ 0x19 g d i)
  | .aMov g d a => .w32 .a (wordR 0x1A g d a 0 0)
  | .aMfs g d n => .w32 .a (wordR 0x1B g d n 0 0)
  | .aMts g n a => .w32 .a (wordR 0x1C g n a 0 0)
  | .aPand g d a b => .w32 .a (wordR 0x20 g (z5 d) (z5 a) (z5 b) 0)
  | .aPor g d a b => .w32 .a (wordR 0x21 g (z5 d) (z5 a) (z5 b) 0)
  | .aPxor g d a b => .w32 .a (wordR 0x22 g (z5 d) (z5 a) (z5 b) 0)
  | .aPnot g d a => .w32 .a (wordR 0x23 g (z5 d) (z5 a) 0 0)
  | .aQset g q a n => .w32 .a (wordR 0x28 g (z5 q) a 0 (z6 n))
  | .aQget g d q n => .w32 .a (wordR 0x29 g d (z5 q) 0 (z6 n))
  | .aHq g d h => .w32 .a (wordR 0x2A g d 0 0 h)
  | .lLd g s d a o => .w32 .l (wordM 0x00 g d a (0#1 ++ s.code) o)
  | .lSt g s d a o => .w32 .l (wordM 0x01 g d a (0#1 ++ s.code) o)
  | .lLdq g sp q a o => .w32 .l (wordM 0x02 g (z5 q) a (0#2 ++ bit sp) o)
  | .lStq g q a o => .w32 .l (wordM 0x03 g (z5 q) a 0 o)
  | .lLdg g sz acq d a o => .w32 .l (wordM 0x08 g d a (bit acq ++ sz.code) o)
  | .lStg g sz rel d a o => .w32 .l (wordM 0x09 g d a (bit rel ++ sz.code) o)
  | .lLdgv g q hi acq d a o => .w32 .l (wordM 0x0A g d a (bit acq ++ bit hi ++ bit q) o)
  | .lStgv g q hi rel d a o => .w32 .l (wordM 0x0B g d a (bit rel ++ bit hi ++ bit q) o)
  | .lLdx g s acq d a o => .w32 .l (wordM 0x10 g d a (bit acq ++ s.code) o)
  | .lStx g s ofl d a o => .w32 .l (wordM 0x11 g d a (bit ofl ++ s.code) o)
  | .lAop g op w4 z ar d a b => .w32 .l (wordR 0x18 g d a b (bit ar ++ bit z ++ bit w4 ++ op.code))
  | .lCas g sz ar d a b => .w32 .l (wordR 0x19 g d a b (bit ar ++ 0#1 ++ sz.code ++ 0#2))
  | .lSaop g op f d a b => .w32 .l (wordR 0x1A g d a b (f ++ op.code))
  | .lFence g k s => .w32 .l (wordR 0x20 g 0 0 0 (0#1 ++ k.code ++ s.code))
  | .lDrain g s => .w32 .l (wordR 0x21 g 0 0 0 (z6 s.code))
  | .lCwb g a => .w32 .l (wordR 0x28 g 0 a 0 0)
  | .lCinv g a => .w32 .l (wordR 0x29 g 0 a 0 0)
  | .lCzero g a => .w32 .l (wordR 0x2A g 0 a 0 0)
  | .lPf g ex l2 a o => .w32 .l (wordM 0x2B g 0 a (0#1 ++ bit l2 ++ bit ex) o)
  | .lTlbp g d a => .w32 .l (wordR 0x2C g d a 0 0)
  | .vAdd t d a b r => .w32 .v (wordV 0x00 t d a b r)
  | .vSub t d a b r => .w32 .v (wordV 0x01 t d a b r)
  | .vMul t d a b r => .w32 .v (wordV 0x02 t d a b r)
  | .vFma t d a b r => .w32 .v (wordV 0x03 t d a b r)
  | .vMin t d a b r => .w32 .v (wordV 0x04 t d a b r)
  | .vMax t d a b r => .w32 .v (wordV 0x05 t d a b r)
  | .vAbs t d a r => .w32 .v (wordV 0x06 t d a 0 r)
  | .vNeg t d a r => .w32 .v (wordV 0x07 t d a 0 r)
  | .vSadd t d a b r => .w32 .v (wordV 0x08 t d a b r)
  | .vAnd t d a b r => .w32 .v (wordV 0x10 t d a b r)
  | .vOr t d a b r => .w32 .v (wordV 0x11 t d a b r)
  | .vXor t d a b r => .w32 .v (wordV 0x12 t d a b r)
  | .vShl t d a b r => .w32 .v (wordV 0x13 t d a b r)
  | .vShr t d a b r => .w32 .v (wordV 0x14 t d a b r)
  | .vSar t d a b r => .w32 .v (wordV 0x15 t d a b r)
  | .vCmp t c wd a b r => .w32 .v (wordV 0x18 t (c.code ++ wd) a b r)
  | .vSel t d a b r => .w32 .v (wordV 0x19 t d a b r)
  | .vCvt t f rnd d a w l =>
    .w32 .v (wordV 0x20 t d a (rnd.code.extractLsb' 2 1 ++ f.code) ⟨w, l, rnd.code.extractLsb' 0 2⟩)
  | .vScl t qt blk d a r => .w32 .v (wordV 0x21 t d a (0#2 ++ bit blk ++ qt.code) r)
  | .vPack t rnd blk d a r => .w32 .v (wordV 0x22 t d a (0#1 ++ bit blk ++ rnd.code) r)
  | .vUnpk t rnd blk d a r => .w32 .v (wordV 0x23 t d a (0#1 ++ bit blk ++ rnd.code) r)
  | .vRed t op d a r => .w32 .v (wordV 0x28 t d a (z5 op.code) r)
  | .vRedx t m d a r => .w32 .v (wordV 0x29 t d a (z5 (bit m)) r)
  | .vPerm t d a b r => .w32 .v (wordV 0x30 t d a b r)
  | .vRot t d a b r => .w32 .v (wordV 0x31 t d a b r)
  | .vRmg t d a b r => .w32 .v (wordV 0x32 t d a b r)
  | .vBc t d a r => .w32 .v (wordV 0x33 t d a 0 r)
  | .vIns t d a b r => .w32 .v (wordV 0x34 t d a b r)
  | .vExt t d a b w l => .w32 .v (wordV 0x35 t d a b ⟨w, l, 0⟩)
  | .vIota t d a r => .w32 .v (wordV 0x36 t d a 0 r)
  | .vMovVv t d a r => .w32 .v (wordV 0x37 t d a 0 r)
  | .vMovVw wd a => .w32 .v (wordV 0x37 .s8 (z5 wd) a 1 ⟨0, 0, 0⟩)
  | .vMovWv d wa => .w32 .v (wordV 0x37 .s8 d (z5 wa) 2 ⟨0, 0, 0⟩)
  | .vWmax t d a b => .w32 .v (wordV 0x40 t d a b ⟨0, 0, 0⟩)
  | .vWmin t d a b => .w32 .v (wordV 0x41 t d a b ⟨0, 0, 0⟩)
  | .vWclamp t d a b => .w32 .v (wordV 0x42 t d a b ⟨0, 0, 0⟩)
  | .vWmed t d a b => .w32 .v (wordV 0x43 t d a b ⟨0, 0, 0⟩)
  | .vWsum t d a b => .w32 .v (wordV 0x44 t d a b ⟨0, 0, 0⟩)
  | .vWtopk t d a b => .w32 .v (wordV 0x45 t d a b ⟨0, 0, 0⟩)
  | .vAdjb t m acc last a b => .w32 .v (wordV 0x46 t (0#1 ++ bit last ++ bit acc ++ m.code) a b ⟨0, 0, 0⟩)
  | .fTsel g ts a => .w32 .f (wordR 0x00 g 0 a 0 (bit ts ++ 0#5))
  | .fEval g f rg ts d a => .w32 .f (wordR 0x01 g d a 0 (bit ts ++ rg ++ f.code))
  | .fRcp g f rg d a => .w32 .f (wordR 0x02 g d a 0 (0#1 ++ rg ++ f.code))
  | .fRsq g f rg d a => .w32 .f (wordR 0x03 g d a 0 (0#1 ++ rg ++ f.code))
  | .fExp2 g f rg d a => .w32 .f (wordR 0x04 g d a 0 (0#1 ++ rg ++ f.code))
  | .fLog2 g f rg d a => .w32 .f (wordR 0x05 g d a 0 (0#1 ++ rg ++ f.code))
  | .xZero mt => .w64 .x (wordX 0x00 (mt.getLsbD 2) mt 0 0 0 0 0 0 0)
  | .xLdw arr wd sp qw cols => .w64 .x (wordX 0x01 arr 0 0 qw cols 0 sp.code (wd.code.setWidth 8) 0)
  | .xSwap arr => .w64 .x (wordX 0x02 arr 0 0 0 0 0 0 0 0)
  | .xMul mt qa bt pl sp dw sub => .w64 .x (wordX 0x03 (mt.getLsbD 2) mt qa 0 bt pl sp.code (0#6 ++ bit sub ++ bit dw) 0)
  | .xAcc mt qa bt pl sub => .w64 .x (wordX 0x04 (mt.getLsbD 2) mt qa 0 bt pl 0 (0#6 ++ bit sub ++ 0#1) 0)
  | .xRd mt f rnd vx => .w64 .x (wordX 0x05 (mt.getLsbD 2) mt 0 0 0 0 0 (0#1 ++ rnd.code ++ f.code) vx)
  | .xSt mt qa f rnd clr => .w64 .x (wordX 0x06 (mt.getLsbD 2) mt qa 0 0 0 0 (bit clr ++ rnd.code ++ f.code) 0)
  | .xCfg arr reg sx => .w64 .x (wordX 0x07 arr 0 0 0 0 0 0 (reg.code.setWidth 8) sx)
  | .eCpy h qs qd len d o ec => .w64 .e (wordEO 0x00 h qs qd len d.code o 0 ec)
  | .eCpyWadd h qs qd len o rnd b => .w64 .e (wordEO 0x00 h qs qd len 4 o 0 (rnd ++ b))
  | .eGath h qs qd len o es xsh glb f => .w64 .e (wordEO 0x01 h qs qd len 0 o es (0#4 ++ xsh ++ bit glb ++ f.code))
  | .eScat h qs qd len d o es xsh glb f => .w64 .e (wordEO 0x02 h qs qd len d.code o es (0#4 ++ xsh ++ bit glb ++ f.code))
  | .eLand h es tag => .w64 .e (wordE 0x03 h 0 0 0 0 false false 0 es tag)
  | .eHset h ring full isz row rows =>
    if ring then .w64 .e (wordE 0x04 h 0 0 (isz ++ rows) 0 false false 0 0 (1#1 ++ row))
    else .w64 .e (wordE 0x04 h 0 0 (0#2 ++ bit full ++ rows) 0 false false 0 0 (0#1 ++ row))
  | .eHfree h => .w64 .e (wordE 0x05 h 0 0 0 0 false false 0 0 0)
  | .eCbp h act => .w64 .e (wordE 0x06 h 0 0 act.code 0 false false 0 0 0)
  | .eCbc h act => .w64 .e (wordE 0x07 h 0 0 act.code 0 false false 0 0 0)
  | .ePut h qs len d o es dest be bar => .w64 .e (wordEO 0x10 h qs 0 len d.code o es (dest.code ++ 0#5 ++ bit be ++ bar))
  | .ePutLand h qs len o es ch => .w64 .e (wordEO 0x10 h qs 0 len 0 o es (1#2 ++ ch))
  | .eGet h qd len o es rsp => .w64 .e (wordEO 0x11 h 0 qd len 0 o es (bit rsp ++ 0#13))
  | .eRatom h o es op w4 z => .w64 .e (wordEO 0x12 h 0 0 0 0 o es (0#9 ++ bit z ++ bit w4 ++ op.code))
  | .eColl h len d o es cb => .w64 .e (wordEO 0x13 h 0 0 len d.code o es (0#2 ++ cb))
  | .eMcast h qs len o es gr => .w64 .e (wordEO 0x14 h qs 0 len 0 o es (0#2 ++ gr))
  | .eSig o es => .w64 .e (wordEO 0x15 0 0 0 0 0 o es 0)
  | .eCtxSave h es core u => .w64 .e (wordE 0x18 h 0 0 0 0 false false 0 es (0#2 ++ core ++ u))
  | .eCtxRest h es core u => .w64 .e (wordE 0x18 h 0 0 0 0 false false 0 es (1#2 ++ core ++ u))
  | .kNop => .kw (wordKR 0x00 0 0 0 0)
  | .kAdd d a b => .kw (wordKR 0x01 d a b 0)
  | .kSub d a b => .kw (wordKR 0x02 d a b 0)
  | .kAnd d a b => .kw (wordKR 0x03 d a b 0)
  | .kOr d a b => .kw (wordKR 0x04 d a b 0)
  | .kXor d a b => .kw (wordKR 0x05 d a b 0)
  | .kShl d a b => .kw (wordKR 0x06 d a b 0)
  | .kShr d a b => .kw (wordKR 0x07 d a b 0)
  | .kAddi d a i => .kw (wordKI 0x08 d a i)
  | .kAndi d a i => .kw (wordKI 0x09 d a i)
  | .kOri d a i => .kw (wordKI 0x0A d a i)
  | .kShli d a i => .kw (wordKI 0x0B d a (0#12 ++ i))
  | .kShri d a i => .kw (wordKI 0x0C d a (0#12 ++ i))
  | .kLi d i => .kw (wordKL 0x0D d i)
  | .kLih d i => .kw (wordKL 0x0E d (0#6 ++ i))
  | .kMfs d n => .kw (wordKR 0x0F d 0 0 (0#9 ++ n))
  | .kLd d a i => .kw (wordKI 0x10 d a i)
  | .kSt d a i => .kw (wordKI 0x11 d a i)
  | .kLdg d a i => .kw (wordKI 0x12 d a i)
  | .kBeq d a i => .kw (wordKI 0x18 d a i)
  | .kBne d a i => .kw (wordKI 0x19 d a i)
  | .kBlt d a i => .kw (wordKI 0x1A d a i)
  | .kJmp i => .kw (wordKL 0x1B 0 i)
  | .kCall d i => .kw (wordKL 0x1C d i)
  | .kRet a => .kw (wordKR 0x1D 0 a 0 0)
  | .kLoop a i => .kw (wordKI 0x1E 0 a i)
  | .kEnd => .kw (wordKR 0x1F 0 0 0 0)
  | .kEwait nb d => .kw (wordKR 0x20 d 0 0 (0#13 ++ bit nb))
  | .kEack a => .kw (wordKR 0x21 0 a 0 0)
  | .kEmask a => .kw (wordKR 0x22 0 a 0 0)
  | .kTimer a b => .kw (wordKR 0x23 0 a b 0)
  | .kConn d a => .kw (wordKR 0x24 d a 0 0)
  | .kRetx d a b => .kw (wordKR 0x25 d a b 0)
  | .kCctl rto d a b => .kw (wordKR 0x26 d a b (0#13 ++ bit rto))
  | .kPath en d a b => .kw (wordKR 0x27 d a b (0#13 ++ bit en))
  | .kArm d a => .kw (wordKR 0x28 d a 0 0)
  | .kMgrp a b => .kw (wordKR 0x29 0 a b 0)
  | .kRfail a => .kw (wordKR 0x2A 0 a 0 0)
  | .kSig a b => .kw (wordKR 0x2B 0 a b 0)
  | .kRset d a b => .kw (wordKR 0x2C d a b 0)
  | .kPeer d a i => .kw (wordKI 0x2D d a i)
  | .kRpkg d a => .kw (wordKR 0x2E d a 0 0)
  | .kSend a b st => .kw (wordKR 0x30 0 a b st)
  | .kRecv a b st => .kw (wordKR 0x31 0 a b st)
  | .kRrs a b st => .kw (wordKR 0x32 0 a b st)
  | .kCopy a b => .kw (wordKR 0x33 0 a b 0)
  | .kMcast a b tag => .kw (wordKR 0x34 0 a b tag)
  | .kWait n => .kw (wordKI 0x35 0 0 n)
  | _ => .none

/-- The decoder of a slot word in its class (R69, R71). -/
def decodeSlot32 (s : Slot) (w : BitVec 32) : Option Instr :=
  match s with
  | .c => decodeC w
  | .a => decodeA w
  | .l => decodeL w
  | .v => decodeV w
  | .f => decodeF w
  | .x | .e => none

/-- The decoder of a 64-bit slot word in its class (R69). -/
def decodeSlot64 (s : Slot) (w : BitVec 64) : Option Instr :=
  match s with
  | .x => decodeX w
  | .e => decodeE w
  | _ => none

/-- The instruction an encoding stands for. -/
def decode : Encoded → Option Instr
  | .w32 s w => decodeSlot32 s w
  | .w64 s w => decodeSlot64 s w
  | .kw w => decodeK w
  | .header => some .nopGroup
  | .none => none

/-- Bits of the word that are operand fields, by the encodings of the spec: the fewer, the more of the word the encoding fixes. -/
def Instr.fieldBits : Instr → Nat
  | .kNop .. | .kEnd .. => 0
  | .cNop .. | .cTret .. | .cEnd .. | .kRet .. | .kEack .. | .kEmask .. | .kRfail .. => 4
  | .kEwait .. => 5
  | .lDrain .. | .vMovVw .. | .vMovWv .. => 7
  | .kTimer .. | .kConn .. | .kArm .. | .kMgrp .. | .kSig .. | .kRpkg .. | .kCopy .. => 8
  | .cJmp .. | .cRet .. | .cWaitl .. | .cFdis .. | .cBarr .. | .cBwait .. | .cLaunch .. | .cScrub ..
  | .lFence .. | .lCwb .. | .lCinv .. | .lCzero .. => 9
  | .aPnot .. | .fTsel .. => 10
  | .cTlbi .. | .kAdd .. | .kSub .. | .kAnd .. | .kOr .. | .kXor .. | .kShl .. | .kShr .. | .kRetx ..
  | .kRset .. => 12
  | .aPand .. | .aPor .. | .aPxor .. | .kPath .. => 13
  | .cRelb .. | .cAcqb .. | .cFinc .. | .cFwait .. | .cBpost .. | .aClz .. | .aPop .. | .aMov .. | .aMfs ..
  | .aMts .. | .lTlbp .. => 14
  | .cWaith .. | .cWaitt .. | .cScheck .. | .aQset .. | .aQget .. | .aHq .. => 15
  | .vAdjb .. | .kMfs .. | .kWait .. => 18
  | .aAdd .. | .aSub .. | .aAnd .. | .aOr .. | .aXor .. | .aShl .. | .aShr .. | .aSar .. | .aMul .. | .lPf ..
  | .vWmax .. | .vWmin .. | .vWclamp .. | .vWmed .. | .vWsum .. | .vWtopk .. | .fRcp .. | .fRsq ..
  | .fExp2 .. | .fLog2 .. => 19
  | .cBr .. | .cBrk .. | .cTrap .. | .cWait .. | .cFarm .. | .aMulh .. | .aMin .. | .aMax .. | .vAbs ..
  | .vNeg .. | .vBc .. | .vIota .. | .vMovVv .. | .fEval .. | .kLih .. => 20
  | .lStq .. | .vRedx .. => 21
  | .aSel .. | .lLdq .. | .lCas .. | .kJmp .. | .kLoop .. | .kSend .. | .kRecv .. | .kRrs .. | .kMcast .. => 22
  | .aCmp .. | .vScl .. | .vRed .. | .vExt .. => 23
  | .lLd .. | .lSt .. | .vPack .. | .vUnpk .. => 24
  | .cCall .. | .cLoop .. | .aAddi .. | .aAndi .. | .aOri .. | .aXori .. | .aShli .. | .aShri .. | .aLi ..
  | .aLih .. | .lLdg .. | .lStg .. | .lLdgv .. | .lStgv .. | .lLdx .. | .lStx .. | .lAop .. | .lSaop ..
  | .vAdd .. | .vSub .. | .vMul .. | .vFma .. | .vMin .. | .vMax .. | .vSadd .. | .vAnd .. | .vOr ..
  | .vXor .. | .vShl .. | .vShr .. | .vSar .. | .vCmp .. | .vSel .. | .vCvt .. | .vPerm .. | .vRot ..
  | .vRmg .. | .vIns .. => 25
  | .kAddi .. | .kAndi .. | .kOri .. | .kShli .. | .kShri .. | .kLi .. | .kLd .. | .kSt .. | .kLdg ..
  | .kBeq .. | .kBne .. | .kBlt .. | .kCall .. | .kCctl .. | .kPeer .. => 26
  | _ => 32

/-- The reading of a word whose class is not said: of the classes that accept it, the one whose encoding fixes the most bits of
it (log entry 4). -/
def mostFixed : List (Option Instr) → Option Instr
  | [] => none
  | none :: l => mostFixed l
  | some i :: l =>
    match mostFixed l with
    | none => some i
    | some j => if j.fieldBits < i.fieldBits then some j else some i

/-- The instruction the decoder reads from the bits of an opcode-table row (log entry 4): a word of 32 bits, a word of 64 bits, or
the header 0x80. -/
def decodeTableWord (nbits w : Nat) : Option Instr :=
  if nbits = 32 then
    let v := BitVec.ofNat 32 w
    mostFixed [decodeC v, decodeA v, decodeL v, decodeV v, decodeF v, decodeK v]
  else if nbits = 64 then
    let v := BitVec.ofNat 64 w
    (match decodeX v with
     | some i => some i
     | none => decodeE v)
  else if nbits = 8 && w == 0x80 then some .nopGroup
  else none

end Sys2Proof
end

