-- ==== Sys2Proof/Machine/Num.lean ====
section
/-! DEFINITION. Number formats: R44 to R61 and R68. A value is held exactly, as a sign, a magnitude and a power of two; every
operation is computed exactly and rounded once. Raw encodings are natural numbers below 2^bits. -/
namespace Sys2Proof

/-- Bits of an element of a format; a Q4 element is a nibble (R45, R54). -/
def Fmt.bits : Fmt → Nat
  | .s8 | .z8 | .e4m3 | .e5m2 => 8
  | .s16 | .z16 | .bf16 | .fp16 => 16
  | .s32 | .z32 | .fp32 => 32
  | .s64 | .z64 | .fp64 => 64
  | .q4 => 4
  | .wfx128 => 128

/-- The signed integer formats. -/
def Fmt.isSigned : Fmt → Bool
  | .s8 | .s16 | .s32 | .s64 => true
  | _ => false

/-- Exponent bits, fraction bits and bias of a floating format (R46). -/
structure FloatLayout where
  eb : Nat
  fb : Nat
  bias : Nat
  deriving DecidableEq, Repr

def Fmt.layout : Fmt → FloatLayout
  | .bf16 => ⟨8, 7, 127⟩
  | .fp16 => ⟨5, 10, 15⟩
  | .fp32 => ⟨8, 23, 127⟩
  | .fp64 => ⟨11, 52, 1023⟩
  | .e4m3 => ⟨4, 3, 7⟩
  | .e5m2 => ⟨5, 2, 15⟩
  | _ => ⟨8, 23, 127⟩

def FFmt.fmt : FFmt → Fmt
  | .bf16 => .bf16
  | .fp16 => .fp16
  | .fp32 => .fp32

/-- A value: a NaN, an infinity, or the exact finite value ± m * 2^e. A zero keeps its sign. -/
inductive Val
  | nan
  | inf (neg : Bool)
  | fin (neg : Bool) (m : Nat) (e : Int)
  deriving DecidableEq, Repr

/-- The signed value of a raw integer of n bits. -/
def signedOf (n raw : Nat) : Int := if 2 * raw ≥ 2 ^ n then (raw : Int) - (2 ^ n : Nat) else raw

/-- The raw encoding of an integer in n bits: the value modulo 2^n. -/
def wrapTo (n : Nat) (x : Int) : Nat := (x % ((2 ^ n : Nat) : Int)).toNat

/-- The value of a raw element of an integer format (R44). -/
def intOf (f : Fmt) (raw : Nat) : Int := if f.isSigned then signedOf f.bits raw else raw

/-- The least and greatest values of an integer format (R44). -/
def Fmt.lo (f : Fmt) : Int := if f.isSigned then -((2 ^ (f.bits - 1) : Nat) : Int) else 0
def Fmt.hi (f : Fmt) : Int := if f.isSigned then ((2 ^ (f.bits - 1) : Nat) : Int) - 1 else ((2 ^ f.bits : Nat) : Int) - 1

/-- An integer saturated to the range of an integer format, raw (R44). -/
def saturate (f : Fmt) (x : Int) : Nat := wrapTo f.bits (if x < f.lo then f.lo else if f.hi < x then f.hi else x)

/-- An exact integer as a value. -/
def Val.ofInt (x : Int) (e : Int) : Val := .fin (x < 0) x.natAbs e

/-- The value of a raw floating element (R46). -/
def floatVal (f : Fmt) (raw : Nat) : Val :=
  let l := f.layout
  let mag := raw % 2 ^ (l.eb + l.fb)
  let neg := decide (raw / 2 ^ (l.eb + l.fb) % 2 = 1)
  let ex := mag / 2 ^ l.fb
  let fr := mag % 2 ^ l.fb
  if f = .e4m3 ∧ mag = 0x7F then .nan
  else if f ≠ .e4m3 ∧ ex = 2 ^ l.eb - 1 then (if fr = 0 then .inf neg else .nan)
  else if ex = 0 then .fin neg fr (1 - (l.bias : Int) - l.fb)
  else .fin neg (2 ^ l.fb + fr) ((ex : Int) - l.bias - l.fb)

/-- The value of a raw element of an integer or floating format. -/
def valOf (f : Fmt) (raw : Nat) : Val := if f.isFloat then floatVal f raw else Val.ofInt (intOf f raw) 0

/-- The canonical quiet NaN (R47). -/
def canonNan : Fmt → Nat
  | .bf16 => 0x7FC0
  | .fp16 => 0x7E00
  | .fp32 => 0x7FC00000
  | .fp64 => 0x7FF8000000000000
  | .e4m3 => 0x7F
  | .e5m2 => 0x7E
  | _ => 0

/-- The largest finite magnitude, raw (R46, R49). -/
def maxFinite (f : Fmt) : Nat :=
  if f = .e4m3 then 0x7E else (2 ^ f.layout.eb - 1) * 2 ^ f.layout.fb - 1

/-- The infinity of a format, raw magnitude; E4M3 has none and takes 448 (R49). -/
def infMag (f : Fmt) : Nat := if f = .e4m3 then 0x7E else (2 ^ f.layout.eb - 1) * 2 ^ f.layout.fb

def signBit (f : Fmt) (neg : Bool) : Nat := if neg then 2 ^ (f.layout.eb + f.layout.fb) else 0

/-- A magnitude m / 2^k rounded to an integer under a mode (R50): the truncated value, and one more where the mode says so;
under rto the least bit of an inexact value is set. -/
def roundShift (r : Rnd) (neg : Bool) (m k : Nat) : Nat :=
  let q := m / 2 ^ k
  let rem := m % 2 ^ k
  if rem = 0 then q
  else match r with
    | .rne => if 2 * rem > 2 ^ k ∨ (2 * rem = 2 ^ k ∧ q % 2 = 1) then q + 1 else q
    | .rtz => q
    | .rup => if neg then q else q + 1
    | .rdn => if neg then q + 1 else q
    | .rto => if q % 2 = 1 then q else q + 1

/-- The rounded magnitude of a non-zero value above the largest finite one (R49, R51). -/
def overflowMag (f : Fmt) (r : Rnd) (neg : Bool) : Nat :=
  if f = .e4m3 then 0x7E
  else match r with
    | .rne => infMag f
    | .rtz | .rto => maxFinite f
    | .rup => if neg then maxFinite f else infMag f
    | .rdn => if neg then infMag f else maxFinite f

/-- A value rounded once into a floating format (R47, R49 to R51). -/
def roundFloat (f : Fmt) (r : Rnd) : Val → Nat
  | .nan => canonNan f
  | .inf neg => signBit f neg + infMag f
  | .fin neg m e =>
    if m = 0 then signBit f neg
    else
      let l := f.layout
      let least : Int := 1 - (l.bias : Int) - l.fb
      let q : Int := max least (e + (Nat.log2 m : Int) - l.fb)
      let k := q - e
      let n := if k ≤ 0 then m * 2 ^ (-k).toNat else roundShift r neg m k.toNat
      let mag := (q - least).toNat * 2 ^ l.fb + n
      signBit f neg + (if mag > maxFinite f then overflowMag f r neg else mag)

/-- A value rounded to an integer under a mode (R53). -/
def roundInt (r : Rnd) (neg : Bool) (m : Nat) (e : Int) : Int :=
  let n := if 0 ≤ e then m * 2 ^ e.toNat else roundShift r neg m (-e).toNat
  if neg then -(n : Int) else n

/-- A value converted into an integer format (R44, R53). -/
def roundToInt (f : Fmt) (r : Rnd) : Val → Nat
  | .nan => 0
  | .inf neg => wrapTo f.bits (if neg then f.lo else f.hi)
  | .fin neg m e => saturate f (roundInt r neg m e)

/-- A value converted into an integer or floating format. -/
def convertVal (f : Fmt) (r : Rnd) (v : Val) : Nat := if f.isFloat then roundFloat f r v else roundToInt f r v

/-- v.cvt on one element (R174): integer to integer saturates, the rest rounds once. -/
def convert (from_ to_ : Fmt) (r : Rnd) (raw : Nat) : Nat := convertVal to_ r (valOf from_ raw)

/-! Exact arithmetic on values (R47, R48, R170). -/

def Val.neg : Val → Val
  | .nan => .nan
  | .inf s => .inf (!s)
  | .fin s m e => .fin (!s) m e

/-- The signed integer s * m. -/
def signed (neg : Bool) (m : Nat) : Int := if neg then -(m : Int) else m

/-- The exact sum; an exact zero of operands that differ in sign is +0. -/
def Val.add : Val → Val → Val
  | .nan, _ => .nan
  | _, .nan => .nan
  | .inf a, .inf b => if a = b then .inf a else .nan
  | .inf a, .fin _ _ _ => .inf a
  | .fin _ _ _, .inf b => .inf b
  | .fin a m e, .fin b n f =>
    if m = 0 ∧ n = 0 then .fin (a && b) 0 0
    else
      let k := min e f
      Val.ofInt (signed a (m * 2 ^ (e - k).toNat) + signed b (n * 2 ^ (f - k).toNat)) k

def Val.sub (x y : Val) : Val := x.add y.neg

/-- The exact product. -/
def Val.mul : Val → Val → Val
  | .nan, _ => .nan
  | _, .nan => .nan
  | .inf a, .inf b => .inf (a != b)
  | .inf a, .fin b n _ => if n = 0 then .nan else .inf (a != b)
  | .fin a m _, .inf b => if m = 0 then .nan else .inf (a != b)
  | .fin a m e, .fin b n f => .fin (a != b) (m * n) (e + f)

def Val.isNan : Val → Bool
  | .nan => true
  | _ => false

/-- x < y and x = y of two values that are not NaNs, −0 equal to +0 (R172). -/
def Val.lt : Val → Val → Bool
  | .inf a, .inf b => a && !b
  | .inf a, .fin _ _ _ => a
  | .fin _ _ _, .inf b => !b
  | .fin a m e, .fin b n f =>
    let k := min e f
    signed a (m * 2 ^ (e - k).toNat) < signed b (n * 2 ^ (f - k).toNat)
  | _, _ => false

def Val.eqv : Val → Val → Bool
  | .inf a, .inf b => a == b
  | .fin a m e, .fin b n f =>
    let k := min e f
    signed a (m * 2 ^ (e - k).toNat) == signed b (n * 2 ^ (f - k).toNat)
  | _, _ => false

/-- rne64 of R189: the value rounded to binary64. -/
def Val.rne64 (v : Val) : Val := floatVal .fp64 (roundFloat .fp64 .rne v)

/-- A value times 2^k, exact. -/
def Val.scale (v : Val) (k : Int) : Val :=
  match v with
  | .fin n m e => .fin n m (e + k)
  | v => v

def Val.isInf : Val → Bool
  | .inf _ => true
  | _ => false
def Val.isZero : Val → Bool
  | .fin _ m _ => m == 0
  | _ => false
def Val.isNeg : Val → Bool
  | .fin n _ _ | .inf n => n
  | .nan => false

/-! Ranking (R68). -/

/-- The place of an element in the ranking of R68, the higher the greater. -/
def rankKey (f : Fmt) (raw : Nat) : Int :=
  if f.isFloat then
    let mag := raw % 2 ^ (f.bits - 1)
    let neg := decide (raw / 2 ^ (f.bits - 1) % 2 = 1)
    if (floatVal f raw).isNan then ((2 ^ f.bits : Nat) : Int)
    else if neg then -1 - (mag : Int) else mag
  else intOf f raw

/-- A NaN as the canonical NaN, every other element unchanged. -/
def canon (f : Fmt) (raw : Nat) : Nat := if f.isFloat && (floatVal f raw).isNan then canonNan f else raw

/-- v.max and v.min on two elements of a format (R169, R170). -/
def rankMax (f : Fmt) (a b : Nat) : Nat := if rankKey f a < rankKey f b then canon f b else canon f a
def rankMin (f : Fmt) (a b : Nat) : Nat :=
  if f.isFloat && ((floatVal f a).isNan || (floatVal f b).isNan) then canonNan f
  else if rankKey f b < rankKey f a then b else a

/-! Roots and functions of R190: quotients, roots and logarithms with the bits below the working precision folded into one. -/

/-- The integer square root of n, from its bit number `k` downward: the greatest r of the bits tried with r * r ≤ n. -/
def isqrtFrom (n : Nat) : Nat → Nat → Nat
  | 0, r => r
  | k + 1, r =>
    let r' := r + 2 ^ k
    if r' * r' ≤ n then isqrtFrom n k r' else isqrtFrom n k r

/-- The integer square root. -/
def isqrt (n : Nat) : Nat := isqrtFrom n (Nat.log2 n / 2 + 1) 0

/-- A magnitude q with a flag that something lies below it: one more bit, set when the value is inexact. -/
def withSticky (neg : Bool) (q : Nat) (exact : Bool) (e : Int) : Val := .fin neg (2 * q + if exact then 0 else 1) (e - 1)

/-- 1/x (R190). -/
def Val.rcp : Val → Val
  | .nan => .nan
  | .inf s => .fin s 0 0
  | .fin s m e =>
    if m = 0 then .inf s
    else
      let k := Nat.log2 m + 80
      withSticky s (2 ^ k / m) (2 ^ k % m = 0) (-e - k)

/-- 1/√x (R190). -/
def Val.rsq : Val → Val
  | .nan => .nan
  | .inf s => if s then .nan else .fin false 0 0
  | .fin s m e =>
    if m = 0 then .inf s
    else if s then .nan
    else
      let m' := if e % 2 = 0 then m else 2 * m
      let h := if e % 2 = 0 then e / 2 else (e - 1) / 2
      let k := Nat.log2 m' + 80
      let r := isqrt (2 ^ (2 * k) / m')
      withSticky false r (r * r * m' = 2 ^ (2 * k)) (-h - k)

/-- Working precision of 2^x and log2 x (log entry 12). -/
def fnBits : Nat := 320

/-- ln 2 in units of 2^-fnBits, by the series of artanh(1/3): 2 * Σ 1 / ((2i + 1) * 3^(2i + 1)). -/
def ln2From : Nat → Nat → Nat
  | 0, _ => 0
  | n + 1, i => 2 ^ (fnBits + 1) / ((2 * i + 1) * 3 ^ (2 * i + 1)) + ln2From n (i + 1)

def ln2Fix : Nat := ln2From 110 0

/-- The series of e^y for 0 ≤ y < 1 in units of 2^-fnBits: the terms from number i, the last being `t`. -/
def expFrom (y : Nat) : Nat → Nat → Nat → Nat
  | 0, _, _ => 0
  | n + 1, i, t => t + expFrom y n (i + 1) (t * y / 2 ^ fnBits / (i + 1))

/-- 2^f for 0 ≤ f < 1, f in units of 2^-fnBits. -/
def exp2Fix (f : Nat) : Nat := expFrom (f * ln2Fix / 2 ^ fnBits) 80 0 (2 ^ fnBits)

/-- 2^x (R190). The exponent is held within ± 4096, past which every format over- or underflows. -/
def Val.exp2 : Val → Val
  | .nan => .nan
  | .inf s => if s then .fin false 0 0 else .inf false
  | .fin s m e =>
    if m = 0 then .fin false 1 0
    else if 0 ≤ e + Nat.log2 m - 12 then (if s then .fin false 1 (-4096) else .fin false 1 4096)
    else if 0 ≤ e then .fin false 1 (signed s (m * 2 ^ e.toNat))
    else if m % 2 ^ (-e).toNat = 0 then .fin false 1 (signed s (m / 2 ^ (-e).toNat))
    else
      let k := (-e).toNat
      let x := signed s m
      let i := x / ((2 ^ k : Nat) : Int)
      let f := (x % ((2 ^ k : Nat) : Int)).toNat
      let f' := if k ≤ fnBits then f * 2 ^ (fnBits - k) else f / 2 ^ (k - fnBits)
      withSticky false (exp2Fix f') false (i - fnBits)

/-- The next `n` binary digits of log2 y, y in units of 2^-fnBits with 1 ≤ y < 2, after the digits `acc`. -/
def log2Digits : Nat → Nat → Nat → Nat
  | 0, _, acc => acc
  | n + 1, y, acc =>
    let y2 := y * y / 2 ^ fnBits
    if y2 ≥ 2 ^ (fnBits + 1) then log2Digits n (y2 / 2) (2 * acc + 1) else log2Digits n y2 (2 * acc)

/-- log2 x (R190). -/
def Val.log2 : Val → Val
  | .nan => .nan
  | .inf s => if s then .nan else .inf false
  | .fin s m e =>
    if m = 0 then .inf true
    else if s then .nan
    else
      let j := Nat.log2 m
      if m = 2 ^ j then Val.ofInt (e + j) 0
      else
        let frac := log2Digits 160 (m * 2 ^ fnBits / 2 ^ j) 0
        let x := 2 * ((e + j) * ((2 ^ 160 : Nat) : Int) + frac) + 1
        Val.ofInt x (-161)

/-! Q4 (R54 to R57). -/

/-- The code value of a nibble under a type: twice the value, so that every one is an integer (R56). -/
def q4Code (t : QType) (c : Nat) : Bool × Nat :=
  let neg := decide (8 ≤ c)
  let lo := c % 8
  match t with
  | .uni => if neg then (true, 2 * (16 - c)) else (false, 2 * c)
  | .e2m1 => (neg, match lo with | 0 => 0 | 1 => 1 | 2 => 2 | 3 => 3 | 4 => 4 | 5 => 6 | 6 => 8 | _ => 12)
  | .pow2 => (neg, if lo = 0 then 0 else 2 * 2 ^ (lo - 1))
  | .hyb => (neg, if lo < 4 then 2 * lo else 2 * 2 ^ (lo - 2))

/-- The type and the scale exponent of a scale byte (R55). -/
def scaleType (b : Nat) : QType := QType.ofCode (BitVec.ofNat 2 (b / 64))
def scaleExp (b : Nat) : Int := ((b % 64 : Nat) : Int) - 32

/-- The value of a nibble under a scale byte (R56). -/
def q4Val (scale c : Nat) : Val :=
  let v := q4Code (scaleType scale) c
  .fin v.1 v.2 (scaleExp scale - 1)

/-- The largest code magnitude of a type, for scales (R175). -/
def qMax : QType → Nat
  | .uni => 7
  | .e2m1 => 6
  | .pow2 => 64
  | .hyb => 32

/-- Greatest number of 0..n with a property that falls from true to false; 0 when none. -/
def lastTrue (p : Nat → Bool) : Nat → Nat
  | 0 => 0
  | n + 1 => if p (n + 1) then n + 1 else lastTrue p n

/-- The code, bits 2:0, of a magnitude num/2^k (in half units) of a signed-magnitude type under a mode (R57). -/
def q4Mag (t : QType) (r : Rnd) (neg : Bool) (num k : Nat) : Nat :=
  let unit := 2 ^ k
  let at_ := fun c => (q4Code t c).2 * unit
  let lo := lastTrue (fun c => at_ c ≤ num) 7
  if lo = 7 ∨ at_ lo = num then lo
  else
    let hi := lo + 1
    match r with
    | .rne =>
      if 2 * num < at_ lo + at_ hi then lo else if 2 * num > at_ lo + at_ hi then hi else (if lo % 2 = 0 then lo else hi)
    | .rtz => lo
    | .rup => if neg then lo else hi
    | .rdn => if neg then hi else lo
    | .rto => if lo % 2 = 1 then lo else hi

/-- A value converted into a Q4 code under the type and scale of a scale byte (R57). -/
def toQ4 (scale : Nat) (r : Rnd) (v : Val) : Nat :=
  match scaleType scale with
  | .uni =>
    (match v with
     | .nan => 0
     | .inf neg => if neg then 8 else 7
     | .fin neg m e =>
       let x := roundInt r neg m (e - scaleExp scale)
       wrapTo 4 (if x < -8 then -8 else if 7 < x then 7 else x))
  | t =>
    (match v with
     | .nan => 0
     | .inf neg => if neg then 15 else 7
     | .fin neg m e =>
       let e' := e - scaleExp scale + 1
       let c := if 0 ≤ e' then q4Mag t r neg (m * 2 ^ e'.toNat) 0 else q4Mag t r neg m (-e').toNat
       (if neg then 8 else 0) + c)

/-- The least k with m * 2^e ≤ C * 2^k, for a non-zero m (R175). -/
def scaleK (c m : Nat) (e : Int) : Int :=
  let k := e + (Nat.log2 m : Int) - (Nat.log2 c : Int)
  let ok := fun (j : Int) =>
    let d := e - j
    if 0 ≤ d then decide (m * 2 ^ d.toNat ≤ c) else decide (m ≤ c * 2 ^ (-d).toNat)
  if ok (k - 1) then k - 1 else if ok k then k else k + 1

/-- The scale byte of a block from its largest magnitude (R175). -/
def scaleByte (t : QType) (mx : Nat × Int) : Nat :=
  let e := if mx.1 = 0 then 0 else (min (max (scaleK (qMax t) mx.1 mx.2 + 32) 0) 63).toNat
  t.code.toNat * 64 + e

/-! Plane integers (R62, R63). -/

/-- floor(x / 2^k); 0 for a NaN or an infinity. -/
def Val.floorUnit (v : Val) (k : Int) : Int :=
  match v with
  | .fin neg m e =>
    if k ≤ e then signed neg (m * 2 ^ (e - k).toNat) else signed neg m / ((2 ^ (k - e).toNat : Nat) : Int)
  | _ => 0

/-- Whether a value is a NaN or an infinity. -/
def Val.nonFinite : Val → Bool
  | .fin .. => false
  | _ => true

/-- log2 of the alignment power A_g of a group of a source format (R62): fixed for integers, from the scale byte for Q4, from the greatest
finite magnitude for a floating source; 0 for a floating group of zeros. -/
def alignLog (f : Fmt) (scale : Nat) (vals : List Val) : Int :=
  match f with
  | .s8 => 7
  | .s16 => 15
  | .z8 => 8
  | .q4 => scaleExp scale + (match scaleType scale with | .uni => 3 | .e2m1 => 3 | .pow2 => 7 | .hyb => 6)
  | _ =>
    let logs := vals.filterMap fun v => match v with
      | .fin _ m e => if m = 0 then none else some (e + (Nat.log2 m : Int))
      | _ => none
    match logs with
    | [] => 0
    | x :: l => l.foldl max x + 1

/-- The formats of R62. -/
def Fmt.planeSource : Fmt → Bool
  | .s8 | .s16 | .z8 | .q4 | .bf16 | .fp16 | .fp32 | .e4m3 | .e5m2 => true
  | _ => false

/-! WFX128 (R58 to R61). -/

/-- The status bits: N, P, M, S in bits 0 to 3 (R58). -/
structure Wfx where
  val : BitVec 128
  status : BitVec 4
  deriving DecidableEq, Repr

/-- The contribution of a value at base exponent b (R59); its status has N in bit 0, P in 1, M in 2, S in 3 (R58; log entry 105). -/
def wfxOf (b : Int) (r : Rnd) : Val → Wfx
  | .nan => ⟨0, 1⟩
  | .inf false => ⟨0, 2⟩
  | .inf true => ⟨0, 4⟩
  | .fin neg m e =>
    let j := roundInt r neg m (e - b)
    let cap : Int := ((2 ^ 111 - 1 : Nat) : Int)
    if cap < j then ⟨BitVec.ofInt 128 cap, 8⟩ else if j < -cap then ⟨BitVec.ofInt 128 (-cap), 8⟩ else ⟨BitVec.ofInt 128 j, 0⟩

/-- I <- I + J, statuses joined (R60). -/
def Wfx.add (x y : Wfx) : Wfx := ⟨x.val + y.val, x.status ||| y.status⟩

/-- The value an accumulator stands for (R61). -/
def Wfx.toVal (b : Int) (x : Wfx) : Val :=
  if x.status.getLsbD 0 || (x.status.getLsbD 1 && x.status.getLsbD 2) then .nan
  else if x.status.getLsbD 1 then .inf false
  else if x.status.getLsbD 2 then .inf true
  else Val.ofInt x.val.toInt b

end Sys2Proof
end

