-- ==== Sys2Proof/Machine/Flags.lean ====
section
/-! DEFINITION. The comparisons that set predicates and mask bits (R118, R172). No A instruction sets a flag (R117), and the device keeps
no floating-point exception flags (R48). -/
namespace Sys2Proof.Machine

/-- The conditions of a.cmp (R118). -/
def aCondHolds (c : ACond) (x y : Word) : Bool :=
  match c with
  | .eq => x == y
  | .ne => x != y
  | .lt => x.slt y
  | .ge => !x.slt y
  | .lo => x.ult y
  | .hs => !x.ult y

/-- The conditions of v.cmp on two raw elements (R172). -/
def vCondHolds (f : Fmt) (c : VCond) (x y : Nat) : Bool :=
  if f.isFloat then
    let a := floatVal f x
    let b := floatVal f y
    let un := a.isNan || b.isNan
    match c with
    | .eq => a.eqv b
    | .ne => !a.eqv b
    | .lt => a.lt b
    | .ge => !un && !a.lt b
    | .le => !un && !b.lt a
    | .gt => b.lt a
    | .un => un
  else
    let a := intOf f x
    let b := intOf f y
    match c with
    | .eq => a == b
    | .ne => a != b
    | .lt => decide (a < b)
    | .ge => decide (b ≤ a)
    | .le => decide (a ≤ b)
    | .gt => decide (b < a)
    | .un => false

end Sys2Proof.Machine
end

