-- ==== Sys2Proof/Machine/Sparse.lean ====
section
/-! DEFINITION. The tables of the machine: a list of entries in rising order of key, none equal to the default `d` of the table.
Reading and writing need no invariant; `SMap.wf` is the canonical form, which every write keeps. -/
namespace Sys2Proof.SMap

variable {α : Type}

/-- The entry of key `n`, `d` where the table lists none. -/
def get (d : α) (m : SMap α) (n : Nat) : α :=
  match m with
  | [] => d
  | (k, v) :: m => if k = n then v else get d m n

/-- The table without key `n`. -/
def erase (m : SMap α) (n : Nat) : SMap α :=
  match m with
  | [] => []
  | (k, v) :: m => if k = n then erase m n else (k, v) :: erase m n

/-- An entry put before the first larger key. -/
def place (n : Nat) (v : α) (m : SMap α) : SMap α :=
  match m with
  | [] => [(n, v)]
  | (k, w) :: m => if n < k then (n, v) :: (k, w) :: m else (k, w) :: place n v m

/-- The table with `v` at key `n`: writing the default removes the entry. -/
def put [DecidableEq α] (d : α) (m : SMap α) (n : Nat) (v : α) : SMap α :=
  if v = d then erase m n else place n v (erase m n)

/-- The table with `v` at key `n`, listed whatever it is: for tables of structures, whose canonical form is the order alone. -/
def set (m : SMap α) (n : Nat) (v : α) : SMap α := place n v (erase m n)

/-- The table with the entry of key `n` changed by `f`. -/
def upd [DecidableEq α] (d : α) (m : SMap α) (n : Nat) (f : α → α) : SMap α := put d m n (f (get d m n))

/-- The keys are in strictly rising order from `lo`, and no entry is the default. -/
def wfFrom [DecidableEq α] (d : α) (lo : Nat) (m : SMap α) : Bool :=
  match m with
  | [] => true
  | (k, v) :: m => decide (lo ≤ k) && decide (v ≠ d) && wfFrom d (k + 1) m

/-- The canonical form of a table. -/
def wf [DecidableEq α] (d : α) (m : SMap α) : Bool := wfFrom d 0 m

end Sys2Proof.SMap
end

