-- ==== Sys2Proof/Machine/State.lean ====
section
/-! DEFINITION. The state of one package: plain data, one structure a level. Every table is an `SMap`; a key it does not list reads
as the default its docstring gives. Rules of spec/ are cited at each field. -/
namespace Sys2Proof.Machine

/-- The fields of a stream descriptor (R192). -/
structure SDesc where
  base : Nat
  space : Bool
  fmt : Fmt
  form : Bool
  blk : Bool
  pls : Nat
  rstr : Nat
  sstr : Nat
  sbase : Nat
  mbase : Nat
  hnd : Nat
  bound : Bool
  reserved : Bool
  deriving DecidableEq, Repr

/-! ## A core -/

/-- What a result writes when it is delivered (R86): a scalar, a predicate, a stream register, one word of it (R120), the bits of `mask` of a vector
register (occupying the lane groups `lanes`), a mask register, a special register, or a table slot of the F unit. `poison`
marks the destination instead of clearing its mark (R143). -/
inductive RegWrite
  | s (n : Nat) (v : Word) (poison : Bool)
  | p (n : Nat) (b : Bool)
  | q (n : Nat) (v : Desc) (poison : Bool)
  | qw (n : Nat) (wn : BitVec 2) (v : Word)
  | v (n : Nat) (mask val : VReg) (lanes : BitVec 4) (poison : BitVec 4)
  | w (n : Nat) (v : Mask)
  | spr (n : Nat) (v : Word)
  | tab (ts : Bool) (nf modes n se x0 : Nat) (nodes : List Nat)
  deriving DecidableEq, Repr

/-- A result on its way: `delay` more committed groups of its mode until it is written (R86, R96, R97); the tick of the core at which
its latency has run in cycles (R97). -/
structure Pend where
  handler : Bool
  delay : Nat
  w : RegWrite
  ready : Nat := 0
  deriving DecidableEq, Repr

/-- The register file (R93, R163, R164): zero, false or empty where a key is not listed. Poison marks of R143 and R167. -/
structure Regs where
  s : SMap Word := []
  p : SMap Bool := []
  q : SMap Desc := []
  v : SMap VReg := []
  w : SMap Mask := []
  sPoison : SMap Bool := []
  qPoison : SMap Bool := []
  vPoison : SMap (BitVec 4) := []
  deriving DecidableEq, Repr

/-- One level of a loop stack (R102). -/
structure Loop where
  lc : Nat
  first : Nat
  last : Nat
  deriving DecidableEq, Repr

/-- The special registers of R95 other than the counters; WORLD[8] is the mode of the core. -/
structure Sprs where
  tx : BitVec 4 := 0
  ty : BitVec 4 := 0
  lid : BitVec 37 := 0
  mb : SMap Word := []
  cause : Word := 0
  xcause : Word := 0
  faddr : Word := 0
  epc : Word := 0
  tvec : Word := 0
  tstack : Word := 0
  pidx : Word := 0
  cyc : Word := 0
  stall : Word := 0
  world : BitVec 4 := 0
  wref : Word := 0
  deriving DecidableEq, Repr

/-- Where the run of a core stands (R100, R111, R267, R270, R273, R280). -/
inductive RunState
  | idle       -- no task
  | waiting    -- a task placed, waiting for banks its SPIMG covers (R132)
  | running
  | stopped    -- stopped at a group boundary by the halt line
  | preempted  -- stopped by the scheduler
  | debug      -- stopped by an invasive debug halt (R373)
  | nested     -- stopped by a fault in handler mode (R266)
  | ended      -- its task has executed c.end; the core stays with its launch (R151)
  deriving DecidableEq, Repr

/-- A location an access of the L slot names. `mem` is a storage address of this package (after R290) with the S bit of its leaf;
`fab` an address of another package; `dev` a device-control address; `core` a scratchpad offset of a core. -/
inductive Loc
  | none
  | mem (pa : Nat) (s : Bool)
  | fab (pkg pa : Nat)
  | dev (pa : Nat)
  | core (n off : Nat)
  | flags (cluster idx : Nat)
  | barrier (b : Nat)
  deriving DecidableEq, Repr

/-- What an access does when it performs (R148, R150, R153, R154, R157, R159, R161, R279, R360, R361). -/
inductive AccOp
  | load (n : Nat)
  | store (n : Nat) (data : VReg)
  | aop (op : AOp) (n : Nat) (z : Bool) (b : Word)
  | cas (n : Nat) (exp nv : BitVec 128)
  | cwb | cinv | czero
  | tlbp (v : Word)
  | fence (k : FenceKind)
  | finc (n : Nat)
  | post (bytes : Nat)
  | arrive
  deriving DecidableEq, Repr

/-- Where the value of an access goes: a scalar, half a vector register, the low 128 bits of the first lane group of a half, a whole
vector register, two scalars, or nowhere. -/
inductive LDst
  | none
  | s (n : Nat)
  | half (v : Nat) (hi : Bool)
  | low16 (v : Nat) (hi : Bool)
  | pair (v : Nat)
  | s2 (n : Nat)
  deriving DecidableEq, Repr

/-- What came back for an access that has performed at its target (R151, R385): the data, which of its rows are poisoned (bit 1: the
second row of a pair), a cause to raise. -/
structure Reply where
  data : BitVec 1024
  poison : BitVec 2
  cause : Option Nat
  deriving DecidableEq, Repr

/-- A committed access that has not performed, or whose acknowledgement is not back (R139, R157). `id` is its place in program
order; `sent` says that it has left the egress. -/
structure Acc where
  id : Nat
  op : AccOp
  loc : Loc
  dst : LDst
  e : Word
  acq : Bool
  rel : Bool
  ofl : Bool
  scope : Scope
  ownL1 : Bool
  handler : Bool
  sent : Bool
  vaLine : Nat
  /- the launch of the task that issued it -/
  lid : Nat := 0
  /- the C bit of its leaf (R299) -/
  comp : Bool := false
  reply : Option Reply := none
  /- path class (R332); the counts a flag carries (R337) -/
  pcls : Nat := 0
  ofc : BitVec 64 := 0
  /- the first row of a pair, once it has performed at the target (R142), with its mark -/
  first : Option (Row × Bool) := none
  deriving DecidableEq, Repr

/-- The monitor of c.waitl (R114): a line address and whether it has fired. -/
structure Monitor where
  line : Nat
  fired : Bool
  deriving DecidableEq, Repr

/-- Who a bank of the scratchpad belongs to (R115, R132): nobody, the running task, an earlier program of the core. -/
inductive BankOwner
  | none | task | earlier
  deriving DecidableEq, Repr

/-- A line of the L1 (R129, R130): its line address, its state, its reference bit; its poison and, once written, the world of its writer
and the C bit of the leaf, of which the home learns with the data (R295). -/
structure L1Line where
  line : Nat
  st : Mesi
  ref : Bool
  poison : Bool := false
  world : Nat := 0
  comp : Bool := false
  deriving DecidableEq, Repr

/-- A TLB entry (R309): the page's first virtual page number, its size in 4 KiB pages, the leaf, its world. -/
structure TlbEntry where
  vpn : Nat
  pages : Nat
  leaf : Word
  world : Nat
  deriving DecidableEq, Repr

/-- An entry of the buffer table (R237). STATE: 0 free, 1 filling, 2 full, 3 draining. -/
structure Handle where
  row0 : Nat := 0
  rows : Nat := 0
  ring : Bool := false
  st : Nat := 0
  wb : Bool := false
  land : Bool := false
  gen : BitVec 16 := 0
  isz : Nat := 0
  prod : Nat := 0
  cons : Nat := 0
  pq : Option Nat := none
  cq : Option Nat := none
  nfc : Nat := 0
  deriving DecidableEq, Repr

/-- A declared landing (R259 to R262): its tag, its handle, its fields, the chunks present, the rows arrived of the others. -/
structure Landing where
  tag : Nat
  h : Nat
  plane : Bool
  scales : Bool
  nr : Nat
  cpr : Nat
  chb : Nat
  doff : Nat
  soff : Nat
  scb : Nat
  tr : Nat
  present : SMap Bool
  arrived : SMap (List Nat)
  deriving DecidableEq, Repr

/-- A K group of a stationary column: the held values with their K indices, and log2 v (R191). -/
structure PGroup where
  vals : List (Nat × Int)
  lv : Int
  deriving DecidableEq, Repr

/-- A stationary column: its groups (none listed: all zero) and its poison (R212). -/
structure Column where
  groups : List PGroup := []
  poison : Bool := false
  deriving DecidableEq, Repr

/-- A plane of an array with its tag (R191). -/
structure Plane where
  wid : Wid := .sw
  sp : Sparsity := .sp16
  cols : Nat := 0
  col : SMap Column := []
  deriving DecidableEq, Repr

/-- A row of a tile: 256 binary64 elements, column 0 in the low bits. -/
abbrev TileRow := BitVec 16384

/-- The image of a pass on one tile: its rows and poison marks by row 0 to 15, and the committed groups of its mode until it is the
tile's value (R202, R208). A pass over several tiles has one image marked `lead`, which counts in OCT. -/
structure Pass where
  tile : Nat
  lead : Bool
  handler : Bool
  delay : Nat
  rows : SMap TileRow
  poison : SMap (BitVec 256)
  deriving DecidableEq, Repr

/-- Rows of the scratchpad still to be written by an operation: row number, contents, poison. -/
structure RowWrite where
  row : Nat
  val : Row
  poison : Bool
  deriving DecidableEq, Repr

/-- An operation of an array in flight: `due` is the earliest tick of the core at which it completes, `start` that of its issue. -/
structure LdwOp where
  plane : Plane
  start : Nat
  due : Nat
  rows : List Nat
  ws : Bool
  /- the descriptor captured at issue (R213, R214) -/
  q : Desc := 0
  deriving DecidableEq, Repr

/-- Bytes of the scratchpad still to be written by an operation, from an offset within one row. -/
structure SpanWrite where
  off : Nat
  bytes : List Byte
  poison : Bool
  deriving DecidableEq, Repr

/-- An x.st in flight (R206): its tile, format, rounding and OSCALE, the descriptor captured at issue, the rows of the tile and their marks as
committed at its issue, its place in program order. -/
structure StOp where
  mt : Nat
  fmt : Fmt
  rnd : Rnd
  osc : Int
  q : Desc
  rows : SMap TileRow
  poison : SMap (BitVec 256)
  start : Nat
  due : Nat
  seq : Nat
  deriving DecidableEq, Repr

/-- How many groups of a mode an array is still occupied by the instruction that mode issued last, and whether that is a .dw pass (R87,
R208). -/
structure Occ where
  left : Nat := 0
  dw : Bool := false
  deriving DecidableEq, Repr

/-- One array (R191): planes, RDCUR, OSCALE, its occupancy in groups of task mode and of handler mode, loads and stores in flight. -/
structure Arr where
  active : Plane := {}
  shadow : Plane := {}
  rdrow : Nat := 0
  rdcol : Nat := 0
  oscale : Int := 0
  occT : Occ := {}
  occH : Occ := {}
  /- the pass whose beats run: its mode, whether it is a .dw pass, whether it is one of x.mul, the tick of its issue, BEATS, PL times w, its descriptor (R213) -/
  passHandler : Bool := false
  passDw : Bool := false
  passMul : Bool := false
  passStart : Nat := 0
  passBeats : Nat := 0
  passUnit : Nat := 1
  passQ : Desc := 0
  ldw : Option LdwOp := none
  st : Option StOp := none
  deriving DecidableEq, Repr

/-- A table slot of the special-function unit (R188). -/
structure FTable where
  nf : Nat
  modes : Nat
  n : Nat
  se : Nat
  x0 : Nat
  nodes : List Nat
  deriving DecidableEq, Repr

/-- A witness form or v.adjb in flight (R223, R232, R236): the instruction, its handles with the state each returns to, the handle
whose WB it sets, the handle it frees, its rows, and what sD receives; its outputs, how many of them a stop found finished, the
tick of its issue; its operand words, handles and shape, and the bounds of a clamp. -/
structure WitOp where
  i : Instr
  handler : Bool
  back : List (Nat × Nat)
  setWb : Option Nat
  free : Option Nat
  writes : List RowWrite
  sd : Nat
  sum : Word
  due : Nat
  nout : Nat := 0
  done : Nat := 0
  start : Nat := 0
  a : Word := 0
  b : Word := 0
  lo : Word := 0
  hi : Word := 0
  deriving DecidableEq, Repr

/-- Where an engine command stands (R135, R245, R255): in its queue, a weight-store write held, running with the earliest tick of
completion, abandoned until c.tret or resume, waiting for rows from another package, waiting for acknowledgements of what it sent
(how many are left), or with all its data in place. -/
inductive CmdState
  | queued
  | held
  | running (due : Nat)
  | abandoned
  | fabric (left : Nat)
  | posting (left : Nat)
  | placed
  deriving DecidableEq, Repr

/-- An engine command of a core from its issue to its completion (R245): its place in program order, the E instruction, the
descriptors and scalars captured at issue, the handles whose during-state it has taken (R239), what it has met. -/
structure Cmd where
  id : Nat
  i : Instr
  qs : Desc
  qd : Desc
  a : Word
  b : Word
  c : Word
  handler : Bool
  taken : List Nat
  st : CmdState
  poison : Bool
  /- issued by an earlier program of the core (R132) -/
  old : Bool := false
  /- the launch of the task that issued it -/
  lid : Nat := 0
  /- issue number within the task (R287), engine that runs it (0, 1 copy, 2 gather), rows already acknowledged and rows received from
  another package with their poison, by row number (R400, R407) -/
  num : Nat := 0
  eng : Nat := 0
  acked : List Nat := []
  got : SMap Row := []
  gotPoison : SMap Bool := []
  /- the line of global memory whose read last failed and how often in a row (R255) -/
  retry : Option (Nat × Nat) := none
  /- the clock at its issue (R284); its task has been told that its chunk was refused (R261) -/
  at_ : Nat := 0
  told : Bool := false
  /- buffers its rows have advanced the generation of, as 64 * core + handle (R218); the first row of a context area that another package
  has refused, with its cause (R273, R385) -/
  touched : List Nat := []
  err : Option (Nat × Nat) := none
  deriving DecidableEq, Repr

/-- A cause held pending (R264): code, class in CAUSE[10:8], FADDR. -/
structure AsyncCause where
  cause : Nat
  cls : Nat
  faddr : Word
  deriving DecidableEq, Repr

/-- An ordered flag held at its target until the counts it carries have performed there (R152, R337): its source core, its packet. -/
structure HeldFlag where
  src : Nat
  acc : Nat
  counts : List Nat
  deriving DecidableEq, Repr

/-- A line of a launch record in another package: asked for, then its data and mark, or the cause of a refusal (R385). -/
structure RecLine where
  pkg : Nat
  pa : Nat
  got : Option (Row × Bool) := none
  cause : Option Nat := none
  deriving DecidableEq, Repr

/-- One core. -/
structure Core where
  run : RunState := .idle
  regs : Regs := {}
  spr : Sprs := {}
  pc : Nat := 0
  handler : Bool := false
  loops : List Loop := []
  hloops : List Loop := []
  pend : List Pend := []
  /- accesses outstanding, in program order -/
  accs : List Acc := []
  /- number of the next access or engine command in program order -/
  seq : Nat := 0
  drain : Option Scope := none
  tlbiWait : Bool := false
  monitor : Option Monitor := none
  /- segment count and signature (R105), marks by segment (R36): count and signature -/
  segCount : BitVec 32 := 0
  segCrc : BitVec 32 := 0xFFFFFFFF
  marks : SMap (Option (BitVec 32 × BitVec 32)) := []
  /- arrival generations of the barriers (R361) -/
  arrGen : SMap (Option (BitVec 16)) := []
  /- instruction memory and constant tables by 64-byte line (R43) -/
  text : SMap Row := []
  ctab : SMap Row := []
  /- the ephemeral key both are sealed under while a task's banks are held (R43, R367) -/
  sealKey : Option (BitVec 256) := none
  /- lines of the constant tables with an uncorrectable error (R143) -/
  ctabPoison : SMap Bool := []
  /- scratchpad: partition, rows, poison, bank owners, banks released at c.end (R122 to R132, R151) -/
  banks : Nat := 0
  sp : SMap Row := []
  spPoison : SMap Bool := []
  owner : SMap BankOwner := []
  /- L1 by set * 96 + way, rotating pointers by set (R129); TLB and the walk in progress (R309) -/
  l1 : SMap (Option L1Line) := []
  l1ptr : SMap Nat := []
  tlb : List TlbEntry := []
  walk : Option Word := none
  walkFault : Option (Word × Nat) := none
  /- lines of other packages a c.launch has asked for: package, line, what came (R291, R351) -/
  recs : List RecLine := []
  /- arrays, tiles by tile * 16 + row, tile poison, pass images (R191) -/
  arr0 : Arr := {}
  arr1 : Arr := {}
  tiles : SMap TileRow := []
  tilePoison : SMap (BitVec 256) := []
  passes : List Pass := []
  ftab0 : Option FTable := none
  ftab1 : Option FTable := none
  wit : Option WitOp := none
  /- buffer table, landings, engine commands in issue order (R237, R260, R245) -/
  handles : SMap Handle := []
  lands : List Landing := []
  cmds : List Cmd := []
  /- buffer tables of earlier programs with commands outstanding, by launch (R115, R132) -/
  oldTabs : SMap (SMap Handle) := []
  async : List AsyncCause := []
  /- stores sent and performed per path class (key: core * 16 + class), flags held (R337) -/
  sent : SMap Nat := []
  performed : SMap Nat := []
  classRR : SMap Nat := []
  held : List HeldFlag := []
  /- paired launches: the store part and the engine part of the signature, the run of the core, E commands issued (R287) -/
  pairCrc : BitVec 32 := 0xFFFFFFFF
  pairSum : Word := 0
  run_ : Nat := 0
  ncmd : Nat := 0
  /- the cause with which the core stopped, kept for its stop record; NESTED: FADDR2 and HOFF (R268) -/
  stopCause : Nat := 0
  faddr2 : Word := 0
  hoff : Nat := 0
  /- cycles of the current c.fwait stall (R280); the row maps of the arrays by
  array * 256 + logical row: the physical row where it is another (R215) -/
  fwait : Nat := 0
  rowMap : SMap Nat := []
  /- cycles of the core, never reset: the clock of `due` -/
  tick : Nat := 0
  refresh : Bool := false
  gated : Bool := false
  retention : Bool := false
  powerOff : Bool := false
  /- the world of the program before this one (R133) -/
  lastWorld : Nat := 0
  deriving DecidableEq, Repr

/-! ## A cluster (R276 to R284) -/

/-- An armed entry of the arm table (R281): flag, threshold, action 1 wake, 2 start, 3 signal, parameter, stamp, the arming core. -/
structure Arm where
  flag : Nat
  t : Nat
  act : Nat
  x : Nat
  stamp : Nat
  core : Nat
  deriving DecidableEq, Repr

/-- An increment that has reached a flag file and is not applied (R279): flag, amount, the access that counts in OCS (core, id). -/
structure Increment where
  flag : Nat
  amount : Nat
  src : Option (Nat × Nat)
  deriving DecidableEq, Repr

/-- The flag file of a cluster: flags, arm table (none: free), next stamp, increments arrived in order, whether the cluster is switched out
as a gang (R283), its FLAGDROP counter (R446), the next core of each engine's round robin (R284). -/
structure Cluster where
  flags : SMap Nat := []
  arms : SMap (Option Arm) := []
  stamp : Nat := 0
  arrived : List Increment := []
  out : Bool := false
  drops : Nat := 0
  rr : SMap Nat := []
  /- signals that find the queue of a switched-out target full: its cluster, flag, amount; queued increments applied since the cluster was
  restored (R283) -/
  outbox : List (Nat × Nat × Nat) := []
  applied : Nat := 0
  deriving DecidableEq, Repr

/-- The sister table of a die (R285): PHYSn by n (15 where OFF), SPARE, OFF. -/
structure Sister where
  phys : List Nat := [0, 1, 2, 3, 4, 5, 6, 7]
  spare : Nat := 8
  off : BitVec 8 := 0
  deriving DecidableEq, Repr

/-! ## Launches, queues, barriers (R342 to R363) -/

/-- A hop of a path over the routers: the router, the port it comes in by and the one it leaves by. -/
structure Hop where
  router : Nat
  inp : Nat
  out : Nat
  deriving DecidableEq, Repr

/-- A circuit in place: its identifier, its end cores, its slots at the source, the hops its entries stand at, the links of the bridges
it crosses (R330, R331). -/
structure Circ where
  id : Nat
  src : Nat
  dst : Nat
  slots : List Nat
  hops : List Hop := []
  bridges : List Nat := []
  /- slots it asks for; one that could not be placed has none, and is tried again when an end of it moves -/
  want : Nat := 0
  deriving DecidableEq, Repr

/-- A launch that holds cores (R343 to R356). Logical clusters by launch-relative number for each run (a paired launch has several,
R287); `ended` lists run * 256 + tile; `dead` once the launch has ended early; END and CODE of its completion. -/
structure Launch where
  lid : Nat
  queue : Nat
  world : Nat
  root : Nat
  w : Nat
  h : Nat
  p : Nat
  line : Bool
  clusters : List (List Nat)
  rcd : BitVec 1024 := 0
  img : Nat := 0
  task : Nat := 0
  ep : Nat := 0
  ended : List Nat := []
  finished : Bool := false
  endc : Nat := 0
  code : Nat := 0
  /- clusters already released (R353); the order of dispatch; cores that entered handler mode and have not returned -/
  released : Bool := false
  order : Nat := 0
  preempted : Bool := false
  /- pair: signatures of ended runs, outcome -/
  sigs : List (Nat × Word) := []
  pair : Nat := 0
  /- a debugger holds the line (R373) -/
  dbg : Bool := false
  /- clusters still to be switched out, as 32 * run + launch-relative cluster, and the pool they go to (R355); a cluster found defective (R286) -/
  leaving : List Nat := []
  pool : Nat := 0
  /- the LID of the head for which it was pre-empted last -/
  forHead : Nat := 0
  defect : Option Nat := none
  /- circuits in place (R331) -/
  circs : List Circ := []
  /- slots of the engines whose stop record of the present halt is written (R268) -/
  engRec : List Nat := []
  /- a third run is to be placed (R287); clusters that come back, as run, launch-relative number, logical cluster, and wait for banks earlier
  programs hold (R131, R355) -/
  third : Bool := false
  incoming : List (Nat × Nat × Nat) := []
  deriving DecidableEq, Repr

/-- A record in a queue (R348, R352): its 128 bytes, LID, EP, pass count, waits met; `resume` marks a pre-empted launch. -/
structure QItem where
  rcd : BitVec 1024
  lid : Nat
  ep : Nat
  pass : Nat := 0
  met0 : Bool := false
  met1 : Bool := false
  resume : Bool := false
  deriving DecidableEq, Repr

/-- A queue of the launch scheduler (R348). -/
structure Queue where
  qen : Bool := false
  qworld : Nat := 0
  qdrop : Bool := false
  qsave : Nat := 0
  qstk : Nat := 0
  items : List QItem := []
  deriving DecidableEq, Repr

/-- A superstep barrier (R357); `arrived` lists the tiles that have arrived in the current generation. -/
structure Barrier where
  pend : Nat := 0
  bound : Bool := false
  err : Bool := false
  bscope : Nat := 0
  subg : Nat := 0
  lidb : Nat := 0
  arrived : List Nat := []
  gen : BitVec 16 := 0
  /- the launch whose arrival set ERR while no launch was bound (R363) -/
  errLid : Nat := 0
  deriving DecidableEq, Repr

/-! ## Images (R31 to R43, R368) -/

/-- A circuit of a task (R37). -/
structure Circuit where
  id : Nat
  fx : Nat
  fy : Nat
  tx : Nat
  ty : Nat
  slots : Nat
  deriving DecidableEq, Repr

/-- A task of a loaded image: memories by line, scratchpad image, marks, circuits, `$tvec` (R43, R349), the text offset of its entry
bundle (R90; the container of R31 has no place for it: log entry 3). -/
structure TaskImage where
  text : SMap Row := []
  ctab : SMap Row := []
  spimg : List Byte := []
  /- the scratchpad offset at which its image loads (R32) -/
  spoff : Nat := 0
  marks : SMap (Option (BitVec 32 × BitVec 32)) := []
  circuits : List Circuit := []
  slottab : List Byte := []
  tvec : Nat := 0
  entry : Nat := 0
  deriving DecidableEq, Repr

/-- A loaded image: its tasks, communication-core words, the world it was loaded for, its digest (R368, R369). -/
structure Image where
  tasks : List TaskImage
  mcore : List (BitVec 32)
  hasMcore : Bool
  world : Nat
  digest : BitVec 256
  /- bytes it takes in the image store -/
  size : Nat := 0
  deriving DecidableEq, Repr

/-! ## The network (R326 to R341) -/

/-- Who waits for the reply of a request (R385). -/
inductive ReqSrc
  | acc (core id : Nat)
  | cmd (core id row : Nat)
  | step (unit slot lid id row : Nat)
  | ldg (unit slot lid d : Nat)
  | tlbi (core : Nat)
  | wait (queue lid k : Nat)
  | rec_ (core line : Nat)
  /-- STATUS of a completion block; its acknowledgement lets SEQ follow (R344) -/
  | release (world lid pa dseq : Nat)
  /-- a landing chunk that came over a connection, of whose discard its sender is told there (R261) -/
  | peer (conn tag chunk : Nat)
  | none
  deriving DecidableEq, Repr

/-- Where a tensor packet inside the package goes. -/
inductive TDest
  | landing (core : Nat)
  | contribution (hop : Option Nat)
  | result (core : Nat)
  | mcast (group : Nat)
  deriving DecidableEq, Repr

/-- A tensor packet on its way inside the package, with the engine command that sent it, or the request to answer; `held` marks a
contribution that has found no slot (R433). -/
structure TPkt where
  dest : TDest
  p : TensorPkt
  src : ReqSrc
  lid : Nat
  held : Bool := false
  deriving DecidableEq, Repr

/-- What a packet on the routers carries to its destination core. -/
inductive PktBody
  /-- an l.ldx, l.stx or ordered flag: the issuing core and the access -/
  | access (core id : Nat)
  /-- a row of an engine command to a tile of the own package -/
  | engine (core id row : Nat)
  /-- the reply or acknowledgement of an access: the issuing core and the access -/
  | reply (core id : Nat) (r : Reply)
  /-- that of a row of an engine command -/
  | rowReply (core id row : Nat) (data : Option (Row × Bool)) (cause : Option Nat)
  /-- an increment for a cluster's flag file, with the access that counts in OCS -/
  | flag (cluster flag amount : Nat) (src : Option (Nat × Nat))
  /-- a landing chunk -/
  | chunk (t : TPkt)
  deriving DecidableEq, Repr

/-- A packet in flight (R332 to R336): its header, the physical router it stands at (9 bits), its destination core; the input port it stands
at, the clock when it came there, whether it goes on adaptively although sent on a circuit (R330); non-minimal hops taken, whether it
has waited 32 cycles, whether its router has asked for the peg. -/
structure Pkt where
  hdr : BitVec 128
  at_ : Nat
  core : Nat
  body : PktBody
  inp : Nat := 0
  since : Nat := 0
  loose : Bool := false
  nonmin : Nat := 0
  late : Bool := false
  wantsPeg : Bool := false
  /- flits that have gone to the next router, one in each slot of the circuit (R330) -/
  gone : Nat := 0
  deriving DecidableEq, Repr

/-- A link (R339, R340): failed replays of the flit being replayed, bucket, retired, retraining, an exchange pending, the burrow routes
around it being recomputed. -/
structure Link where
  fails : Nat := 0
  bucket : Nat := 0
  retired : Bool := false
  training : Bool := false
  exchange : Bool := false
  recompute : Bool := false
  /- the clock when the bucket last leaked -/
  leakAt : Nat := 0
  deriving DecidableEq, Repr

/-! ## The fabric (R379 to R408) -/

/-- A packet a connection has sent and not seen acknowledged: PSN, entropy value last used, the launch that issued it, payload. -/
structure Sent where
  psn : Nat
  ent : Nat
  lid : Nat
  payload : FabPayload
  deriving DecidableEq, Repr

/-- A connection (R381 to R383, R427 to R430): world, peer package (8,192 + port for a port hop), hop or endpoint, ordered; next PSN,
cumulative PSN acknowledged, packets outstanding, packets waiting for the window; window, RTO, enabled entropy values, next value;
receiver: next PSN expected, bitmap beyond it, packets held for order; the holes the last acknowledgement showed, with how many in a row have
shown each; timeouts in a row on one entropy value; the clock when a mark last halved the window (R425). -/
structure Conn where
  world : Nat
  peer : Nat
  hop : Bool
  ordered : Bool := false
  psn : Nat := 0
  cum : Nat := 0
  out : List Sent := []
  queue : List (Nat × FabPayload) := []
  window : Nat := 64
  rto : Nat := 16000
  mask : BitVec 16 := 0xFFFF
  ent : Nat := 0
  rx : Nat := 0
  rxMap : BitVec 64 := 0
  held : List (Nat × FabPayload) := []
  gaps : SMap Nat := []
  lossEnt : Nat := 0
  losses : Nat := 0
  halved : Option Nat := none
  deriving DecidableEq, Repr

/-- A request outstanding toward another package. -/
structure Req where
  src : ReqSrc
  peer : Nat
  req : FabReq
  deriving DecidableEq, Repr

/-- A reduction slot (R391, R431); `els` by element, none where no packet has reached it; `got` counts the rows of an input that have been
applied; which inputs have come whole is in SEEN. -/
structure RSlot where
  world : Nat
  rid : Nat
  chunk : Nat
  epoch : Nat
  op : Nat
  rnd : Nat
  ofmt : Nat
  b : Int
  ncon : Nat
  expect : BitVec 64
  seen : BitVec 64
  count : Nat
  root : Bool
  ncin : Nat
  ndst : Nat
  lid : Nat
  els : List (Option RedEl)
  poison : List Nat := []
  got : SMap Nat := []
  deriving DecidableEq, Repr

/-- A multicast group (R395): ports, local cores. -/
structure MGroup where
  ports : BitVec 48 := 0
  cores : BitVec 256 := 0
  deriving DecidableEq, Repr

/-- A request combined into another (R397): the requests carried, in order, with their operands. -/
structure Combined where
  members : List (Nat × Word)
  n : Nat
  deriving DecidableEq, Repr

/-- A packet put on a port: its connection, PSN, entropy value, payload; of one in transit the port it leaves by (R379). -/
structure Wire where
  conn : Nat
  psn : Nat
  ent : Nat
  payload : FabPayload
  port : Option Nat := none
  deriving DecidableEq, Repr

/-- The port switch and the transport. `serve` holds requests received with the connection to answer on; `ctsIn`
and `rowsIn` clear-to-sends and step rows that have come and are not taken in (R440); `transit` foreign packets held;
`acks` acknowledgements sent (connection, cumulative PSN, bitmap). -/
structure Fabric where
  grants : SMap (BitVec 128) := []
  conns : SMap (Option Conn) := []
  reqs : SMap (Option Req) := []
  nextTag : Nat := 0
  slots : SMap (Option RSlot) := []
  epochs : SMap (Option (Nat × Nat)) := []
  tens : List TPkt := []
  groups : SMap MGroup := []
  combined : SMap (Option Combined) := []
  serve : List (Nat × FabReq) := []
  ctsIn : List (StepKey × Nat) := []
  rowsIn : List (StepKey × Nat × Bool × Row) := []
  transit : List Wire := []
  wire : List Wire := []
  acks : List (Nat × Nat × BitVec 64) := []
  deriving DecidableEq, Repr

/-! ## Communication cores (R409 to R445) -/

/-- An event (R422): type, connection, PSN, E1, the launch concerned. -/
structure Ev where
  type : Nat
  conn : Nat
  psn : Nat
  e1 : Word
  lid : Nat
  deriving DecidableEq, Repr

/-- A collective step in progress (R439 to R443). KIND: 0 send, 1 recv, 2 rrs, 3 copy, 4 mcast. -/
structure StepOp where
  id : Nat
  kind : Nat
  /- the buffer, and the second buffer of a copy or the group and chunk of a multicast -/
  addr : Nat
  tile : Bool
  addr2 : Nat
  tile2 : Bool
  fmt : Fmt
  dar : Darith
  rnd : Rnd
  rid : Nat
  rows : Nat
  step : Nat
  /- ranks and their packages: whom it receives from, whom it sends to -/
  from_ : Nat
  pfrom : Nat
  to_ : Nat
  pto : Nat
  /- rows taken in hand, rows sent on, rows performed; rows of the receiving and of the sending partner, once known; how it ended in error -/
  got : List Nat := []
  sent : List Nat := []
  acked : List Nat := []
  cts : Option Nat := none
  peer : Option Nat := none
  err : Option Nat := none
  /- answers held while its launch is halted (R267, R413): code, row, mark, cause -/
  late : List (Nat × Row × Bool × Option Nat) := []
  deriving DecidableEq, Repr

/-- Where a program slot stands. -/
inductive MRun
  | free | running | stopped | ended | fault
  deriving DecidableEq, Repr

/-- A program slot of a communication core (R409, R410). `locks` lists events delivered and not acknowledged, with the fresh entry that
waits for the k.eack; `armed` the RIDs it armed a slot or posted a step for; `held` events that wait for room in the queue. -/
structure MSlot where
  run : MRun := .free
  lid : Nat := 0
  k : SMap Word := []
  kPoison : SMap Bool := []
  pc : Nat := 0
  loops : List Loop := []
  lm : SMap Word := []
  rank : Nat := 0
  nr : Nat := 0
  rtab : Nat := 0
  emask : BitVec 8 := 0
  timers : SMap Nat := []
  queue : List Ev := []
  locks : List (Ev × Option Ev) := []
  held : List Ev := []
  steps : List StepOp := []
  nextStep : Nat := 0
  /- registers whose k.ldg waits for another package -/
  waits : List Nat := []
  armed : List Nat := []
  prog : SMap (BitVec 32) := []
  cyc : Word := 0
  mb : SMap Word := []
  world : Nat := 0
  cause : Nat := 0
  deriving DecidableEq, Repr

/-! ## The security processor (R365 to R378) -/

/-- A configuration image (R371). -/
structure Conf where
  version : Nat := 0
  /- trusted image keys and trusted firmware keys with their limits, an identity key that the vendor has certified (R370, R371); whether unsigned images may load into world 0; the debug ceiling of world 0 -/
  keys : List (List Byte × Nat) := []
  fwKeys : List (List Byte × Nat) := []
  identity : Option (List Byte) := none
  unsignedOk : Bool := false
  ceiling : Nat := 0
  /- rows and clusters excluded: die * 9 + physical cluster -/
  exclude : List Nat := []
  pegTimeout : Nat := 1024
  /- pairs of ports 2k and 2k + 1 joined into one (R379) -/
  joined : BitVec 24 := 0
  /- failing rows of the arrays as physical core * 1024 + array * 512 + row (R215) -/
  rows : List Nat := []
  budget : Nat := 8
  leak : Nat := 60
  power : Nat := 2900
  /- bytes of HBM set aside for the image store -/
  store : Nat := 2 ^ 32
  deriving DecidableEq, Repr

/-- A world (R366, R372, R374, R384): open, owner's key, HBM keys old and new, transport keys by keyid, image keys the owner
has added, fabric key, token level. -/
structure WorldRec where
  isOpen : Bool := false
  owner : List Byte := []
  oldKey : BitVec 256 := 0
  newKey : Option (BitVec 256) := none
  transport : SMap (Option (BitVec 256)) := []
  owners : List (List Byte) := []
  fabric : Option (BitVec 256) := none
  token : Nat := 0
  deriving DecidableEq, Repr

/-- The power state of the package (R375, R378). -/
inductive PowerState
  | on | sleep | off
  deriving DecidableEq, Repr

/-- The security processor and the management window. -/
structure Sec where
  sparg : Nat := 0
  cmd : Option (Nat × Nat) := none
  res : Nat := 0
  conf : Conf := {}
  confNext : Option Conf := none
  confVersion : Nat := 0
  index : Nat := 0
  /- the identity key a configuration image has installed in place of that of manufacture (R370) -/
  identity : Option (List Byte) := none
  images : SMap (Option Image) := []
  nextImage : Nat := 1
  worlds : SMap WorldRec := []
  evHead : Nat := 0
  evTail : Nat := 0
  evFull : Bool := false
  evLost : Bool := false
  evRing : SMap (BitVec 128) := []
  power : PowerState := .on
  throttle : Bool := false
  deriving DecidableEq, Repr

/-! ## The package -/

/-- An invalidation in progress (R311): the issuing core, its world, the page (first virtual page, pages; none for ALL), the cores reached
with, once the entries are dropped, the place in their program order before which every access must end; other packages that have still to
report; the operand and place in program order of the c.tlbi; whether the other packages have been asked. -/
structure Tlbi where
  core : Nat
  world : Nat
  page : Option (Nat × Nat)
  left : List (Nat × Option Nat)
  outside : Nat
  id : Nat
  operand : Nat := 0
  asked : Bool := false
  deriving DecidableEq, Repr

/-- What happens to the package from inside its hardware or at a register only the security processor writes: an uncorrectable error of
a storage, a transient error of a read, an eviction, a finding of a self-test. -/
inductive Upset
  /-- a row of a scratchpad (R123) -/
  | spRow (core row : Nat)
  /-- a line of the constant tables (R143) -/
  | ctabLine (core line : Nat)
  /-- a column of a plane (R212) -/
  | plane (core : Nat) (arr shadow : Bool) (col : Nat)
  /-- a line of an L1, of the L2 (R292) -/
  | l1Line (core line : Nat)
  | l2Line (line : Nat)
  /-- the state of a block (R299), its tag (R301) -/
  | blockState (block : Nat)
  | blockTag (block : Nat)
  /-- a 64-bit word of a weight store (R305) -/
  | wsWord (die word : Nat)
  /-- a read of global memory by an engine command returns an error (R255) -/
  | readError (core id line : Nat)
  /-- an L2 slice evicts a line (R292) -/
  | evict (line : Nat)
  /-- the security processor writes a register of a sweep (R303): 0 SWCTL, 1 SWBASE, 2 SWEND, 3 SWSTAT -/
  | sweepWrite (die ctl reg value : Nat)
  /-- the save of a cluster found defective aborts (R286) -/
  | saveAbort (cluster : Nat)
  /-- a self-test finds a failing row of an array of a physical core, a failing physical cluster (R215, R285, R286) -/
  | badRow (unit : Nat) (arr : Bool) (row : Nat)
  | badCluster (die pc : Nat)
  deriving DecidableEq, Repr

/-- What a step does next: a core issues, a communication core issues in a slot, an event takes place, an error of the hardware occurs. -/
inductive Choice
  | core (n : Nat)
  | marten (m slot : Nat)
  | event (i : Instr)
  | upset (u : Upset)
  deriving DecidableEq, Repr

/-- A line present in its home L2 slice with its directory entry (R293): DST, MAP, RDIE (the other dies in rising order), OWN, HOST;
whether it differs from what HBM stores, the world and C bit of its last writer, its poison. -/
structure L2Line where
  dst : Nat := 0
  map : BitVec 64 := 0
  rdie : BitVec 3 := 0
  own : Nat := 0
  host : Bool := false
  dirty : Bool := false
  poison : Bool := false
  world : Nat := 0
  comp : Bool := false
  deriving DecidableEq, Repr

/-- What an HBM controller keeps of a 512-byte block (R298, R300, R301): the compression state, the world of its last writer, whether it
stands under the new key, whether its tag or state fails, poison marks of its lines. -/
structure Block where
  comp : BitVec 2 := 0
  world : Nat := 0
  newKey : Bool := false
  bad : Bool := false
  poison : BitVec 8 := 0
  deriving DecidableEq, Repr

/-- The sweep of an HBM controller (R303), block numbers in place of addresses. -/
structure Sweep where
  wid : Nat := 0
  go : Bool := false
  pause : Bool := false
  base : Nat := 0
  end_ : Nat := 0
  ptr : Nat := 0
  done : Bool := false
  pblk : Nat := 0
  /- blocks of the range before `ptr` stand under the new key of `wid` (R304) -/
  live : Bool := false
  deriving DecidableEq, Repr

/-- Why a step stops. -/
inductive Fault
  /-- The order of moves names a unit the package does not have (a core past 255, a cluster past 31): raised by `step` through
  `State.eventTurn`, never for a move the package makes of itself; safe. -/
  | noSuchUnit (n : Nat)
  deriving DecidableEq, Repr

/-- Why an instruction is refused. -/
inductive Refusal
  /-- The instruction has no meaning in this model yet, named by its mnemonic of the opcode table; safe. -/
  | notModelled (mnemonic : String)
  deriving DecidableEq, Repr

/-- The package. -/
structure State where
  /- the core that issues (R69); the communication core and slot that issue -/
  cur : Nat := 0
  curM : Nat := 0
  curSlot : Nat := 0
  cores : SMap Core := []
  clusters : SMap Cluster := []
  sisters : SMap Sister := []
  /- HBM by storage address below 2^40, host memory from 2^47 (R289) -/
  mem : List Host.Cell := []
  /- lines present in L2 by line number, CXL.cache state of host lines, HBM lines whose back-invalidation is outstanding (R297) -/
  l2 : SMap (Option L2Line) := []
  cxl : SMap Mesi := []
  binv : List Nat := []
  /- host lines asked of the host, with ownership or without (R297) -/
  cxlWant : SMap (Option Bool) := []
  /- HBM blocks by number, none for one nothing has written; whether those fail their tags, the key of world 0 being retired (R304);
  sweeps by die * 4 + controller -/
  blocks : SMap (Option Block) := []
  freshBad : Bool := false
  sweeps : SMap Sweep := []
  /- weight stores by die * 2^22 + 64-byte line, poisoned 64-bit words by die * 2^25 + word, worlds of granules by die * 256 + number (R134) -/
  ws : SMap Row := []
  wsPoison : SMap Bool := []
  wsWorld : SMap Nat := []
  /- routers: packets in flight, next packet number, slot tables by router * 256 + slot (the slot counter of R329 is the clock modulo 256); the peg: router it stands at, the
  packet that rides with it; links (R326 to R341) -/
  pkts : SMap (Option Pkt) := []
  nextPkt : Nat := 0
  slotTab : SMap (BitVec 32) := []
  /- what an entry held before it was last written, and the clock then: it acts until the next slot 0 (R328); reserved slots that have
  passed at a router, and the clock up to which they are counted (R341) -/
  slotOld : SMap (Option (BitVec 32 × Nat)) := []
  reserved : SMap (Nat × Nat) := []
  peg : Nat := 0
  pegPkt : Option Nat := none
  /- the clock when a router last saw it (R334) -/
  pegSeen : Nat := 0
  links : SMap Link := []
  /- scheduler (R342 to R356) -/
  launches : SMap (Option Launch) := []
  queues : SMap Queue := []
  nextLid : Nat := 1
  lbad : Nat := 0
  rrq : Nat := 0
  dispatches : Nat := 0
  /- pool addresses of the clusters switched out, by gang number; the next number (R283) -/
  gangs : SMap Nat := []
  nextImg : Nat := 1
  /- barriers, arrivals of bytes that have performed and are not applied: barrier, bytes, the launch that wrote them (R357, R363) -/
  barriers : SMap Barrier := []
  barIn : List (Nat × Nat × Nat) := []
  tlbis : List Tlbi := []
  fab : Fabric := {}
  /- communication cores by unit * 4 + slot -/
  martens : SMap MSlot := []
  sec : Sec := {}
  /- the package's own number, the number of configured packages (R291, R308) -/
  pkg : Nat := 0
  npkg : Nat := 1
  /- events counted by the package, by code (R408, R444), by a router, by 256 * router + code (R341) -/
  events : SMap Nat := []
  routerEvents : SMap Nat := []
  /- what self-test has found: failing rows as physical core * 1024 + array * 512 + row, physical clusters as die * 9 + number (R215, R285) -/
  badRows : List Nat := []
  badClusters : List Nat := []
  /- the order in which units move, oldest first (log entry 2); the core served last -/
  sched : List Choice := []
  turn : Nat := 287
  /- clusters found defective in service whose drain is under way (R286) -/
  defects : List Nat := []
  /- steps taken; values the spec leaves open that have been used -/
  clock : Nat := 0
  freeCtr : Nat := 0
  deriving DecidableEq, Repr

/-- The package after cold start: every field at its value after reset, no core with a task, memory with nothing listed (R377; values the
spec does not state: log entry 5). -/
def State.reset : State := {}

end Sys2Proof.Machine
end

