-- ==== Sys2Proof/Machine/Ops.lean ====
section
/-! DEFINITION. The named operations over registers, storage and memory, and taking a trap and returning from one. -/
namespace Sys2Proof.Machine

/-- What a step answers. -/
abbrev Out := Host.Outcome State Fault Refusal

/-! ## Cores -/

def State.core (s : State) (n : Nat) : Core := SMap.get {} s.cores n
def State.setCore (s : State) (n : Nat) (c : Core) : State := { s with cores := SMap.set s.cores n c }
def State.modCore (s : State) (n : Nat) (f : Core → Core) : State := s.setCore n (f (s.core n))

/-! ## Registers (R93, R94, R163, R164) -/

/-- s0 reads as zero (R93). -/
def Regs.rs (r : Regs) (n : Nat) : Word := if n = 0 then 0 else SMap.get 0 r.s n
/-- p0 reads as true (R93). -/
def Regs.rp (r : Regs) (n : Nat) : Bool := if n = 0 then true else SMap.get false r.p n
def Regs.rq (r : Regs) (n : Nat) : Desc := SMap.get 0 r.q n
def Regs.rv (r : Regs) (n : Nat) : VReg := SMap.get 0 r.v n
/-- w0 reads as all ones (R164). -/
def Regs.rw (r : Regs) (n : Nat) : Mask := if n = 0 then BitVec.allOnes 128 else SMap.get 0 r.w n

/-- A write to s0 is discarded (R94). A write of the whole scalar clears its mark, poisoned data set it (R143). -/
def Regs.writeS (r : Regs) (n : Nat) (v : Word) (poison : Bool) : Regs :=
  if n = 0 then r else { r with s := SMap.put 0 r.s n v, sPoison := SMap.put false r.sPoison n poison }

/-- A write to p0 is discarded (R94). -/
def Regs.writeP (r : Regs) (n : Nat) (b : Bool) : Regs := if n = 0 then r else { r with p := SMap.put false r.p n b }

def Regs.writeQ (r : Regs) (n : Nat) (v : Desc) (poison : Bool) : Regs :=
  { r with q := SMap.put 0 r.q n v, qPoison := SMap.put false r.qPoison n poison }

/-- Word n of a stream register written (R120). -/
def qWord (q : Desc) (n : BitVec 2) : Word := q.extractLsb' (64 * n.toNat) 64
def setQWord (q : Desc) (n : BitVec 2) (v : Word) : Desc :=
  (q &&& ~~~((BitVec.allOnes 64).setWidth 256 <<< (64 * n.toNat))) ||| (v.setWidth 256 <<< (64 * n.toNat))

/-- The bits of w3 that name a bound ring: HND and BND (R192). -/
def Desc.bound (q : Desc) : Bool := q.getLsbD (192 + 54)
def Desc.hnd (q : Desc) : Nat := (q.extractLsb' (192 + 48) 6).toNat
def clearBind (q : Desc) : Desc := q &&& ~~~((0x7F#256) <<< (192 + 48))

/-- The bits of a stream register that R192 gives a field; the others read as zero and a write to them is ignored (R5; log entry 28). -/
def descHeld : Desc :=
  BitVec.ofNat 256 (0x1F3F1FFFFFFF + 2 ^ 64 * (0xFFFFF + 2 ^ 32 * 0xFFFFF) + 2 ^ 128 * 0xFFFFFFF + 2 ^ 192 * (0xFFFFFFF + 2 ^ 48 * 0x7F))

/-- A value with HND and BND as the register holds them: only the binding commands change these (R192, R243). -/
def keepBind (old v : Desc) : Desc := (clearBind v ||| (old &&& ((0x7F#256) <<< (192 + 48)))) &&& descHeld

/-- A stream register loaded whole, but for HND and BND (R147, R192). -/
def Regs.loadQ (r : Regs) (n : Nat) (v : Desc) (poison : Bool) : Regs := r.writeQ n (keepBind (r.rq n) v) poison

/-- One word of a stream register written, but for HND and BND (R120, R192); the register's mark stays (R143: no whole write). -/
def Regs.writeQWord (r : Regs) (n : Nat) (wn : BitVec 2) (v : Word) : Regs :=
  { r with q := SMap.put 0 r.q n (keepBind (r.rq n) (setQWord (r.rq n) wn v)) }

/-- A write to w0 has no encoding; w0 keeps reading all ones (R164). -/
def Regs.writeW (r : Regs) (n : Nat) (v : Mask) : Regs := if n = 0 then r else { r with w := SMap.put 0 r.w n v }

/-- The bits of lane group g (R163). -/
def laneMask (g : Nat) : VReg := BitVec.ofNat 1024 ((2 ^ 256 - 1) * 2 ^ (256 * g))

/-- The lane groups a bit mask covers whole. -/
def wholeLanes (mask : VReg) : BitVec 4 :=
  let one := fun g => mask &&& laneMask g == laneMask g
  bit (one 3) ++ bit (one 2) ++ bit (one 1) ++ bit (one 0)

/-- The bits under `mask` are written; a whole lane group written clears its mark, poisoned lane groups are marked (R167). -/
def Regs.writeV (r : Regs) (n : Nat) (mask val : VReg) (poison : BitVec 4) : Regs :=
  { r with
    v := SMap.put 0 r.v n ((r.rv n &&& ~~~mask) ||| (val &&& mask))
    vPoison := SMap.put 0 r.vPoison n ((SMap.get 0 r.vPoison n &&& ~~~(wholeLanes mask)) ||| poison) }

/-! ## Special registers (R85, R95, R101) -/

def Acc.countsOCL (a : Acc) : Bool :=
  match a.op with
  | .load _ | .aop .. | .cas .. | .tlbp _ => true
  | _ => false

def Acc.countsOCS (a : Acc) : Bool :=
  match a.op with
  | .store .. | .finc _ | .post _ | .arrive => true
  | _ => false

/-- The counters of R101: what is outstanding. -/
def Core.ocl (c : Core) : Nat := (c.accs.filter Acc.countsOCL).length
def Core.ocs (c : Core) : Nat := (c.accs.filter Acc.countsOCS).length
/-- A reduction that has had all its results and given up its buffer: only its witness is still to come (R406). -/
def Cmd.reduced (m : Cmd) : Bool :=
  match m.i, m.st with
  | .eColl h .., .fabric _ => !m.taken.contains h.toNat
  | _, _ => false
def Core.occ (c : Core) : Nat := (c.cmds.filter fun m => !m.old && !m.reduced).length
def Core.oct (c : Core) : Nat :=
  (c.passes.filter Pass.lead).length + c.arr0.ldw.toList.length + c.arr1.ldw.toList.length + c.arr0.st.toList.length +
    c.arr1.st.toList.length + c.wit.toList.length

/-- The value a.mfs reads (R119): reserved bits as zero. -/
def Core.readSpr (c : Core) (n : Nat) : Word :=
  match n with
  | 0 => c.spr.tx.setWidth 64
  | 1 => c.spr.ty.setWidth 64
  | 2 => c.spr.lid.setWidth 64
  | 16 => c.spr.cause
  | 17 => c.spr.xcause
  | 18 => c.spr.faddr
  | 19 => c.spr.epc
  | 20 => c.spr.tvec
  | 21 => c.spr.tstack
  | 22 => c.spr.pidx
  | 23 => c.spr.cyc
  | 24 => c.spr.stall
  | 25 => (bit c.handler ++ 0#4 ++ c.spr.world).setWidth 64
  | 26 => c.spr.wref
  | 28 => BitVec.ofNat 64 c.ocl
  | 29 => BitVec.ofNat 64 c.ocs
  | 30 => BitVec.ofNat 64 c.occ
  | 31 => BitVec.ofNat 64 c.oct
  | n => if 8 ≤ n ∧ n ≤ 15 then SMap.get 0 c.spr.mb (n - 8) else 0

/-- The registers of kind rw: CAUSE to PIDX (R95). -/
def sprWritable (n : Nat) : Bool := 16 ≤ n && n ≤ 22

/-- A write of a.mts: reserved bits ignored, bits 5:0 of TVEC and TSTACK zero (R95, R119). -/
def Sprs.write (r : Sprs) (n : Nat) (v : Word) : Sprs :=
  match n with
  | 16 => { r with cause := v &&& 0xFFFF0FFF#64 }
  | 17 => { r with xcause := v &&& 0xFFFF0FFF#64 }
  | 18 => { r with faddr := v }
  | 19 => { r with epc := v &&& 0x7FFFF#64 }
  | 20 => { r with tvec := v &&& 0x3FFC0#64 }
  | 21 => { r with tstack := v &&& ~~~0x3F#64 }
  | 22 => { r with pidx := v }
  | _ => r

/-! ## Delivering results (R86, R96) -/

/-- A result is written to its register. -/
def Core.deliver (c : Core) (w : RegWrite) : Core :=
  match w with
  | .s n v po => { c with regs := c.regs.writeS n v po }
  | .p n b => { c with regs := c.regs.writeP n b }
  | .q n v po => { c with regs := c.regs.loadQ n v po }
  | .qw n wn v => { c with regs := c.regs.writeQWord n wn v }
  | .v n mask val _ po => { c with regs := c.regs.writeV n mask val po }
  | .w n v => { c with regs := c.regs.writeW n v }
  | .spr n v => { c with spr := c.spr.write n v }
  | .tab ts nf modes n se x0 nodes =>
    let t : FTable := ⟨nf, modes, n, se, x0, nodes⟩
    if ts then { c with ftab1 := some t } else { c with ftab0 := some t }

/-- The results of a list that reach position 0, in order, written. -/
def Core.deliverAll (c : Core) : List Pend → Core
  | [] => c
  | p :: l => (c.deliver p.w).deliverAll l

/-- A tile and its poison marks take the image of a pass (R202, R208). -/
def Core.commitPass (c : Core) (p : Pass) : Core :=
  let rows := List.range 16
  { c with
    tiles := rows.foldl (fun m r => SMap.put 0 m (16 * p.tile + r) (SMap.get 0 p.rows r)) c.tiles
    tilePoison := rows.foldl (fun m r => SMap.put 0 m (16 * p.tile + r) (SMap.get 0 p.poison r)) c.tilePoison }

def Core.commitPasses (c : Core) : List Pass → Core
  | [] => c
  | p :: l => (c.commitPass p).commitPasses l

/-- The occupancy of an array one group of a mode later. -/
def Occ.dec (o : Occ) : Occ := { o with left := o.left - 1 }
def Arr.dec (a : Arr) (h : Bool) : Arr := if h then { a with occH := a.occH.dec } else { a with occT := a.occT.dec }

/-- Every pending result and pass of mode h is one group nearer, and so is the end of that mode's occupancy of the arrays (R86, R96). -/
def Core.tickResults (c : Core) (h : Bool) : Core :=
  { c with
    pend := c.pend.map fun p => if p.handler = h then { p with delay := p.delay - 1 } else p
    passes := c.passes.map fun p => if p.handler = h then { p with delay := p.delay - 1 } else p
    arr0 := c.arr0.dec h, arr1 := c.arr1.dec h }

/-- A result of mode h whose position is reached. -/
def Pend.due (p : Pend) (h : Bool) : Bool := p.handler == h && p.delay == 0
def Pass.due (p : Pass) (h : Bool) : Bool := p.handler == h && p.delay == 0

/-- A result that loads slot ts of the special-function unit (R188). -/
def Pend.loadsTable (p : Pend) (ts : Bool) : Bool :=
  match p.w with
  | .tab t .. => t == ts
  | _ => false

/-- The results of mode h that are due and that `sel` selects are delivered. -/
def Core.deliverSel (c : Core) (h : Bool) (sel : Pend → Bool) : Core :=
  ({ c with pend := c.pend.filter fun p => !(p.due h && sel p) }).deliverAll (c.pend.filter fun p => p.due h && sel p)

/-- PENDING_RESULT_DELIVERY (R86): register results that are due are written. -/
def Core.deliverResults (c : Core) (h : Bool) : Core :=
  c.deliverSel h fun p => !p.loadsTable false && !p.loadsTable true

/-- F_TABLE_LOAD_COMPLETE (R188): the table slot takes its new contents. -/
def Core.deliverTable (c : Core) (h ts : Bool) : Core := c.deliverSel h fun p => p.loadsTable ts

/-- X_PASS_COMMIT (R202, R208): a tile takes the image of a pass that is due. -/
def Core.commitTile (c : Core) (h : Bool) (t : Nat) : Core :=
  ({ c with passes := c.passes.filter fun p => !(p.due h && p.tile == t) }).commitPasses
    (c.passes.filter fun p => p.due h && p.tile == t)

/-- A group of mode h commits: every result moves one group nearer, and those that reach their position are delivered (R86, R96). -/
def Core.advance (c : Core) (h : Bool) : Core :=
  let c := (((c.tickResults h).deliverResults h).deliverTable h false).deliverTable h true
  (List.range 8).foldl (fun c t => c.commitTile h t) c

/-- A result of latency n is put on its way (R86); it is there n cycles on at the earliest (R97). -/
def Core.push (c : Core) (n : Nat) (w : RegWrite) : Core := { c with pend := c.pend ++ [⟨c.handler, n, w, c.tick + n⟩] }

/-! ## Bytes -/

/-- The bytes of a row from its low end. -/
def rowByte (r : Row) (i : Nat) : Byte := r.extractLsb' (8 * i) 8

/-- The number little-endian bytes stand for (R4). -/
def leNat : List Byte → Nat
  | [] => 0
  | b :: l => b.toNat + 256 * leNat l

/-- n little-endian bytes of a number. -/
def leBytes : Nat → Nat → List Byte
  | 0, _ => []
  | n + 1, x => BitVec.ofNat 8 x :: leBytes n (x / 256)

def rowOf (l : List Byte) : Row := BitVec.ofNat 512 (leNat l)
def bytesOf (r : Row) : List Byte := leBytes 64 r.toNat

/-- Byte o of a table of 64-byte lines. -/
def lineByte (m : SMap Row) (o : Nat) : Byte := rowByte (SMap.get 0 m (o / 64)) (o % 64)

/-- n bytes of a table of lines from offset o, as a number. -/
def lineNat (m : SMap Row) (o : Nat) : Nat → Nat
  | 0 => 0
  | n + 1 => (lineByte m o).toNat + 256 * lineNat m (o + 1) n

/-- A table of lines with one byte written. -/
def putLineByte (m : SMap Row) (o : Nat) (b : Byte) : SMap Row :=
  let sh := 8 * (o % 64)
  let r := SMap.get 0 m (o / 64)
  SMap.put 0 m (o / 64) ((r &&& ~~~((0xFF#512) <<< sh)) ||| ((b.setWidth 512) <<< sh))

/-- A table of lines with bytes written from offset o. -/
def putLineBytes (m : SMap Row) (o : Nat) : List Byte → SMap Row
  | [] => m
  | b :: l => putLineBytes (putLineByte m o b) (o + 1) l

/-! ## Global memory: HBM and host memory by storage address (R289, R290) -/

/-- What a byte nothing has written reads as: zero (R301; host memory by log entry 6). -/
def emptyByte : Byte := 0

/-- A memory in canonical form. -/
abbrev Memory.wf (m : List Host.Cell) : Prop := SMap.wf emptyByte m = true

/-- The byte at a storage address. -/
def State.byte (s : State) (a : Nat) : Byte := SMap.get emptyByte s.mem a

def State.putByte (s : State) (a : Nat) (b : Byte) : State := { s with mem := SMap.put emptyByte s.mem a b }

/-- n bytes from a storage address, little-endian. -/
def State.loadNat (s : State) (a : Nat) : Nat → Nat
  | 0 => 0
  | n + 1 => (s.byte a).toNat + 256 * s.loadNat (a + 1) n

/-- n bytes of a number stored from a storage address, little-endian. -/
def State.storeNat (s : State) (a : Nat) : Nat → Nat → State
  | 0, _ => s
  | n + 1, x => (s.putByte a (BitVec.ofNat 8 x)).storeNat (a + 1) n (x / 256)

def State.loadBytes (s : State) (a : Nat) : Nat → List Byte
  | 0 => []
  | n + 1 => s.byte a :: s.loadBytes (a + 1) n

def State.storeBytes (s : State) (a : Nat) : List Byte → State
  | [] => s
  | b :: l => (s.putByte a b).storeBytes (a + 1) l

/-! ## The event queue (R365) -/

/-- An event entry is written into the ring; when it holds 4,096 entries not read the oldest is overwritten (R365). -/
def State.postEvent (s : State) (code : Nat) : State :=
  let h := s.sec.evHead
  let next := (h + 1) % 4096
  let tail := if s.sec.evFull then next else s.sec.evTail
  { s with sec := { s.sec with
      evRing := SMap.put 0 s.sec.evRing h (BitVec.ofNat 128 code), evHead := next, evTail := tail, evFull := next == tail
      evLost := s.sec.evLost || s.sec.evFull } }

/-! ## The scratchpad (R122 to R125, R218) -/

/-- Whether a scratchpad offset lies in the partition (R125). -/
def Core.inPart (c : Core) (o : Nat) : Bool := o < c.banks * 4096

/-- The least offset of a list of (offset, length) that lies outside the banks the task owns (R115, R125, R209). -/
def Core.spFail (c : Core) (ranges : List (Nat × Nat)) : Option Nat :=
  ranges.foldl (fun acc r =>
    if r.2 = 0 then acc
    else
      match ((List.range ((r.1 + r.2 - 1) / 4096 - r.1 / 4096 + 1)).map (· + r.1 / 4096)).find? fun b =>
          !(decide (b < c.banks) && SMap.get BankOwner.none c.owner b == .task) with
      | some b => (match acc with | some a => some (min a (max r.1 (b * 4096))) | none => some (max r.1 (b * 4096)))
      | none => acc) none

/-- Whether the running task owns the bank of an offset (R115). -/
def Core.owns (c : Core) (o : Nat) : Bool := c.inPart o && SMap.get BankOwner.none c.owner (o / 4096) == .task

def Core.row (c : Core) (r : Nat) : Row := SMap.get 0 c.sp r
def Core.rowPoison (c : Core) (r : Nat) : Bool := SMap.get false c.spPoison r

/-- A row written whole: its mark becomes `poison` (R123). -/
def Core.putRow (c : Core) (r : Nat) (v : Row) (poison : Bool) : Core :=
  { c with sp := SMap.put 0 c.sp r v, spPoison := SMap.put false c.spPoison r poison }

/-- Whether a row lies in the buffer of a handle (R237). -/
def Handle.has (h : Handle) (r : Nat) : Bool := h.row0 ≤ r && r < h.row0 + h.rows

/-- One operation has written the given rows: every handle with a row among them clears WB and advances GEN once (R218). -/
def Core.touch (c : Core) (rows : List Nat) : Core :=
  { c with handles := c.handles.map fun e =>
      if rows.any e.2.has then (e.1, { e.2 with wb := false, gen := e.2.gen + 1 }) else e }

/-- The handles whose buffers hold one of the given rows. -/
def Core.holders (c : Core) (rows : List Nat) : List Nat := (c.handles.filter fun e => rows.any e.2.has).map Prod.fst

/-- More rows of an operation that has advanced the generations of the handles `done` already (R218). -/
def Core.touchMore (c : Core) (rows done : List Nat) : Core :=
  { c with handles := c.handles.map fun e =>
      if rows.any e.2.has then (e.1, { e.2 with wb := false, gen := if done.contains e.1 then e.2.gen else e.2.gen + 1 }) else e }

/-- Rows written by one operation, without the handles' marks. -/
def Core.putRows (c : Core) : List RowWrite → Core
  | [] => c
  | w :: l => (c.putRow w.row w.val w.poison).putRows l

/-- Rows written by one operation (R218). -/
def Core.writeRows (c : Core) (ws : List RowWrite) : Core := (c.putRows ws).touch (ws.map RowWrite.row)

/-- A row of an operation that has advanced the generations of the handles `done` already. -/
def Core.writeMore (c : Core) (w : RowWrite) (done : List Nat) : Core := (c.putRow w.row w.val w.poison).touchMore [w.row] done

/-- Bytes written within one row: a whole row takes the mark `poison`, part of one only gains it (R123). -/
def Core.putSpan (c : Core) (w : SpanWrite) : Core :=
  let r := w.off / 64
  let old := bytesOf (c.row r)
  let k := w.off % 64
  let new := rowOf (old.take k ++ w.bytes ++ old.drop (k + w.bytes.length))
  c.putRow r new (w.poison || (w.bytes.length != 64 && c.rowPoison r))

def Core.putSpans (c : Core) : List SpanWrite → Core
  | [] => c
  | w :: l => (c.putSpan w).putSpans l

/-- Bytes written by one operation (R218). -/
def Core.writeSpans (c : Core) (ws : List SpanWrite) : Core := (c.putSpans ws).touch (ws.map fun w => w.off / 64)

/-- Bytes from an offset, cut at the rows they cross; at most `fuel` rows. -/
def spansFrom (off : Nat) (poison : Bool) (bytes : List Byte) : Nat → List SpanWrite
  | 0 => []
  | fuel + 1 =>
    if bytes.isEmpty then []
    else
      let k := 64 - off % 64
      ⟨off, bytes.take k, poison⟩ :: spansFrom (off + k) poison (bytes.drop k) fuel

def Core.handle (c : Core) (h : Nat) : Handle := SMap.get {} c.handles h
def Core.setHandle (c : Core) (h : Nat) (x : Handle) : Core := { c with handles := SMap.set c.handles h x }

/-- n bytes of the scratchpad from offset o, as a number. -/
def Core.spNat (c : Core) (o n : Nat) : Nat := lineNat c.sp o n

/-- The rows the bytes o to o + n − 1 touch. -/
def rowsOf (o n : Nat) : List Nat := if n = 0 then [] else (List.range ((o + n - 1) / 64 - o / 64 + 1)).map (· + o / 64)

/-- Whether an operation of a core that takes until the given tick may complete: its time has run, or its task has ended (R111). A stopped
core holds its operations (R213, R236). -/
def Core.opDue (c : Core) (due : Nat) : Bool := due ≤ c.tick || c.run == .ended || c.run == .idle

/-- Bytes written as whole rows from a row on, the rest of the last row zero (R216); `poison` by row counted from 0. -/
def rowWrites (row0 : Nat) (bytes : List Byte) (poison : Nat → Bool) : List RowWrite :=
  (List.range ((bytes.length + 63) / 64)).map fun k => ⟨row0 + k, rowOf ((bytes.drop (64 * k)).take 64), poison k⟩

/-! ## Traps (R95, R264 to R267) -/

/-- The bytes of the weight store of a die; whether one of its 64-bit words that holds some of them is poisoned (R134, R305). -/
def State.wsNat (s : State) (die o n : Nat) : Nat := lineNat s.ws (die * 2 ^ 28 + o) n
def State.wsPoisoned (s : State) (die o n : Nat) : Bool :=
  n != 0 && (List.range ((o + n - 1) / 8 - o / 8 + 1)).any fun k => SMap.get false s.wsPoison (die * 2 ^ 25 + o / 8 + k)

/-- Cause codes of R263. -/
def cILLEGAL := 0x01
def cSCHED := 0x02
def cMISALIGN := 0x03
def cXLATE := 0x04
def cWPROT := 0x05
def cWORLD := 0x06
def cPOISON := 0x07
def cSCRIBE := 0x08
def cWITNESS := 0x09
def cSYNCOVF := 0x0A
def cBANK := 0x0B
def cHANDLE := 0x0C
def cSTREAM := 0x0D
def cBREAK := 0x0E
def cTRAPI := 0x0F
def cNESTED := 0x10
def cPRIV := 0x11
def cHALT := 0x12
def cPREEMPT := 0x13

/-- The layout of CAUSE and XCAUSE (R95): code, class of the failing word, second bundle, imm16. -/
def causeWord (cause cls : Nat) (second : Bool) (code : Nat) : Word :=
  BitVec.ofNat 64 (cause + 256 * cls + (if second then 2048 else 0) + 65536 * code)

/-- The serial number of the launch a core belongs to (R95). -/
def Core.lid (c : Core) : Nat := c.spr.lid.toNat % 2 ^ 32

def State.launch (s : State) (lid : Nat) : Option Launch := SMap.get none s.launches lid

def State.setLaunch (s : State) (l : Launch) : State := { s with launches := SMap.set s.launches l.lid (some l) }

/-- A change of a launch that exists. -/
def State.modLaunch (s : State) (lid : Nat) (f : Launch → Launch) : State :=
  match s.launch lid with
  | some l => { s with launches := SMap.set s.launches lid (some (f l)) }
  | none => s

/-- The launch's halt line rises (R267). -/
def State.raiseLine (s : State) (lid : Nat) : State := s.modLaunch lid fun l => { l with line := true }

/-- A launch ends early with END and CODE (R344); the first end stands. -/
def State.failLaunch (s : State) (lid endc code : Nat) : State :=
  s.modLaunch lid fun l => if l.finished then l else { l with finished := true, endc := endc, code := code }

/-- Whether a core serves a launch. -/
def Core.serves (c : Core) (lid : Nat) : Bool := c.run != .idle && c.lid == lid

/-- A context save whose image is on its way to its area: its target stays as it is meanwhile (R273). -/
def Cmd.saves (m : Cmd) : Bool :=
  match m.i, m.st with
  | .eCtxSave .., .posting _ | .eCtxSave .., .placed => !m.old
  | _, _ => false

/-- Whether a core keeps its launch's halt line up: it is in handler mode, has stopped and not written its record, or has a save under way
(R267, R268, R273). -/
def Core.holdsLine (c : Core) : Bool := c.handler || (c.run == .stopped && c.stopCause != 0) || c.cmds.any Cmd.saves

/-- The halt line falls once no core of the launch is in handler mode, every stop has its record and no debugger holds the line; every core
and program it stopped runs again (R267, R268, R373, R413). -/
def State.lowerLine (s : State) (lid : Nat) : State :=
  match s.launch lid with
  | some l =>
    if l.dbg || l.preempted || l.finished || l.defect.isSome || s.cores.any fun e => e.2.serves lid && e.2.holdsLine then s
    else
      { s with
        launches := SMap.set s.launches lid (some { l with line := false, engRec := [] })
        cores := s.cores.map fun e => if e.2.serves lid && e.2.run == .stopped then (e.1, { e.2 with run := .running }) else e
        martens := s.martens.map fun e =>
          if e.2.lid == lid && e.2.run == .stopped then (e.1, { e.2 with run := .running }) else e }
  | none => s

/-- The tile a core runs, as TY * w + TX (R345). -/
def Core.tile (c : Core) (w : Nat) : Nat := c.spr.ty.toNat * w + c.spr.tx.toNat

/-- The launch-relative cluster a core of a launch belongs to. -/
def Core.relCluster (c : Core) (w : Nat) : Nat := c.spr.tx.toNat / 4 + w / 4 * (c.spr.ty.toNat / 2)

/-- The cause and the state with which the raised line of its launch stops a core (R267, R270, R373). -/
def Launch.stopOf (l : Launch) (c : Core) : Nat × RunState :=
  if l.leaving.contains (32 * c.run_ + c.relCluster l.w) then (cPREEMPT, .preempted) else (if l.dbg then cBREAK else cHALT, .stopped)

/-- A core that has returned from handler mode while the line stays up stops at its first task group (R267). -/
def State.haltAtReturn (s : State) (n : Nat) : State :=
  let c := s.core n
  match s.launch c.lid with
  | some l =>
    if l.line && c.run == .running then s.setCore n { c with run := (l.stopOf c).2, stopCause := (l.stopOf c).1 } else s
  | none => s

/-- A task has executed c.end: in handler mode the launch ends with that handler's cause, else the launch ends when every task of every
run has (R111, R267, R287, R356). -/
def State.taskEnded (s : State) (n : Nat) (handler : Bool) : State :=
  let c := s.core n
  if handler then s.failLaunch c.lid 1 (c.spr.cause.extractLsb' 0 8).toNat
  else s.modLaunch c.lid fun l =>
    let ended := l.ended ++ [256 * c.run_ + c.tile l.w]
    { l with ended := ended, finished := l.finished || ended.length == l.w * l.h * l.clusters.length }

/-- Taking a trap (R265, R266): in task mode CAUSE, FADDR and EPC are written, the results of task mode stay pending in the replay
registers (they no longer advance, R96, R97), the monitor and the handler's loop stack are cleared, the launch's halt line rises,
and fetch goes to the line TVEC in handler mode. In handler mode the fault is never taken into the handler: XCAUSE receives the
cause, the core stops with NESTED and the launch ends. -/
def State.takeTrap (s : State) (n cause cls : Nat) (second : Bool) (code : Nat) (faddr : Word) (epc : Nat) : State :=
  let c := s.core n
  if c.handler then
    ((s.setCore n { c with
      run := .nested, walkFault := none, recs := [], stopCause := cNESTED, faddr2 := faddr, hoff := epc
      spr := { c.spr with xcause := causeWord cause cls second code } }).raiseLine c.lid).failLaunch c.lid 2
      (c.spr.cause.extractLsb' 0 8).toNat
  else
    (s.setCore n { c with
      handler := true, monitor := none, hloops := [], walkFault := none, recs := [], fwait := 0, pc := c.spr.tvec.toNat
      spr := { c.spr with cause := causeWord cause cls second code, faddr := faddr, epc := BitVec.ofNat 64 epc } }).raiseLine
      c.lid

/-- The debug level of a world: 0 off, 1 trace, 2 invasive (R372, R374). -/
def State.debugLevel (s : State) (world : Nat) : Nat :=
  if world = 0 then s.sec.conf.ceiling else (SMap.get {} s.sec.worlds world).token

/-- A c.brk with invasive debug enabled halts to the debugger, in either mode (R109, R266, R373). -/
def State.debugBreak (s : State) (n code : Nat) : State :=
  let c := s.core n
  (s.setCore n { c with run := .debug, stopCause := cBREAK + 65536 * code, gated := false, fwait := 0 }).modLaunch c.lid fun l =>
    { l with line := true, dbg := true }

/-- The first of the causes held pending is taken at a task group boundary (R264). -/
def State.takeAsync (s : State) (n : Nat) : State :=
  let c := s.core n
  match c.async with
  | [] => s
  | a :: l => (s.setCore n { c with async := l }).takeTrap n a.cause a.cls false 0 a.faddr c.pc

/-- The engine commands abandoned at a fault are in their queues again (R255). -/
def Core.replayCmds (c : Core) : Core :=
  { c with cmds := c.cmds.map fun m => if m.st = .abandoned then { m with st := .queued, got := [], gotPoison := [] } else m }

/-- The return from handler mode (R97, R110): every result of handler mode is written, then task mode resumes at the byte offset EPC, as
it stood when c.tret issued, with its own pending results. -/
def Core.returnFromTrap (c : Core) (epc : Nat) : Core :=
  let c := (({ c with
    pend := c.pend.filter fun p => !p.handler
    passes := c.passes.filter fun p => !p.handler }).deliverAll (c.pend.filter Pend.handler)).commitPasses
      (c.passes.filter Pass.handler)
  (({ c with
      handler := false, hloops := [], pc := epc
      arr0 := { c.arr0 with occH := {} }, arr1 := { c.arr1 with occH := {} } }).deliverResults false).replayCmds

end Sys2Proof.Machine
end

