-- ==== Sys2Proof/Machine/Operands.lean ====
section
/-! DEFINITION. Operand forms: guards, the registers an instruction reads and writes, the lane groups a V slot occupies, the elements of
a range, effective addresses (R74 to R78, R84, R163, R164, R185). -/
namespace Sys2Proof.Machine

/-- The guard of a C, A, L or F instruction; V, X and E words carry none (R76). -/
def guardOf : Instr → Option Guard
  | .cNop g | .cTret g | .cEnd g => some g
  | .cBr g _ | .cJmp g _ | .cRet g _ | .cBrk g _ | .cTrap g _ | .cWaitl g _ | .cScheck g _ | .cFdis g _ | .cBarr g _
  | .cBwait g _ | .cLaunch g _ | .cScrub g _ => some g
  | .cCall g _ _ | .cLoop g _ _ | .cWaith g _ _ | .cWaitt g _ _ | .cRelb g _ _ | .cAcqb g _ _ | .cFinc g _ _ | .cFwait g _ _
  | .cBpost g _ _ | .cTlbi g _ _ => some g
  | .cFarm g _ _ _ => some g
  | .cWait g _ _ _ _ => some g
  | .aAdd g _ _ _ | .aSub g _ _ _ | .aAnd g _ _ _ | .aOr g _ _ _ | .aXor g _ _ _ | .aShl g _ _ _ | .aShr g _ _ _
  | .aSar g _ _ _ | .aMul g _ _ _ | .aPand g _ _ _ | .aPor g _ _ _ | .aPxor g _ _ _ => some g
  | .aMulh g _ _ _ _ | .aMin g _ _ _ _ | .aMax g _ _ _ _ | .aCmp g _ _ _ _ | .aSel g _ _ _ _ => some g
  | .aAddi g _ _ _ | .aAndi g _ _ _ | .aOri g _ _ _ | .aXori g _ _ _ | .aShli g _ _ _ | .aShri g _ _ _ => some g
  | .aQset g _ _ _ | .aQget g _ _ _ => some g
  | .aClz g _ _ | .aPop g _ _ | .aLi g _ _ | .aLih g _ _ | .aMov g _ _ | .aMfs g _ _ | .aMts g _ _ | .aPnot g _ _
  | .aHq g _ _ => some g
  | .lLd g _ _ _ _ | .lSt g _ _ _ _ | .lLdq g _ _ _ _ => some g
  | .lStq g _ _ _ => some g
  | .lLdg g _ _ _ _ _ | .lStg g _ _ _ _ _ | .lLdx g _ _ _ _ _ | .lStx g _ _ _ _ _ => some g
  | .lLdgv g _ _ _ _ _ _ | .lStgv g _ _ _ _ _ _ => some g
  | .lAop g _ _ _ _ _ _ _ => some g
  | .lCas g _ _ _ _ _ | .lSaop g _ _ _ _ _ => some g
  | .lFence g _ _ => some g
  | .lDrain g _ | .lCwb g _ | .lCinv g _ | .lCzero g _ => some g
  | .lPf g _ _ _ _ => some g
  | .lTlbp g _ _ => some g
  | .fTsel g _ _ => some g
  | .fEval g _ _ _ _ _ => some g
  | .fRcp g _ _ _ _ | .fRsq g _ _ _ _ | .fExp2 g _ _ _ _ | .fLog2 g _ _ _ _ => some g
  | _ => none

/-- Whether a slot executes: G[2:0] selects the predicate, G[3] inverts it (R76). -/
def Core.guardTrue (c : Core) : Option Guard → Bool
  | none => true
  | some g => c.regs.rp (g.extractLsb' 0 3).toNat != g.getLsbD 3

/-! ## Registers read and written -/

/-- A register as R75 and R87 count it; a vector register by its lane groups. -/
inductive Res
  | s (n : Nat)
  | p (n : Nat)
  | q (n : Nat)
  | v (n : Nat) (lanes : BitVec 4)
  | w (n : Nat)
  | tab (ts : Bool)
  deriving DecidableEq, Repr

/-- Whether two destinations conflict. -/
def Res.meets : Res → Res → Bool
  | .v a l, .v b m => a == b && (l &&& m != 0#4)
  | x, y => x == y

/-- Scalar and predicate destinations; s0 and p0 are none (R94). -/
def sDest (d : Reg) : List Res := if d.toNat = 0 then [] else [.s d.toNat]
def pDest (d : BitVec 3) : List Res := if d.toNat = 0 then [] else [.p d.toNat]

/-- The lane groups L to L + 2^W − 1 (R78, R163). -/
def VRange.lanes (r : VRange) : BitVec 4 :=
  BitVec.ofNat 4 ((2 ^ (2 ^ r.w.toNat) - 1) * 2 ^ r.l.toNat)

/-- The lane groups of RG (R185). -/
def rgRange (rg : BitVec 3) : VRange :=
  match rg.toNat with
  | 4 => ⟨1, 0, 0⟩
  | 5 => ⟨1, 2, 0⟩
  | 6 => ⟨2, 0, 0⟩
  | n => ⟨0, BitVec.ofNat 2 n, 0⟩

/-- The lane groups of a row access (R146). -/
def RowSel.lanes : RowSel → BitVec 4
  | .lo => 0b0011
  | .hi => 0b1100
  | .pair => 0b1111

/-- The lane groups of an l.ldgv or l.stgv (R148). -/
def halfLanes (hi : Bool) : BitVec 4 := if hi then 0b1100 else 0b0011

/-- Lane groups that hold the first `bits` bits of a range. -/
def lowLanes (r : VRange) (bits : Nat) : BitVec 4 :=
  BitVec.ofNat 4 ((2 ^ ((bits + 255) / 256) - 1) * 2 ^ r.l.toNat)

/-- Bits of a range (R163). -/
def VRange.bits (r : VRange) : Nat := 256 * 2 ^ r.w.toNat

/-- The destination register numbers an instruction writes (R75, R87); a bind writes HND and BND of its stream register (R243). -/
def writesOf : Instr → List Res
  | .cCall _ d _ => sDest d
  | .aAdd _ d _ _ | .aSub _ d _ _ | .aAnd _ d _ _ | .aOr _ d _ _ | .aXor _ d _ _ | .aShl _ d _ _ | .aShr _ d _ _
  | .aSar _ d _ _ | .aMul _ d _ _ => sDest d
  | .aMulh _ d _ _ _ | .aMin _ d _ _ _ | .aMax _ d _ _ _ | .aSel _ d _ _ _ => sDest d
  | .aCmp _ _ p _ _ => pDest p
  | .aAddi _ d _ _ | .aAndi _ d _ _ | .aOri _ d _ _ | .aXori _ d _ _ | .aShli _ d _ _ | .aShri _ d _ _ => sDest d
  | .aQget _ d _ _ => sDest d
  | .aClz _ d _ | .aPop _ d _ | .aLi _ d _ | .aLih _ d _ | .aMov _ d _ | .aMfs _ d _ | .aHq _ d _ => sDest d
  | .aPand _ d _ _ | .aPor _ d _ _ | .aPxor _ d _ _ => pDest d
  | .aPnot _ d _ => pDest d
  | .aQset _ q _ _ => [.q q.toNat]
  | .lLd _ sel d _ _ => [.v d.toNat (RowSel.lanes sel)]
  | .lLdq _ _ q _ _ => [.q q.toNat]
  | .lLdg _ _ _ d _ _ => sDest d
  | .lLdgv _ q16 hi _ d _ _ => [.v d.toNat (if q16 then (if hi then 0b0100 else 0b0001) else halfLanes hi)]
  | .lLdx _ sel _ d _ _ => [.v d.toNat (RowSel.lanes sel)]
  | .lAop _ _ _ _ _ d _ _ => sDest d
  | .lCas _ sz _ d _ _ => if sz = .q16 then sDest d ++ [.s (d.toNat + 1)] else sDest d
  | .lSaop _ _ _ d _ _ => [.v d.toNat 0b0011]
  | .lTlbp _ d _ => sDest d
  | .vAdd _ d _ _ r | .vSub _ d _ _ r | .vMul _ d _ _ r | .vFma _ d _ _ r | .vMin _ d _ _ r | .vMax _ d _ _ r
  | .vSadd _ d _ _ r | .vAnd _ d _ _ r | .vOr _ d _ _ r | .vXor _ d _ _ r | .vShl _ d _ _ r | .vShr _ d _ _ r
  | .vSar _ d _ _ r | .vSel _ d _ _ r | .vPerm _ d _ _ r | .vRot _ d _ _ r | .vRmg _ d _ _ r | .vIns _ d _ _ r =>
    [.v d.toNat (VRange.lanes r)]
  | .vAbs _ d _ r | .vNeg _ d _ r | .vBc _ d _ r | .vIota _ d _ r | .vMovVv _ d _ r => [.v d.toNat (VRange.lanes r)]
  | .vCmp _ _ wd _ _ _ => [.w wd.toNat]
  | .vCvt _ _ _ d _ w l => [.v d.toNat (VRange.lanes ⟨w, l, 0⟩)]
  | .vScl _ _ _ d _ r => [.v d.toNat (VRange.lanes r)]
  | .vPack _ _ _ d _ r | .vUnpk _ _ _ d _ r => [.v d.toNat (VRange.lanes r)]
  | .vRed _ _ d _ r => [.v d.toNat (VRange.lanes r)]
  | .vRedx _ _ d _ r => [.v d.toNat (VRange.lanes r)]
  | .vExt _ d _ _ _ _ => sDest d
  | .vMovVw wd _ => [.w wd.toNat]
  | .vMovWv d _ => [.v d.toNat 0b0001]
  | .vWmax _ d _ _ | .vWmin _ d _ _ | .vWclamp _ d _ _ | .vWmed _ d _ _ | .vWsum _ d _ _ | .vWtopk _ d _ _ => sDest d
  | .fTsel _ ts _ => [.tab ts]
  | .eCbp _ (.bind q) | .eCbc _ (.bind q) => [.q q.toNat]
  | .fEval _ _ rg _ d _ => [.v d.toNat (VRange.lanes (rgRange rg))]
  | .fRcp _ _ rg d _ | .fRsq _ _ rg d _ | .fExp2 _ _ rg d _ | .fLog2 _ _ rg d _ => [.v d.toNat (VRange.lanes (rgRange rg))]
  | .xRd _ _ _ vx => [.v vx.toNat 0b1111]
  | _ => []

/-- A vector source over a range, and vD where a merge under a mask other than w0 reads it (R167). -/
def vSrc (n : Reg) (r : VRange) : List Res := [.v n.toNat (VRange.lanes r)]
def vMerge (d : Reg) (r : VRange) : List Res := if r.m = 0 then [] else vSrc d r
def sSrc (n : Reg) : List Res := [.s n.toNat]

/-- Lane groups of the scale bytes of a pack (R176): at most eight bytes, in the first lane group of the range. -/
def scaleLanes (r : VRange) : BitVec 4 := BitVec.ofNat 4 (2 ^ r.l.toNat)

/-- The registers an instruction reads (R98, R143, R167); of a source, the lane groups whose bits can reach the result (log entry 80). -/
def readsOf : Instr → List Res
  | .cJmp _ a | .cRet _ a | .cWaitl _ a | .cFdis _ a | .cBarr _ a | .cBwait _ a | .cLaunch _ a => sSrc a
  | .cLoop _ (.sreg a) _ => sSrc a
  | .cWaitt _ a _ => sSrc a
  | .cTlbi _ a _ => sSrc a
  | .cRelb _ a b | .cAcqb _ a b | .cFinc _ a b | .cFwait _ a b | .cBpost _ a b => sSrc a ++ sSrc b
  | .cFarm _ a b _ => sSrc a ++ sSrc b
  | .aAdd _ _ a b | .aSub _ _ a b | .aAnd _ _ a b | .aOr _ _ a b | .aXor _ _ a b | .aShl _ _ a b | .aShr _ _ a b
  | .aSar _ _ a b | .aMul _ _ a b => sSrc a ++ sSrc b
  | .aMulh _ _ a b _ | .aMin _ _ a b _ | .aMax _ _ a b _ | .aSel _ _ a b _ => sSrc a ++ sSrc b
  | .aCmp _ _ _ a b => sSrc a ++ sSrc b
  | .aAddi _ _ a _ | .aAndi _ _ a _ | .aOri _ _ a _ | .aXori _ _ a _ | .aShli _ _ a _ | .aShri _ _ a _ => sSrc a
  | .aClz _ _ a | .aPop _ _ a | .aMov _ _ a | .aMts _ _ a => sSrc a
  | .aLih _ d _ => sSrc d
  | .aQset _ _ a _ => sSrc a
  | .aQget _ _ q _ => [.q q.toNat]
  | .lLd _ _ _ a _ => sSrc a
  | .lSt _ sel d a _ => sSrc a ++ [.v d.toNat (RowSel.lanes sel)]
  | .lLdq _ _ _ a _ => sSrc a
  | .lStq _ q a _ => sSrc a ++ [.q q.toNat]
  | .lLdg _ _ _ _ a _ => sSrc a
  | .lStg _ _ _ d a _ => sSrc d ++ sSrc a
  | .lLdgv _ _ _ _ _ a _ => sSrc a
  | .lStgv _ q16 hi _ d a _ => sSrc a ++ [.v d.toNat (if q16 then (if hi then 0b0100 else 0b0001) else halfLanes hi)]
  | .lLdx _ _ _ _ a _ => sSrc a
  | .lStx _ sel _ d a _ => sSrc a ++ [.v d.toNat (RowSel.lanes sel)]
  | .lAop _ _ _ _ _ _ a b => sSrc a ++ sSrc b
  | .lCas _ sz _ d a b =>
    sSrc d ++ sSrc a ++ sSrc b ++ (if sz = .q16 then [.s (d.toNat + 1), .s (b.toNat + 1)] else [])
  | .lSaop _ _ _ _ a b => sSrc a ++ [.v b.toNat 0b0011]
  | .lCwb _ a | .lCinv _ a | .lCzero _ a => sSrc a
  | .lPf _ _ _ a _ => sSrc a
  | .lTlbp _ _ a => sSrc a
  | .vAdd _ d a b r | .vSub _ d a b r | .vMul _ d a b r | .vMin _ d a b r | .vMax _ d a b r
  | .vSadd _ d a b r | .vAnd _ d a b r | .vOr _ d a b r | .vXor _ d a b r | .vShl _ d a b r | .vShr _ d a b r
  | .vSar _ d a b r | .vPerm _ d a b r => vSrc a r ++ vSrc b r ++ vMerge d r
  | .vFma _ d a b r => vSrc a r ++ vSrc b r ++ vSrc d r
  | .vAbs _ d a r | .vNeg _ d a r | .vMovVv _ d a r => vSrc a r ++ vMerge d r
  | .vCmp _ _ _ a b r => vSrc a r ++ vSrc b r
  | .vSel _ _ a b r => vSrc a r ++ (if r.m = 0 then [] else vSrc b r)
  | .vCvt t f _ _ a w l =>
    [.v a.toNat (lowLanes ⟨w, l, 0⟩ (VRange.bits ⟨w, l, 0⟩ / max t.bits f.bits * f.bits))]
  | .vScl _ _ _ _ a r => vSrc a r
  | .vPack _ _ _ _ a r => vSrc a r ++ [.v (a.toNat + 1) (scaleLanes r)]
  | .vUnpk t _ _ d a r =>
    [.v a.toNat (lowLanes r (VRange.bits r / t.bits * 4)), .v (a.toNat + 1) (scaleLanes r)] ++ vMerge d r
  | .vRed _ _ _ a r => vSrc a r
  | .vRedx _ _ _ a r => vSrc a r
  | .vRot _ d a b r => vSrc a r ++ sSrc b ++ vMerge d r
  | .vRmg _ d a b r => [.v a.toNat 0b1111] ++ sSrc b ++ vMerge d r
  | .vBc _ d a r | .vIota _ d a r => sSrc a ++ vMerge d r
  | .vIns _ d a b r => sSrc a ++ sSrc b ++ vSrc d r
  | .vExt _ _ a b w l => vSrc a ⟨w, l, 0⟩ ++ sSrc b
  | .vMovVw _ a => [.v a.toNat 0b0001]
  | .vWmax _ _ a b | .vWmin _ _ a b | .vWmed _ _ a b | .vWsum _ _ a b | .vWtopk _ _ a b => sSrc a ++ sSrc b
  | .vWclamp _ _ a b => sSrc a ++ sSrc b ++ [.s (b.toNat + 1), .s (b.toNat + 2)]
  | .vAdjb _ _ _ _ a b => sSrc a ++ sSrc b
  | .fTsel _ _ a => [.v a.toNat 0b0001]
  | .fEval _ _ rg _ _ a => vSrc a (rgRange rg)
  | .fRcp _ _ rg _ a | .fRsq _ _ rg _ a | .fExp2 _ _ rg _ a | .fLog2 _ _ rg _ a => vSrc a (rgRange rg)
  | .xLdw _ _ _ qw _ => [.q qw.toNat]
  | .xMul _ qa _ _ _ _ _ | .xAcc _ qa _ _ _ => [.q qa.toNat]
  | .xSt _ qa _ _ _ => [.q qa.toNat]
  | .xCfg _ _ sx => sSrc sx
  | .eCpy _ qs qd _ _ _ ec =>
    [.q qs.toNat, .q qd.toNat] ++
      (if ec.extractLsb' 5 2 = 1#2 ∨ ec.extractLsb' 5 2 = 2#2 then [.s (ec.extractLsb' 0 5).toNat] else [])
  | .eCpyWadd _ qs qd _ _ _ _ => [.q qs.toNat, .q qd.toNat]
  | .eGath _ qs qd _ _ es _ _ _ => [.q qs.toNat, .q qd.toNat] ++ sSrc es
  | .eScat _ qs qd _ _ _ es _ _ _ => [.q qs.toNat, .q qd.toNat] ++ sSrc es
  | .eLand _ es _ => sSrc es
  | .ePut _ qs _ _ _ es dest _ _ =>
    [.q qs.toNat] ++ sSrc es ++ (if dest = .chan then [.s (es.toNat + 1), .s (es.toNat + 2)] else [])
  | .ePutLand _ qs _ _ es _ => [.q qs.toNat] ++ sSrc es
  | .eGet _ qd _ _ es _ => [.q qd.toNat] ++ sSrc es
  | .eRatom _ _ es op _ _ => sSrc es ++ [.s (es.toNat + 1)] ++ (if op = .cas then [.s (es.toNat + 2)] else [])
  | .eColl _ _ _ _ es _ => sSrc es ++ [.s (es.toNat + 1)]
  | .eMcast _ qs _ _ es _ => [.q qs.toNat] ++ sSrc es
  | .eSig _ es => sSrc es ++ [.s (es.toNat + 1)]
  | .eCtxSave _ es _ _ | .eCtxRest _ es _ _ => sSrc es
  | _ => []

/-- Lane groups a V slot occupies (R78); the witness forms and the mask moves occupy lane group 0 (R184, R219). -/
def occupiesOf : Instr → BitVec 4
  | .vAdd _ _ _ _ r | .vSub _ _ _ _ r | .vMul _ _ _ _ r | .vFma _ _ _ _ r | .vMin _ _ _ _ r | .vMax _ _ _ _ r
  | .vSadd _ _ _ _ r | .vAnd _ _ _ _ r | .vOr _ _ _ _ r | .vXor _ _ _ _ r | .vShl _ _ _ _ r | .vShr _ _ _ _ r
  | .vSar _ _ _ _ r | .vSel _ _ _ _ r | .vPerm _ _ _ _ r | .vRot _ _ _ _ r | .vRmg _ _ _ _ r | .vIns _ _ _ _ r =>
    VRange.lanes r
  | .vAbs _ _ _ r | .vNeg _ _ _ r | .vBc _ _ _ r | .vIota _ _ _ r | .vMovVv _ _ _ r => VRange.lanes r
  | .vCmp _ _ _ _ _ r => VRange.lanes r
  | .vCvt _ _ _ _ _ w l => VRange.lanes ⟨w, l, 0⟩
  | .vScl _ _ _ _ _ r | .vPack _ _ _ _ _ r | .vUnpk _ _ _ _ _ r => VRange.lanes r
  | .vRed _ _ _ _ r | .vRedx _ _ _ _ r => VRange.lanes r
  | .vExt _ _ _ _ w l => VRange.lanes ⟨w, l, 0⟩
  | .vMovVw _ _ | .vMovWv _ _ => 1
  | .vWmax .. | .vWmin .. | .vWclamp .. | .vWmed .. | .vWsum .. | .vWtopk .. | .vAdjb .. => 1
  | _ => 0

/-- Instructions permitted in handler mode only, whatever their operands (R91, R161, R272, R274, R310). -/
def handlerOnly : Instr → Bool
  | .cTret .. | .lTlbp .. | .cTlbi .. | .cScrub .. | .eCtxSave .. | .eCtxRest .. => true
  | .aMts _ n _ => sprWritable n.toNat
  | _ => false

/-- a.mts to a register of kind ro is ILLEGAL in either mode (R95). -/
def mtsReadOnly : Instr → Bool
  | .aMts _ n _ => !sprWritable n.toNat
  | _ => false

/-- The counters of R101. -/
inductive Ctr
  | ocl | ocs | occ | oct
  deriving DecidableEq, Repr

def counterOf : Instr → Option Ctr
  | .lLdg .. | .lLdgv .. | .lLdx .. | .lAop .. | .lCas .. | .lTlbp .. => some .ocl
  | .lStg .. | .lStgv .. | .lStx .. | .cFinc .. | .cBpost .. | .cBarr .. => some .ocs
  | .eCpy .. | .eCpyWadd .. | .eGath .. | .eScat .. | .eLand .. | .eHset .. | .eHfree .. | .eCbp .. | .eCbc .. | .ePut ..
  | .ePutLand .. | .eGet .. | .eRatom .. | .eColl .. | .eMcast .. | .eSig .. | .eCtxSave .. | .eCtxRest .. => some .occ
  | .xLdw .. | .xMul .. | .xAcc .. | .xSt .. | .vWmax .. | .vWmin .. | .vWclamp .. | .vWmed .. | .vWsum .. | .vWtopk ..
  | .vAdjb .. => some .oct
  | _ => none

def Ctr.limit : Ctr → Nat
  | .ocl => 64
  | .ocs => 128
  | .occ => 32
  | .oct => 8

def Core.counter (c : Core) : Ctr → Nat
  | .ocl => c.ocl
  | .ocs => c.ocs
  | .occ => c.occ
  | .oct => c.oct

/-! ## Elements of a range (R163, R164) -/

/-- The bits a range covers in a register. -/
def VRange.mask (r : VRange) : VReg := BitVec.ofNat 1024 ((2 ^ VRange.bits r - 1) * 2 ^ (256 * r.l.toNat))

/-- Element i of n bits of a range, as a number. -/
def elemAt (v : VReg) (r : VRange) (n i : Nat) : Nat := v.toNat / 2 ^ (256 * r.l.toNat + n * i) % 2 ^ n

/-- Whether element i of n bits of a range is enabled: the mask bit of its lowest byte (R164). -/
def enabled (m : Mask) (r : VRange) (n i : Nat) : Bool := m.getLsbD ((256 * r.l.toNat + n * i) / 8)

/-- Elements of a range. -/
def VRange.count (r : VRange) (n : Nat) : Nat := VRange.bits r / n

/-- The elements of a range, in order. -/
def elems (v : VReg) (r : VRange) (n : Nat) : List Nat := (List.range (VRange.count r n)).map (elemAt v r n)

/-- The number that elements of n bits form, the first lowest. -/
def joinElems (n : Nat) : List Nat → Nat
  | [] => 0
  | x :: l => x % 2 ^ n + 2 ^ n * joinElems n l

/-- A register whose range holds the elements given, the rest zero. -/
def rangeOf (r : VRange) (n : Nat) (l : List Nat) : VReg := BitVec.ofNat 1024 (joinElems n l * 2 ^ (256 * r.l.toNat))

/-- The bits of the enabled elements of a range (R164). -/
def mergeMask (m : Mask) (r : VRange) (n : Nat) : VReg :=
  rangeOf r n ((List.range (VRange.count r n)).map fun i => if enabled m r n i then 2 ^ n - 1 else 0)

/-! ## Effective addresses (R139) -/

/-- sA + sext(OFF) * unit, modulo 2^64. -/
def effAddr (a : Word) (off : BitVec 8) (unit : Nat) : Word := a + off.signExtend 64 * BitVec.ofNat 64 unit

end Sys2Proof.Machine
end

