-- ==== Sys2Proof/Machine/Mem.lean ====
section
/-! DEFINITION. Global memory: the physical address space, page walks and TLBs, L1 lines, the directory of the home slices, HBM blocks
(R129 to R131, R289 to R309). The bytes of a line stand once, in `State.mem`; L1, L2 and HBM hold states and marks (log entry 7). -/
namespace Sys2Proof.Machine

/-! ## Physical addresses (R289, R290) -/

def isHbm (pa : Nat) : Bool := pa < 2 ^ 40
def isHost (pa : Nat) : Bool := 2 ^ 47 ≤ pa && pa < 2 ^ 48
def isDevice (pa : Nat) : Bool := 2 ^ 48 ≤ pa && pa < 2 ^ 49

/-- An HBM address that a stack populates: stack offsets 0 to 0xE_E6B2_7FFF (R289). -/
def populated (pa : Nat) : Bool := isHbm pa && pa % 2 ^ 36 ≤ 0xEE6B27FFF

/-- Whether every byte of a page is populated or host memory or device control (R289, R308). A page lies within one stack. -/
def pageOk (pa bytes : Nat) : Bool :=
  (populated pa && populated (pa + bytes - 1)) || (isHost pa && isHost (pa + bytes - 1)) ||
    (isDevice pa && isDevice (pa + bytes - 1))

/-- The storage address of an HBM address under the interleaved map: PA[39:38] xor PA[13:12] (R290). -/
def interleave (pa : Nat) : Nat :=
  let d := (pa / 2 ^ 38 % 4) ^^^ (pa / 2 ^ 12 % 4)
  d * 2 ^ 38 + pa % 2 ^ 38

/-- The home die of a storage address (R289). -/
def homeDie (a : Nat) : Nat := if isHbm a then a / 2 ^ 38 % 4 else a / 2 ^ 12 % 4

/-- Coordinates of a logical core (R3). -/
def coreX (n : Nat) : Nat := n % 16
def coreY (n : Nat) : Nat := n / 16
def dieOf (n : Nat) : Nat := coreX n / 8 + 2 * (coreY n / 8)
def clusterOf (n : Nat) : Nat := coreX n / 4 + 4 * (coreY n / 2)
/-- The logical index within the die (R293). -/
def dieIndex (n : Nat) : Nat := coreX n % 8 + 8 * (coreY n % 8)
/-- The bit of RDIE that stands for a die, seen from the home die: the other dies in rising order. -/
def rdieBit (home d : Nat) : Nat := if d < home then d else d - 1
/-- The core of a cluster numbered (x mod 4) + 4 * (y mod 2) (R272). -/
def clusterCore (cl k : Nat) : Nat := (cl % 4 * 4 + k % 4) + 16 * (cl / 4 * 2 + k / 4)

/-- The logical core that runs tile (tx, ty) of a launch in one of its runs (R277, R346, R355). -/
def Launch.coreAt (l : Launch) (run tx ty : Nat) : Nat :=
  clusterCore ((l.clusters.getD run []).getD (tx / 4 + l.w / 4 * (ty / 2)) 0) (tx % 4 + 4 * (ty % 2))

/-! ## Leaves (R307) -/

def leafP (l : Word) : Bool := l.getLsbD 0
def leafW (l : Word) : Bool := l.getLsbD 1
def leafD (l : Word) : Bool := l.getLsbD 2
def leafS (l : Word) : Bool := l.getLsbD 3
def leafC (l : Word) : Bool := l.getLsbD 4
def leafI (l : Word) : Bool := l.getLsbD 5
def leafSz (l : Word) : Nat := (l.extractLsb' 6 4).toNat
def leafWid (l : Word) : Nat := (l.extractLsb' 10 4).toNat
def leafBase (l : Word) : Nat := (l.extractLsb' 14 37).toNat * 4096
def leafPkg (l : Word) : Nat := (l.extractLsb' 51 13).toNat

/-- log2 of the bytes of a page-size code; none for a reserved one and for a table pointer (R307). -/
def szBits (sz : Nat) : Option Nat :=
  match sz with
  | 0 => some 12 | 1 => some 14 | 2 => some 16 | 3 => some 18 | 4 => some 20 | 5 => some 21 | 6 => some 24 | 7 => some 26
  | 8 => some 29 | 9 => some 30 | _ => none

/-- The level at which a leaf size may stand (R306). -/
def szLevel (sz : Nat) : Nat := if sz ≤ 4 then 0 else if sz ≤ 8 then 1 else 2

/-- The entries a page of 2^b bytes takes at a level of 2^l bytes an entry (R306). -/
def groupEntries (b level : Nat) : Nat := 2 ^ (b - (12 + 9 * level))

/-! ## The walk (R306, R308) -/

/-- The entry of a table that a virtual address indexes: at level 4 eight bits, below it nine. -/
def vaIndex (va level : Nat) : Nat := va / 2 ^ (12 + 9 * level) % (if level = 4 then 256 else 512)

/-- What an HBM controller keeps of a block: of one nothing has written, world 0 and zeros under the first key of world 0 (R301, R304). -/
def State.block (s : State) (b : Nat) : Block := (SMap.get none s.blocks b).getD { bad := s.freshBad }
def State.setBlock (s : State) (b : Nat) (x : Block) : State := { s with blocks := SMap.set s.blocks b (some x) }

/-- Whether a read of a line in a world finds its block failed or the line marked in HBM (R301). Host memory lies outside the boundary
(R300). -/
def State.blockFails (s : State) (line world : Nat) : Bool :=
  isHbm (64 * line) && ((s.block (line / 8)).bad || (s.block (line / 8)).world != world)
def State.hbmPoison (s : State) (line world : Nat) : Bool :=
  s.blockFails line world || (isHbm (64 * line) && (s.block (line / 8)).poison.getLsbD (line % 8))

/-- The way key of a line in a core's L1, and the line. -/
def Core.l1Key (c : Core) (line : Nat) : Option Nat :=
  (c.l1.find? fun e => match e.2 with | some l => l.line == line && l.st != .i | none => false).map Prod.fst
def Core.l1Line (c : Core) (line : Nat) : Option L1Line := (c.l1Key line).bind fun k => SMap.get none c.l1 k
def Core.l1State (c : Core) (line : Nat) : Mesi := match c.l1Line line with | some l => l.st | none => .i

def State.l2Line (s : State) (line : Nat) : Option L2Line := SMap.get none s.l2 line
def State.setL2 (s : State) (line : Nat) (x : L2Line) : State := { s with l2 := SMap.set s.l2 line (some x) }

/-- Whether the L2 holds an HBM line for a world other than the one that asks, which the check of R301 must turn away (log entry 96). -/
def L2Line.foreign (x : L2Line) (line world : Nat) : Bool := isHbm (64 * line) && x.world != world

/-- Whether a read of a line at its home slice for a world finds it poisoned: as its owner has it where an L1 holds it in M, as the L2 has
it, or as HBM gives it. -/
def State.homePoison (s : State) (line world : Nat) : Bool :=
  match s.l2Line line with
  | none => s.hbmPoison line world
  | some x =>
    let held := (if x.dst = 2 then (s.core x.own).l1Line line else none).filter fun l => l.st == .m
    if x.foreign line world then x.dirty || held.isSome || s.hbmPoison line world
    else (held.map L1Line.poison).getD x.poison

/-- An entry of a table, read through its home slice in a world (R306). A poisoned one has no value (R301): a free one (log entry 13). -/
def State.entry (s : State) (world table i : Nat) : Word :=
  let a := table + 8 * i
  if s.homePoison (a / 64) world then (Config.freeBits (s.freeCtr + a)).setWidth 64 else BitVec.ofNat 64 (s.loadNat a 8)

/-- The entry of a large page's group that a walk takes: the one indexed where the entries agree, else a free one (R306, log
entry 13). -/
def State.groupEntry (s : State) (world table i k : Nat) : Word :=
  let base := i / k * k
  if (List.range k).all fun j => s.entry world table (base + j) == s.entry world table i then s.entry world table i
  else s.entry world table (base + Config.freeIndex s.freeCtr % k)

/-- What a leaf answers at its level: itself, where its size may stand there, its page exists and its package is configured. -/
def State.leafOk (s : State) (level : Nat) (l : Word) : Option Word :=
  match szBits (leafSz l) with
  | none => none
  | some b =>
    if leafP l && szLevel (leafSz l) == level && pageOk (leafBase l / 2 ^ b * 2 ^ b) (2 ^ b) && leafPkg l < s.npkg then some l
    else none

/-- The leaf the entry indexed at a level leads to, taken from its group: none for a size that may not stand there (R308). -/
def State.leafAt (s : State) (world va table level : Nat) (e : Word) : Option Word :=
  match szBits (leafSz e) with
  | none => none
  | some b =>
    if leafP e && szLevel (leafSz e) == level then s.leafOk level (s.groupEntry world table (vaIndex va level) (groupEntries b level))
    else none

/-- The walk from a table at a level down: the leaf, or none where it ends with XLATE; the storage addresses of the entries it indexes. -/
def State.walkFrom (s : State) (world va table : Nat) : Nat → Option Word × List Nat
  | 0 => (s.leafAt world va table 0 (s.entry world table (vaIndex va 0)), [table + 8 * vaIndex va 0])
  | level + 1 =>
    let i := vaIndex va (level + 1)
    let e := s.entry world table i
    if leafP e && leafSz e == 15 then
      let r := s.walkFrom world va (leafBase e) level
      (r.1, (table + 8 * i) :: r.2)
    else (s.leafAt world va table (level + 1) e, [table + 8 * i])

/-- The walk of a virtual address from a root, in the world of its launch (R306). -/
def State.walk (s : State) (world root va : Nat) : Option Word := (s.walkFrom world va root 4).1

/-- The physical address a leaf gives a virtual address (R307). -/
def leafPa (l : Word) (va : Nat) : Nat :=
  match szBits (leafSz l) with
  | some b => leafBase l / 2 ^ b * 2 ^ b + va % 2 ^ b
  | none => 0

/-- The location a leaf gives a virtual address (R289 to R291): another package's memory where PKG differs and D is clear. -/
def State.leafLoc (s : State) (l : Word) (va : Nat) : Loc :=
  let pa := leafPa l va
  if leafPkg l ≠ s.pkg ∧ !leafD l then .fab (leafPkg l) pa
  else if isDevice pa then .dev pa
  else .mem (if isHbm pa && leafI l then interleave pa else pa) (leafS l)

/-- What translation comes to: a leaf, a walk to make, or a cause (R140). -/
inductive Xlate
  | ok (leaf : Word)
  | walk
  | fault (cause : Nat)
  deriving DecidableEq, Repr

/-- The TLB entry that holds a virtual address in a world. -/
def Core.tlbFind (c : Core) (world va : Nat) : Option Word :=
  (c.tlb.find? fun t => t.world == world && t.vpn ≤ va / 4096 && va / 4096 < t.vpn + t.pages).map TlbEntry.leaf

/-- The checks of a present leaf: WORLD, then WPROT for a store (R140). -/
def leafFault (world : Nat) (store : Bool) (l : Word) : Option Nat :=
  if leafWid l ≠ world then some cWORLD
  else if store && (!leafW l || leafD l) then some cWPROT
  else none

/-- Translation of an access of a core (R140): e[63:56] set is XLATE; a walk that found nothing is XLATE. -/
def Core.translate (c : Core) (e : Word) (store : Bool) : Xlate :=
  let world := c.spr.world.toNat
  if 2 ^ 56 ≤ e.toNat then .fault cXLATE
  else match c.tlbFind world e.toNat with
    | some l => (match leafFault world store l with | some k => .fault k | none => .ok l)
    | none =>
      match c.walkFault with
      | some (va, _) => if va.toNat / 4096 = e.toNat / 4096 then .fault cXLATE else .walk
      | none => .walk

/-- The page-table root of the launch a core belongs to (R306). -/
def State.rootOf (s : State) (n : Nat) : Nat :=
  match s.launch (s.core n).lid with
  | some l => l.root
  | none => 0

/-- Translation by a unit without a TLB of its own in this model, for a world and a root: a walk each time (R309). -/
def State.xlate (s : State) (world root va : Nat) (store : Bool) : Except Nat Word :=
  if 2 ^ 56 ≤ va then .error cXLATE
  else match s.walk world root va with
    | none => .error cXLATE
    | some l => (match leafFault world store l with | some k => .error k | none => .ok l)

/-- Translation by a unit for the tasks of a launch. -/
def State.translateFor (s : State) (lid va : Nat) (store : Bool) : Except Nat Word :=
  match s.launch lid with
  | some l => s.xlate l.world l.root va store
  | none => .error cXLATE

/-! ## L1 lines (R129, R130, R295) -/

/-- The monitor fires where its line is lost or written by another agent (R114). -/
def Core.fire (c : Core) (line : Nat) : Core :=
  match c.monitor with
  | some m => if m.line = line then { c with monitor := some { m with fired := true } } else c
  | none => c

/-- A line removed from a core's L1. -/
def Core.l1Drop (c : Core) (line : Nat) : Core :=
  match c.l1Key line with
  | some k => ({ c with l1 := SMap.put none c.l1 k none }).fire line
  | none => c

/-- A change of a line the L1 holds; the change counts as a use: its reference bit is set, and nothing clears one (log entry 75). -/
def Core.l1Mod (c : Core) (line : Nat) (f : L1Line → L1Line) : Core :=
  match c.l1Key line with
  | some k => { c with l1 := SMap.put none c.l1 k ((SMap.get none c.l1 k).map fun l => { f l with ref := true }) }
  | none => c
def Core.l1Set (c : Core) (line : Nat) (st : Mesi) : Core := c.l1Mod line fun l => { l with st := st }

/-- The way a new line takes in its set (R129): an invalid way, else the first from the pointer whose reference bit is clear, else the
one at the pointer. -/
def Core.l1Victim (c : Core) (line : Nat) : Nat :=
  let set := line % 64
  let ways := (List.range (96 - c.banks)).map (· + c.banks)
  let at_ := fun w => SMap.get none c.l1 (set * 96 + w)
  match ways.find? fun w => (at_ w).isNone with
  | some w => w
  | none =>
    let ptr := SMap.get 0 c.l1ptr set
    let rot := ways.map fun w => c.banks + (w - c.banks + ptr) % (96 - c.banks)
    match rot.find? fun w => match at_ w with | some l => !l.ref | none => true with
    | some w => w
    | none => c.banks + ptr % (96 - c.banks)

/-! ## The directory (R292 to R296) -/

/-- Whether any core of a die other than `n` holds a line. -/
def State.dieHolds (s : State) (d n line : Nat) : Bool :=
  s.cores.any fun e => e.1 != n && dieOf e.1 == d && e.2.l1State line != .i

/-- The entry with core `n` recorded as a holder of state `st` (R293, R294). -/
def L2Line.add (x : L2Line) (line n : Nat) (excl : Bool) : L2Line :=
  let home := homeDie (64 * line)
  if excl then
    { x with
      dst := 2, own := n, map := if dieOf n = home then 1#64 <<< dieIndex n else 0
      rdie := if dieOf n = home then 0 else 1#3 <<< rdieBit home (dieOf n) }
  else if dieOf n = home then { x with dst := 1, map := x.map ||| (1#64 <<< dieIndex n) }
  else { x with dst := 1, rdie := x.rdie ||| (1#3 <<< rdieBit home (dieOf n)) }

/-- What an L1 copy in M adds to the line of the L2 when its data are sent back: of a modified host line the package then holds the state
M (R295, R297). -/
def L2Line.takes (x : L2Line) (l : L1Line) : L2Line :=
  if l.st = .m then { x with dirty := true, world := l.world, poison := l.poison, comp := l.comp } else x

/-- An L1's data go into the L2 (R294). -/
def State.takeData (s : State) (line : Nat) (l : L1Line) : State :=
  match s.l2Line line with
  | none => s
  | some x =>
    let s := if isHost (64 * line) && l.st == .m then { s with cxl := SMap.put .i s.cxl line .m } else s
    s.setL2 line (x.takes l)

/-- DIR_EVICTION_NOTICE (R293, R294): a copy is gone; its data are in L2. -/
def State.evictNotice (s : State) (n line : Nat) : State :=
  match s.l2Line line with
  | none => s
  | some x =>
    let home := homeDie (64 * line)
    let y :=
      if x.dst = 2 then (if x.own = n then { x with dst := 0, map := 0, rdie := 0 } else x)
      else if dieOf n = home then { x with map := x.map &&& ~~~(1#64 <<< dieIndex n) }
      else if s.dieHolds (dieOf n) n line then x
      else { x with rdie := x.rdie &&& ~~~(1#3 <<< rdieBit home (dieOf n)) }
    s.setL2 line (if y.dst = 1 ∧ y.map = 0 ∧ y.rdie = 0 then { y with dst := 0 } else y)

/-- An L1 gives up its copy and tells the home slice (R293). -/
def State.l1Evict (s : State) (n line : Nat) : State :=
  match (s.core n).l1Line line with
  | none => s
  | some l => ((s.modCore n fun c => c.l1Drop line).takeData line l).evictNotice n line

/-- Every copy of a line but core `n`'s is invalidated and its data taken back (R294, R296). `n` past 255 names no core. -/
def State.invalidateOthers (s : State) (n line : Nat) : State :=
  (s.cores.map Prod.fst).foldl (fun s k => if k = n then s else s.l1Evict k line) s

/-- The owner of a line downgrades to S, its data in L2 (R294). -/
def State.downgradeOwner (s : State) (line : Nat) : State :=
  match s.l2Line line with
  | none => s
  | some x =>
    if x.dst = 2 then
      let l := ((s.core x.own).l1Line line).getD ⟨line, .i, false, false, 0, false⟩
      let s := (s.takeData line l).modCore x.own fun c => c.l1Set line .s
      s.setL2 line ({ x.takes l with dst := 1, map := 0, rdie := 0 }.add line x.own false)
    else s

/-! ### The host (R297) -/

/-- Whether a host line is held in a state that does not serve a request yet: any state serves a read, E and M a write. -/
def State.lacksGrant (s : State) (line : Nat) (own : Bool) : Bool :=
  isHost (64 * line) &&
    (match SMap.get .i s.cxl line with
     | .i => true
     | .s => own
     | _ => false)

/-- A line is asked of the host: a host line by a request for it, an HBM line by a back-invalidation snoop, sent once. -/
def State.askHost (s : State) (line : Nat) (own : Bool) : State :=
  if isHost (64 * line) then
    { s with cxlWant := SMap.set s.cxlWant line (some (own || (SMap.get none s.cxlWant line).getD false)) }
  else if s.binv.contains line then s else { s with binv := s.binv ++ [line] }

/-- The host's grant of a line is here, for units whose accesses wait for no grant of their own (log entry 86). -/
def State.granted (s : State) (line : Nat) (own : Bool) : State :=
  if s.lacksGrant line own then { s with cxl := SMap.put .i s.cxl line (if own then .m else .e), cxlWant := SMap.erase s.cxlWant line } else s

/-! ### HBM blocks (R298 to R301, R304) -/

/-- The controller of a block: die * 4 + stack. -/
def blockCtl (block : Nat) : Nat := (512 * block) / 2 ^ 36 % 16

/-- Whether a write of a world into a block takes the new key (R304): below the pointer of a sweep of the world whose old key is not yet
retired. -/
def State.newKeyFor (s : State) (block world : Nat) : Bool :=
  let w := SMap.get {} s.sweeps (blockCtl block)
  w.live && w.wid == world && w.base ≤ block && block < w.end_ && block < w.ptr

/-- Whether the bytes of a block are all zero. -/
def State.blockZero (s : State) (block : Nat) : Bool := s.loadNat (512 * block) 512 == 0

/-- The lines of a block that a set of them names and that a test holds for. -/
def linesWith (lines : BitVec 8) (p : Nat → Bool) : BitVec 8 :=
  (List.range 8).foldl (fun (m : BitVec 8) i => if lines.getLsbD i && p i then m ||| (1#8 <<< i) else m) 0

/-- MEMORY_WRITE (R299 to R301): lines of a block go from L2 to HBM under a world. A write of less than the whole block into a block whose
tag fails for that world poisons the lines it does not write, and what other worlds have of them in the L2 goes with the record (R386). The
block is compressed only where every line comes through a leaf with C set, to the shape the algorithm finds; only an all-zero block takes the
all-zero state. -/
def State.writeBlock (s : State) (block world : Nat) (lines : BitVec 8) (compress : Bool) (shape : BitVec 2) : State :=
  let b := s.block block
  let line := fun i => s.l2Line (8 * block + i)
  let failed := b.bad || b.world != world
  let l2p := linesWith lines fun i => match line i with | some x => x.poison | none => false
  let may := compress && linesWith lines (fun i => match line i with | some x => x.comp | none => false) == lines
  let rest := if failed then BitVec.allOnes 8 else b.poison
  let comp := if may then (if shape = 3 ∧ !s.blockZero block then 0 else shape) else 0
  let b' : Block := ⟨comp, world, s.newKeyFor block world, false, l2p ||| (rest &&& ~~~lines)⟩
  let s := s.setBlock block b'
  (List.range 8).foldl (fun s i =>
    match s.l2Line (8 * block + i) with
    | some x =>
      if lines.getLsbD i then s.setL2 (8 * block + i) { x with dirty := false }
      else if x.world != world then let t := s.invalidateOthers 256 (8 * block + i); { t with l2 := SMap.erase t.l2 (8 * block + i) } else s
    | none => s) s

/-- A dirty line of HBM goes to its block; the state the algorithm finds is a free value. -/
def State.writeBack (s : State) (line : Nat) (y : L2Line) : State :=
  if isHbm (64 * line) && y.dirty then
    { s.writeBlock (line / 8) y.world (1#8 <<< (line % 8)) true (BitVec.ofNat 2 (Config.freeIndex s.freeCtr)) with freeCtr := s.freeCtr + 1 }
  else s

/-- The line leaves the L2: every L1 copy is invalidated first and its data taken back, and dirty data are stored (R292). -/
def State.leaveL2 (s : State) (line : Nat) : State :=
  match s.l2Line line with
  | none => s
  | some x =>
    let s := s.invalidateOthers 256 line
    let s := s.writeBack line ((s.l2Line line).getD x)
    { s with l2 := SMap.erase s.l2 line, cxl := if isHost (64 * line) then SMap.put .i s.cxl line .i else s.cxl }

/-! ### Lines of the L2 (R292, R301) -/

/-- A slice evicts a line. A line the host may hold is first asked back (log entry 87). -/
def State.evictL2 (s : State) (line : Nat) : State :=
  match s.l2Line line with
  | none => s
  | some x => if x.host then s.askHost line false else s.leaveL2 line

/-- Lines a die's slices hold (R3, R292). -/
def l2Capacity : Nat := 2 ^ 21

/-- A full die makes room before a line comes in; which line goes is timing (R292). -/
def State.makeRoom (s : State) (line : Nat) : State :=
  let mine := s.l2.filter fun e => e.2.isSome && homeDie (64 * e.1) == homeDie (64 * line)
  if mine.length < l2Capacity then s
  else match mine.find? fun e => match e.2 with | some x => !x.host | none => false with
    | some e => s.evictL2 e.1
    | none => s

/-- An integrity event is raised under a code the spec does not give (R301; log entry 17). -/
def State.integrityEvent (s : State) : State :=
  { s.postEvent ((Config.freeBits s.freeCtr).toNat % 2 ^ 128) with freeCtr := s.freeCtr + 1 }

/-- The line is in its home slice: read from HBM, whose check may fail, or granted by the host (R292, R297, R301). Where it is to be written
whole it is not read (R148, R159). A line held for another world is stored first and read again (log entry 96). -/
def State.bringL2 (s : State) (line world : Nat) (whole : Bool) : State :=
  let host := match s.l2Line line with | some x => x.host | none => false
  let s := match s.l2Line line with | some x => if x.foreign line world then s.leaveL2 line else s | none => s
  match s.l2Line line with
  | some _ => s
  | none =>
    let s := (s.makeRoom line).granted line false
    if whole then s.setL2 line { world := world, host := host }
    else
      let s := if s.blockFails line world then s.integrityEvent else s
      s.setL2 line { poison := s.hbmPoison line world, world := world, host := host }

/-- The line is read into its home slice. -/
def State.fillL2 (s : State) (line world : Nat) : State := s.bringL2 line world false

/-- MEMORY_READ: the lines of a block that L2 does not hold are read; the block's check fails as poison. -/
def State.readBlock (s : State) (block world : Nat) : State :=
  (List.range 8).foldl (fun s i => s.fillL2 (8 * block + i) world) s

/-- The line takes a way of the core's L1, whose line is given up first (R129). -/
def State.l1Install (s : State) (n line : Nat) (st : Mesi) : State :=
  let c := s.core n
  let set := line % 64
  let x := (s.l2Line line).getD {}
  match c.l1Key line with
  | some _ => s.modCore n fun c => c.l1Mod line fun l => { l with st := st, poison := x.poison }
  | none =>
    let w := c.l1Victim line
    let s := match SMap.get none c.l1 (set * 96 + w) with
      | some old => s.l1Evict n old.line
      | none => s
    s.modCore n fun c => { c with
      l1 := SMap.put none c.l1 (set * 96 + w) (some ⟨line, st, true, x.poison, c.spr.world.toNat, x.comp⟩)
      l1ptr := SMap.put 0 c.l1ptr set ((w - c.banks + 1) % (96 - c.banks)) }

/-- DIR_READ (R294): a load miss of core `n`. -/
def State.dirRead (s : State) (n line world : Nat) : State :=
  let s := s.fillL2 line world
  match s.l2Line line with
  | none => s
  | some x =>
    if x.dst = 0 ∧ !s.lacksGrant line true then (s.setL2 line (x.add line n true)).l1Install n line .e
    else
      let s := s.downgradeOwner line
      match s.l2Line line with
      | some y => (s.setL2 line (y.add line n false)).l1Install n line .s
      | none => s

/-- Whether the host may hold an HBM line, so that its home slice must ask it back before it grants M or E (R297). -/
def State.needsHost (s : State) (line : Nat) : Bool :=
  match s.l2Line line with
  | some x => x.host && isHbm (64 * line)
  | none => false

/-- DIR_READ_EXCLUSIVE and DIR_UPGRADE (R294): every other copy is invalidated, then core `n` holds the line in `st`; without data for a
write of the whole line. -/
def State.dirExclusive (s : State) (n line world : Nat) (st : Mesi) (whole : Bool := false) : State :=
  let s := (s.bringL2 line world whole).granted line true
  let s := s.invalidateOthers n line
  match s.l2Line line with
  | none => s
  | some x => (s.setL2 line (x.add line n true)).l1Install n line st

/-! ## Accesses to lines -/

/-- Whether the home slice must first hear from the host: core `n` would obtain an HBM line in M or E that the host may hold, or a host line
in a state the host has not granted (R297). -/
def State.waitsHost (s : State) (n line : Nat) (store : Bool) : Bool :=
  let st := (s.core n).l1State line
  if isHost (64 * line) then s.lacksGrant line store && (st == .i || (store && st == .s))
  else s.needsHost line &&
    (if store then st != .m && st != .e else st == .i && (match s.l2Line line with | some x => x.dst == 0 | none => false))

/-- n bytes of a line as a read delivers them: of a poisoned line no byte is (R301), and the value beside the mark is a free one (log
entry 13). -/
def State.delivered (s : State) (pa n : Nat) (poison : Bool) : State × Nat :=
  if poison then ({ s with freeCtr := s.freeCtr + 1 }, (Config.freeBits s.freeCtr).toNat % 2 ^ (8 * n)) else (s, s.loadNat pa n)

/-- A load of core `n` through its L1 (R148, R294). -/
def State.l1Load (s : State) (n line world : Nat) : State :=
  if (s.core n).l1State line = .i then s.dirRead n line world else s

/-- Core `n` holds a line in M (R294, R295). -/
def State.l1Own (s : State) (n line world : Nat) (whole : Bool) : State :=
  match (s.core n).l1State line with
  | .m => s
  | .e => s.modCore n fun c => c.l1Set line .m
  | _ => s.dirExclusive n line world .m whole

/-- A store of core `n` through its L1: the line is in M, of which the home learns with the data (R148, R294, R295). A store of the whole
line clears its mark, a partial one leaves it (R143). -/
def State.l1Store (s : State) (n line world : Nat) (whole comp : Bool) : State :=
  let s := s.l1Own n line world whole
  let s := { s with cores := s.cores.map fun (e : Nat × Core) => if e.1 = n then e else (e.1, e.2.fire line) }
  s.modCore n fun c => c.l1Mod line fun l => { l with world := world, comp := comp, poison := l.poison && !whole }

/-- A load performed at the home slice (R296): a copy in M or E is downgraded first. -/
def State.homeLoad (s : State) (line world : Nat) : State := (s.fillL2 line world).downgradeOwner line

/-- Whether the line a home slice holds is poisoned. -/
def State.linePoison (s : State) (line : Nat) : Bool :=
  match s.l2Line line with
  | some x => x.poison
  | none => false

/-- n bytes within a line read at its home slice: their value and whether the line is poisoned (R296, R301). -/
def State.homeRead (s : State) (pa n world : Nat) : State × Nat × Bool :=
  let s := s.homeLoad (pa / 64) world
  let po := s.linePoison (pa / 64)
  let r := s.delivered pa n po
  (r.1, r.2, po)

/-- A store performed at the home slice (R296): every L1 copy is invalidated first, and every monitor on the line fires. -/
def State.homeStore (s : State) (line world : Nat) (whole poison comp : Bool) : State :=
  let s := ((s.bringL2 line world whole).granted line true).invalidateOthers 256 line
  let s := { s with cores := s.cores.map fun (e : Nat × Core) => (e.1, e.2.fire line) }
  match s.l2Line line with
  | some x => s.setL2 line { x with dirty := true, world := world, comp := comp, poison := poison || (x.poison && !whole) }
  | none => s

/-! ## The security processor's reads (R301, R365) -/

/-- Whether bytes of world 0 that the security processor reads lie in a line whose check fails for world 0. -/
def State.secFails (s : State) (a n : Nat) : Bool := (rowsOf a n).any fun k => s.homePoison k 0

/-- Bytes of world 0 as the security processor reads them: of a line whose check fails, free values (log entry 13). -/
def State.secBytes (s : State) (a n : Nat) : List Byte :=
  (List.range n).map fun i =>
    if s.homePoison ((a + i) / 64) 0 then (Config.freeBits (s.freeCtr + a + i)).setWidth 8 else s.byte (a + i)

/-- The event a failed check of such a read raises. -/
def State.secFetch (s : State) (a n : Nat) : State := if s.secFails a n then s.integrityEvent else s

/-! ## Walks -/

/-- The table entries that walks from a root to virtual addresses read, read at their home slices in the world of the walks (R306); of a page they
are read once. -/
def State.walkReads (s : State) (world root : Nat) (vas : List Nat) : State :=
  let pages := (vas.map (· / 4096)).eraseDups
  (pages.flatMap fun p => (s.walkFrom world (4096 * p) root 4).2.map (· / 64)).eraseDups.foldl (fun s k => s.homeLoad k world) s

/-- The walks a unit makes for a launch. -/
def State.walkFor (s : State) (lid : Nat) (vas : List Nat) : State :=
  match s.launch lid with
  | some l => s.walkReads l.world l.root vas
  | none => s

/-- PAGE_WALK_COMPLETE (R309): the walk of a core ends with a translation in its TLB or with XLATE for the access that waits. The walk
reads its entries at their home slices, waiting for the host where it must (R306), and uses up one free value. -/
def State.completeWalk (s : State) (n : Nat) : State :=
  let c := s.core n
  match c.walk with
  | none => s
  | some va =>
    let world := c.spr.world.toNat
    let w := s.walkFrom world va.toNat (s.rootOf n) 4
    let lines := w.2.map (· / 64)
    match lines.find? fun k => s.lacksGrant k false with
    | some k => s.askHost k false
    | none =>
    let s := lines.foldl (fun s k => s.homeLoad k world) s
    let c := s.core n
    match w.1 with
    | some l =>
      let b := (szBits (leafSz l)).getD 12
      let t : TlbEntry := ⟨va.toNat / 2 ^ b * 2 ^ (b - 12), 2 ^ (b - 12), l, c.spr.world.toNat⟩
      { s.setCore n { c with walk := none, walkFault := none, tlb := c.tlb ++ [t] } with freeCtr := s.freeCtr + 1 }
    | none =>
      { s.setCore n { c with walk := none, walkFault := some (va, cXLATE) } with freeCtr := s.freeCtr + 1 }

end Sys2Proof.Machine
end

