-- ==== Sys2Proof/Machine/Order.lean ====
section
/-! DEFINITION. Which outstanding access of a task may perform: the matrix of R317, fences (R157), drains (R158), the scopes of R144 and
R316 (log entry 9). -/
namespace Sys2Proof.Machine

/-- The classes of R317 that an operation on the way can have. -/
inductive OClass
  | l | lx | s | sx | aq | rl | fa | fr | ff | ofl | e
  deriving DecidableEq, Repr

/-- The classes of an outstanding access: an atomic with .ar is an acquire and a release, one without is a load and a store beyond
the L1. -/
def Acc.classes (a : Acc) : List OClass :=
  match a.op with
  | .load _ | .tlbp _ => if a.acq then [.aq] else if a.ownL1 then [.l] else [.lx]
  | .store .. => if a.ofl then [.ofl] else if a.rel then [.rl] else if a.ownL1 then [.s] else [.sx]
  | .czero => if a.ownL1 then [.s] else [.sx]
  | .aop .. | .cas .. => if a.acq then [.aq, .rl] else [.lx, .sx]
  | .cwb | .cinv => [.sx]
  | .fence .acq => [.fa]
  | .fence .rel => [.fr]
  | .fence .full => [.ff]
  | .finc _ => [.rl]
  | .post _ => [.sx]
  | .arrive => [.rl]

/-- The cells of R317 read "kept", with notes a and b free (an engine command asks through .acq), c and d decided by the location. -/
def kept (same : Bool) (x y : OClass) : Bool :=
  match x with
  | .aq | .fa | .ff => true
  | .l => (match y with | .l | .rl | .fa | .fr | .ff => true | .s => same | _ => false)
  | .lx => (match y with | .rl | .fa | .fr | .ff => true | _ => false)
  | .s => (match y with | .rl | .fr | .ff => true | .l | .s => same | _ => false)
  | .sx => (match y with | .rl | .fr | .ff => true | .ofl => false | _ => false)
  | .rl => (match y with | .rl | .fr | .ff => true | _ => false)
  | .fr => (match y with | .s | .sx | .rl | .fa | .fr | .ff | .ofl | .e => true | _ => false)
  | .ofl => (match y with | .rl | .fr | .ff => true | _ => false)
  | .e => (match y with | .rl | .fr | .ff => true | _ => false)

/-- Bytes an access names. -/
def AccOp.bytes : AccOp → Nat
  | .load n | .store n _ | .aop _ n _ _ | .cas n _ _ => n
  | .czero | .cwb | .cinv => 64
  | _ => 0

/-- The first byte an access touches: a row access its row or pair (R125), a cache operation its line (R159). -/
def Acc.base (a : Acc) : Nat :=
  match a.loc, a.op with
  | .core _ o, _ => o / max 64 a.op.bytes * max 64 a.op.bytes
  | .mem pa _, .czero | .mem pa _, .cwb | .mem pa _, .cinv | .dev pa, .czero | .dev pa, .cwb | .dev pa, .cinv
  | .fab _ pa, .czero | .fab _ pa, .cwb | .fab _ pa, .cinv => pa / 64 * 64
  | .mem pa _, _ | .dev pa, _ | .fab _ pa, _ => pa
  | _, _ => 0

/-- Whether two locations lie in one space of addresses. -/
def Loc.sameSpace : Loc → Loc → Bool
  | .mem .., .mem .. | .dev _, .dev _ => true
  | .fab p _, .fab q _ => p == q
  | .core n _, .core m _ => n == m
  | _, _ => false

/-- Whether two accesses share a byte: "one location" of R145, R157 and R317. -/
def Acc.meets (a b : Acc) : Bool :=
  a.loc.sameSpace b.loc && a.base < b.base + b.op.bytes && b.base < a.base + a.op.bytes

/-- Whether a fence, a drain or a qualifier at scope S orders whatever the task accesses: one agent's view of a write is every agent's
(R313), so at any scope wider than the task every access it waits for must have performed (log entry 9). -/
def covers (s : Scope) : Bool := s != .task

def Acc.isFence (a : Acc) : Bool :=
  match a.op with
  | .fence _ => true
  | _ => false

/-- A load, a store or an atomic. -/
def Acc.isData (a : Acc) : Bool :=
  match a.op with
  | .load _ | .store .. | .aop .. | .cas .. | .czero => true
  | _ => false

/-- Two accesses to one location through the own L1, whatever their qualifiers: they perform in program order (R145). -/
def Acc.sameLine (a b : Acc) : Bool := a.ownL1 && b.ownL1 && a.isData && b.isData && a.meets b

/-- Whether an earlier access holds a later one back by the matrix alone. An acquire at task scope (an l.ldx.acq of the own tile, R144)
orders accesses to its location only, and releases and fences, which await every earlier access. -/
def Acc.holds (a b : Acc) : Bool :=
  a.sameLine b || a.classes.any fun x => b.classes.any fun y =>
    kept (a.meets b) x y && (x != .aq || y == .rl || covers a.scope || a.meets b || b.isFence)

/-- The outstanding engine commands, as the matrix sees them, with a place in program order before `id`. An abandoned command does not
hold the handler's operations back. -/
def Core.cmdsBefore (c : Core) (id : Nat) : Bool := c.cmds.any fun m => m.id < id && m.st != .abandoned

/-- The fences of a list of outstanding accesses, in program order, that still wait (R157). -/
def Core.openFences (c : Core) : List Acc → List Acc → List Acc → List Acc
  | [], _, opens => opens
  | a :: l, seen, opens =>
    if a.isFence then
      let waits := seen.any (fun b => !b.isFence && b.holds a) || opens.any (fun f => f.holds a) ||
        (match a.op with | .fence .acq => false | _ => c.cmdsBefore a.id)
      c.openFences l (seen ++ [a]) (if waits then opens ++ [a] else opens)
    else c.openFences l (seen ++ [a]) opens

/-- The fences that still wait, .task fences apart: these order one location only, and no wider fence waits for what they wait for (R316). -/
def Core.wideFences (c : Core) (accs : List Acc) : List Acc := c.openFences (accs.filter fun a => !a.isFence || covers a.scope) [] []

/-- The fences of a list, in program order, that wait for an operation of the given classes and place, by themselves or through one another. -/
def fencesAfter (fences : List Acc) (xs : List OClass) (id : Nat) : List Acc :=
  fences.foldl (fun r f =>
    if id < f.id && (xs.any (fun x => f.classes.any fun y => kept false x y) || r.any fun g => g.holds f) then r ++ [f] else r) []

/-- Whether fences after an operation of the given classes and place hold back one of classes `ys` behind them. -/
def fencesOrder (fences : List Acc) (xs : List OClass) (id : Nat) (ys : List OClass) : Bool :=
  (fencesAfter fences xs id).any fun f => f.classes.any fun x => ys.any fun y => kept true x y

/-- Whether fences, of whatever scope, order two accesses to one location (R157, R320). -/
def taskFenced (accs : List Acc) (a b : Acc) : Bool :=
  a.meets b && fencesOrder (accs.filter fun f => f.isFence && f.id < b.id) a.classes a.id b.classes

/-- Whether fences, of whatever scope, order an access behind an engine command (R157, R258): its rows are not looked at (log entry 9). -/
def Core.cmdFenced (c : Core) (fences : List Acc) (ys : List OClass) : Bool :=
  c.cmds.any fun m => m.st != .abandoned && fencesOrder fences [.e] m.id ys

/-- Whether an access must still wait (R145, R149, R157, R317): for an earlier access of its matrix, an open fence, or, as a release,
the earlier engine commands. -/
def Core.blocked (c : Core) (b : Acc) : Bool :=
  let earlier := c.accs.filter fun a => a.id < b.id
  (earlier.any fun a => !a.isFence && (a.holds b || taskFenced earlier a b)) ||
    ((c.wideFences earlier).any fun f => f.holds b) ||
    c.cmdFenced (earlier.filter Acc.isFence) b.classes || (b.classes.any (fun y => y == .rl) && c.cmdsBefore b.id)

/-- An access of the own scratchpad or the constant tables as the matrix sees it: L, S or both (R145). -/
def ownAccess (load store : Bool) : List OClass := (if load then [.l] else []) ++ (if store then [.s] else [])

/-- Whether an access of core `n` to its own rows must stall, which performs in its issue cycle (R98, R149, R157): for an earlier access
of its matrix (log entry 25), for a fence that waits, or for an earlier access to the same rows that a .task fence orders before it. -/
def Core.ownBlocked (c : Core) (n : Nat) (rows : List Nat) (load store : Bool) : Bool :=
  let ys := ownAccess load store
  let mine := fun (a : Acc) => match a.loc with
    | .core m _ => m == n && rows.any fun r => a.base < 64 * r + 64 && 64 * r < a.base + a.op.bytes
    | _ => false
  let fences := c.accs.filter Acc.isFence
  (c.accs.any fun a => !a.isFence && ((a.classes.any fun x => ys.any fun y =>
      kept false x y && (x != .aq || covers a.scope || mine a)) || (mine a && fencesOrder fences a.classes a.id ys))) ||
    ((c.wideFences c.accs).any fun f => f.classes.any fun x => ys.any fun y => kept false x y) ||
    c.cmdFenced fences ys

/-- What was issued before place `id` of the program order. -/
def Core.before (c : Core) (id : Nat) : Core :=
  { c with accs := c.accs.filter fun a => decide (a.id < id), cmds := c.cmds.filter fun m => decide (m.id < id) }

/-- Whether a wait that is an acquire wider than the task, c.fwait or c.bwait (R318), must stall: an earlier acquire or fence of the task is
not over (R317, column AQ). -/
def Core.acquireWaits (c : Core) : Bool :=
  (c.accs.any fun a => !a.isFence && a.classes.any fun x => x == .aq && covers a.scope) ||
    (c.wideFences c.accs).any fun f => f.classes.any fun x => kept false x .aq

/-- Whether an engine command must wait for earlier accesses (R246, R317 notes a, b and g): for acquires and fences always, for every one
with .acq; for no other command. -/
def Core.cmdBlocked (c : Core) (id : Nat) (acq : Bool) : Bool :=
  let earlier := c.accs.filter fun a => a.id < id
  (acq && earlier.any fun a => !a.isFence) ||
    (earlier.any fun a => !a.isFence && a.classes.any fun x => kept false x .e) ||
    ((c.openFences earlier [] []).any fun f => f.classes.any fun x => kept false x .e)

/-- The drain of the last l.drain still waits (R158): an access is outstanding, or an engine command is. -/
def Core.drainWaits (c : Core) : Bool :=
  c.drain.isSome && (c.accs.any (fun a => !a.isFence) || c.cmds.any fun m => m.st != .abandoned)

/-- No access is outstanding; fences are none. -/
def Core.accsOver (c : Core) : Bool := !c.accs.any fun a => !a.isFence

/-- Completed fences leave the list. -/
def Core.pruneFences (c : Core) : Core :=
  let opens := c.openFences c.accs [] []
  { c with accs := c.accs.filter fun a => !a.isFence || opens.any fun f => f.id == a.id }

end Sys2Proof.Machine
end

