-- ==== Sys2Proof/Machine/Send.lean ====
section
/-! DEFINITION. What leaves a core and the package: events counted (R341, R408, R444), packets on the routers (R326, R332, R336), requests
on the connections of the transport (R381 to R385, R427), and the egress of a core (R139, R157). -/
namespace Sys2Proof.Machine

/-! ## Events (R341, R365, R408, R444, R446) -/

/-- The codes reported to the security processor's queue (kind F). -/
def eventF (code : Nat) : Bool := 0x10 ≤ code && code ≤ 0x1D && code != 0x17 && code != 0x18 && code != 0x1C

/-- An event is counted, saturating, and if it is of kind F reported. -/
def State.count (s : State) (code : Nat) : State :=
  let s := { s with events := SMap.put 0 s.events code (min (SMap.get 0 s.events code + 1) 0xFFFFFFFF) }
  if eventF code then s.postEvent code else s

/-- An event of a router is counted there and, of kind F, reported (R341). -/
def State.countAt (s : State) (router code : Nat) : State :=
  let k := 256 * router + code
  let s := { s with routerEvents := SMap.put 0 s.routerEvents k (min (SMap.get 0 s.routerEvents k + 1) 0xFFFFFFFF) }
  if eventF code then s.postEvent code else s

/-- An event of a router counted k times. -/
def State.countN (s : State) (router code k : Nat) : State := (List.range k).foldl (fun s _ => s.countAt router code) s

/-! ## Slot tables (R328, R329) -/

/-- What an entry holds after cold start. -/
def slotEmpty : BitVec 32 := 0x1FFFFF
def State.slotEntry (s : State) (router slot : Nat) : BitVec 32 := SMap.get slotEmpty s.slotTab (256 * router + slot)

/-- Field INi of an entry. -/
def slotField (e : BitVec 32) (i : Nat) : Nat := e.toNat / 2 ^ (3 * i) % 8

/-- The entry that acts at a time: one written acts from the next slot 0 on. -/
def State.actingEntry (s : State) (router slot time : Nat) : BitVec 32 :=
  match SMap.get none s.slotOld (256 * router + slot) with
  | some (e, t) => if time / 256 = t / 256 then e else s.slotEntry router slot
  | none => s.slotEntry router slot

/-- The output an entry reserves for an input: its own port reads as 7, and of two inputs with one output the lower keeps it. -/
def reservedOut (e : BitVec 32) (i : Nat) : Nat :=
  let o := slotField e i
  if o = i || (List.range i).any (fun j => slotField e j == o && j != o) then 7 else o

/-- The reserved slots of a router that have passed, each reserved output of an entry one. -/
def State.reservedUpTo (s : State) (router : Nat) : Nat :=
  let r := SMap.get (0, 0) s.reserved router
  r.1 + ((List.range (s.clock - r.2)).map fun k =>
    let t := r.2 + 1 + k
    ((List.range 7).filter fun i => reservedOut (s.actingEntry router (t % 256) t) i != 7).length).sum

/-- CIDLE of a router: the reserved slots that carried no circuit flit, saturating (R341). -/
def State.cidle (s : State) (router : Nat) : Nat :=
  min 0xFFFFFFFF (s.reservedUpTo router - SMap.get 0 s.routerEvents (256 * router + 2))

/-! ## Routers (R326) -/

def State.sister (s : State) (d : Nat) : Sister := SMap.get {} s.sisters d

/-- The logical cluster of a core within its die, and its physical cluster (R285). -/
def dieCluster (n : Nat) : Nat := coreX n % 8 / 4 + 2 * (coreY n % 8 / 2)
def State.physCluster (s : State) (n : Nat) : Nat := (s.sister (dieOf n)).phys.getD (dieCluster n) 15

/-- The physical router of a core as packet fields carry it: die, then 12 * row + column (R326, R336). -/
def State.routerOf (s : State) (n : Nat) : Nat :=
  let pc := s.physCluster n
  128 * dieOf n + 12 * (2 * (pc / 3) + coreY n % 2) + 4 * (pc % 3) + coreX n % 4

/-- The header of R336. -/
def pktHeader (dst src kind nfl pcls : Nat) (cid : Option Nat) (bur : Bool) (ofc : BitVec 64) : BitVec 128 :=
  BitVec.ofNat 128 (dst % 512 + 2 ^ 9 * (src % 512) + 2 ^ 18 * kind + 2 ^ 22 * nfl + 2 ^ 25 * pcls +
    (if cid.isSome then 2 ^ 27 else 0) + (if bur then 2 ^ 28 else 0) + 2 ^ 32 * cid.getD 0 + 2 ^ 64 * ofc.toNat)

/-- The circuit of a launch from one core to another (R330, R331). -/
def State.circuitOf (s : State) (n m : Nat) : Option Nat :=
  match s.launch (s.core n).lid with
  | some l => (l.circs.find? fun c => c.src == n && c.dst == m && !c.slots.isEmpty).map Circ.id
  | none => none

/-- A packet leaves core n for core m. -/
def State.sendPkt (s : State) (n m kind nfl pcls : Nat) (ofc : BitVec 64) (body : PktBody) : State :=
  let h := pktHeader (s.routerOf m) (s.routerOf n) kind nfl pcls (s.circuitOf n m) false ofc
  let s := { s with
    pkts := SMap.set s.pkts s.nextPkt (some { hdr := h, at_ := s.routerOf n, core := m, body := body, since := s.clock })
    nextPkt := s.nextPkt + 1 }
  if s.routerOf n = s.routerOf m then s.countN (s.routerOf n) 1 (1 + nfl) else s

/-- The router at whose port 5 the flag file of a cluster stands (R326; which one: log entry 91). -/
def State.fileRouter (s : State) (cl : Nat) : Nat := s.routerOf (clusterCore cl 0)

/-- An increment joins those that have reached a flag file (R279). -/
def State.flagArrives (s : State) (cl flag amount : Nat) (src : Option (Nat × Nat)) : State :=
  let t := SMap.get {} s.clusters cl
  { s with clusters := SMap.set s.clusters cl { t with arrived := t.arrived ++ [⟨flag, amount, src⟩] } }

/-- What a packet that has come to its destination's router is given to at once: a flag file, the landings of a core. Others wait there for
their own step. -/
def State.landPkt (s : State) (k : Nat) (p : Pkt) : State :=
  match p.body with
  | .flag cl f n src => { s.flagArrives cl f n src with pkts := SMap.put none s.pkts k none }
  | .chunk t => { s with pkts := SMap.put none s.pkts k none, fab := { s.fab with tens := s.fab.tens ++ [t] } }
  | _ => s

/-- Flags of a cluster on their way to its file. -/
def State.flagsMoving (s : State) (cl : Nat) : Nat :=
  (s.pkts.filter fun e => match e.2 with
    | some p => (match p.body with | .flag c _ _ _ => c == cl | _ => false)
    | none => false).length

/-- The next path class toward core m, round robin over 0 to 3 (R332). -/
def Core.takeClass (c : Core) (m : Nat) : Core × Nat :=
  let k := SMap.get 0 c.classRR m % 4
  ({ c with classRR := SMap.put 0 c.classRR m ((k + 1) % 4) }, k)

/-- A row of an engine command leaves core n for core m with its path class (R332). -/
def State.sendEngineRow (s : State) (n m kind nfl : Nat) (body : PktBody) : State :=
  let r := (s.core n).takeClass m
  (s.setCore n r.1).sendPkt n m kind nfl r.2 0 body

/-- A packet from a router that needs no step of its own at its end: it lands at once where it has no way to go. -/
def State.sendLanding (s : State) (src dst m kind nfl pcls : Nat) (cid : Option Nat) (body : PktBody) : State :=
  let p : Pkt := { hdr := pktHeader dst src kind nfl pcls cid false 0, at_ := src, core := m, body := body, since := s.clock }
  let k := s.nextPkt
  let s := { s with pkts := SMap.set s.pkts k (some p), nextPkt := k + 1 }
  if src = dst then (s.countN dst 1 (1 + nfl)).landPkt k p else s

/-- An increment leaves a router for the flag file of a cluster (KIND 8), or for the scheduler, which queues it where the cluster is switched
out. -/
def State.sendFlagFrom (s : State) (src pcls cl flag amount : Nat) (by_ : Option (Nat × Nat)) : State :=
  if 32 ≤ cl then s.flagArrives cl flag amount by_
  else s.sendLanding src (s.fileRouter cl) (clusterCore cl 0) 8 0 pcls none (.flag cl flag amount by_)

/-- A signal leaves the flag file of a cluster (R281), with a path class of its own (R332). -/
def State.sendFlagOf (s : State) (from_ cl flag amount : Nat) : State :=
  let n := clusterCore from_ 0
  let r := (s.core n).takeClass (512 + cl)
  (s.setCore n r.1).sendFlagFrom (s.fileRouter from_) r.2 cl flag amount none

/-- An increment leaves core n. -/
def State.sendFlag (s : State) (n cl flag amount : Nat) (by_ : Option (Nat × Nat)) : State :=
  let r := (s.core n).takeClass (256 + cl)
  (s.setCore n r.1).sendFlagFrom (s.routerOf n) r.2 cl flag amount by_

/-- A landing chunk leaves core n for a landing of core m (KIND 6). -/
def State.sendChunk (s : State) (n m : Nat) (t : TPkt) : State :=
  let r := (s.core n).takeClass m
  (s.setCore n r.1).sendLanding (s.routerOf n) (s.routerOf m) m 6 (min 4 t.p.rows.length) r.2 (s.circuitOf n m) (.chunk t)

/-- A reply with data, or an acknowledgement, leaves core m for the core whose access or row performed there (KIND 1, 4). -/
def State.sendReply (s : State) (m n nfl : Nat) (body : PktBody) : State :=
  let r := (s.core m).takeClass n
  (s.setCore m r.1).sendPkt m n (if nfl = 0 then 4 else 1) nfl r.2 0 body

/-! ## Connections (R381, R383, R427) -/

/-- The port a number names: of two ports joined into one, the even one's (R379). -/
def State.portOf (s : State) (p : Nat) : Nat := if s.sec.conf.joined.getLsbD (p / 2) then p / 2 * 2 else p

def State.conn (s : State) (c : Nat) : Option Conn := SMap.get none s.fab.conns c
def State.setConn (s : State) (c : Nat) (x : Conn) : State := { s with fab := { s.fab with conns := SMap.set s.fab.conns c (some x) } }

/-- The open connection of a kind to a peer for a world. -/
def State.findConn (s : State) (hop ordered : Bool) (world peer : Nat) : Option Nat :=
  (s.fab.conns.find? fun e => match e.2 with
    | some c => c.hop == hop && c.ordered == ordered && c.world == world && c.peer == peer
    | none => false).map Prod.fst

/-- The lowest number no open connection has. -/
def State.freeConn (s : State) : Nat :=
  let used := s.fab.conns.filterMap fun e => e.2.map fun _ => e.1
  ((List.range (used.length + 1)).find? fun k => !used.contains k).getD 0

/-- The connection, opened with the values of R427 if none exists; the far end is asked for it (R380). -/
def State.openConn (s : State) (hop ordered : Bool) (world peer : Nat) : State × Nat :=
  match s.findConn hop ordered world peer with
  | some c => (s, c)
  | none =>
    let c := s.freeConn
    let s := s.setConn c { world := world, peer := peer, hop := hop, ordered := ordered }
    ({ s with fab := { s.fab with wire := s.fab.wire ++ [{ conn := c, psn := 0, ent := 0, payload := .setup s.pkg world (if ordered then 1 else 0) hop }] } }, c)

/-- The next enabled entropy value after one. -/
def nextEnt (mask : BitVec 16) (e : Nat) : Nat :=
  ((List.range 16).map fun k => (e + 1 + k) % 16).find? (fun k => mask.getLsbD k) |>.getD e

/-- A packet is put on the wire with the connection's next PSN (R381, R383). -/
def State.transmit (s : State) (c : Nat) (x : Conn) (lid : Nat) (pay : FabPayload) : State :=
  let e := nextEnt x.mask x.ent
  let s := s.setConn c { x with psn := (x.psn + 1) % 2 ^ 32, ent := e, out := x.out ++ [⟨x.psn, e, lid, pay⟩] }
  { s with fab := { s.fab with wire := s.fab.wire ++ [{ conn := c, psn := x.psn, ent := e, payload := pay }] } }

/-- Whether the window lets one more packet out (R429); none beyond the 64th from the lowest that is not acknowledged (R383). -/
def Conn.room (x : Conn) : Bool :=
  x.out.length < x.window && match x.out with
    | o :: _ => decide ((x.psn + 2 ^ 32 - o.psn) % 2 ^ 32 < 64)
    | [] => true

/-- A payload is given to a connection: sent at once, or held until the window has room. -/
def State.connSend (s : State) (c lid : Nat) (pay : FabPayload) : State :=
  match s.conn c with
  | none => s
  | some x =>
    if x.room && x.queue.isEmpty then s.transmit c x lid pay else s.setConn c { x with queue := x.queue ++ [(lid, pay)] }

/-- Packets held for the window leave as it allows, at most `fuel`. -/
def State.connPump (s : State) (c : Nat) : Nat → State
  | 0 => s
  | fuel + 1 =>
    match s.conn c with
    | none => s
    | some x =>
      match x.queue with
      | [] => s
      | (lid, p) :: l => if x.room then (s.transmit c { x with queue := l } lid p).connPump c fuel else s

/-- A request of a world to another package leaves on its connection; the reply is awaited by `src` (R385). -/
def State.request (s : State) (world peer lid : Nat) (src : ReqSrc) (r : FabReq) : State :=
  let t := s.fab.nextTag
  let r := { r with src := s.pkg, tagId := t, world := world }
  let s := { s with fab := { s.fab with nextTag := t + 1, reqs := SMap.set s.fab.reqs t (some ⟨src, peer, r⟩) } }
  let (s, c) := s.openConn false false world peer
  s.connSend c lid (.request r)

/-! ## The egress of a core -/

/-- Whether a core runs in a paired launch (R287, R288, R342). -/
def State.paired (s : State) (n : Nat) : Bool :=
  match s.launch (s.core n).lid with
  | some l => l.rcd.getLsbD 24
  | none => false

/-- Whether a core belongs to the shadow run of a paired launch, whose global writes are discarded (R287). -/
def State.shadow (s : State) (n : Nat) : Bool := s.paired n && (s.core n).run_ == 1

/-- The request an access through the fabric window makes (R155, R385). -/
def Acc.fabReq (a : Acc) (pa : Nat) : Option FabReq :=
  let r : FabReq := ⟨0, 0, 0, .read, pa, 0, [], 0, 0⟩
  match a.op with
  | .load n => some { r with rows := n }
  | .store n d => some { r with kind := .write, data := leBytes n d.toNat }
  | .czero => some { r with kind := .write, addr := pa / 64 * 64, data := leBytes 64 0 }
  | .aop op n z b => some { r with kind := .atomic (.aop op) n z (a.acq && a.rel), operand := b.setWidth 128 }
  | .cas n e v => some { r with kind := .atomic .cas n false (a.acq && a.rel), operand := v, compare := e }
  | _ => none

/-- KIND and data flits of an access to another core (R336). -/
def Acc.pktKind (a : Acc) : Nat × Nat :=
  match a.op with
  | .store n _ => (if a.ofl then 3 else 2, n / 64)
  | _ => (0, 0)

/-- Whether a cluster switched out queues as many increments as it may (R283). -/
def State.flagsFull (s : State) (cl : Nat) : Bool :=
  let t := SMap.get {} s.clusters cl
  t.out && 4096 ≤ t.arrived.length + s.flagsMoving cl

/-- One access leaves the egress, where it may; an increment reaches its flag file, which queues at most 4,096 for a cluster switched out
(R279, R283). -/
def State.sendAcc (s : State) (n : Nat) (a : Acc) : State :=
  let c := s.core n
  if a.sent || a.isFence || c.blocked a then s
  else
    let mark := fun (s : State) => s.modCore n fun c => { c with accs := c.accs.map fun b => if b.id = a.id then { b with sent := true } else b }
    match a.loc with
    | .core m _ => (mark s).sendPkt n m a.pktKind.1 a.pktKind.2 a.pcls a.ofc (.access n a.id)
    | .fab p pa =>
      (match a.fabReq pa with
       | some r =>
         if s.shadow n && (a.countsOCS || a.op == .czero) then
           s.modCore n fun c => { c with accs := c.accs.map fun b => if b.id = a.id then { b with sent := true, reply := some ⟨0, 0, none⟩ } else b }
         else (mark s).request c.spr.world.toNat p a.lid (.acc n a.id) r
       | none => s)
    | .flags cl f =>
      (match a.op with
       | .finc k =>
         if s.flagsFull cl then s else (mark s).sendFlag n cl f k (some (n, a.id))
       | _ => s)
    | _ => s

/-- Every access of a core that may leave its egress leaves it, in program order (R139, R157). -/
def State.egress (s : State) (n : Nat) : State := (s.core n).accs.foldl (fun s a => s.sendAcc n a) s

/-- An access is over: it leaves the outstanding ones, fences that waited for it complete, and what it held back may leave. -/
def State.endAcc (s : State) (n id : Nat) : State :=
  (s.modCore n fun c => ({ c with accs := c.accs.filter fun a => a.id != id }).pruneFences).egress n

end Sys2Proof.Machine
end

