-- ==== Sys2Proof/Machine/Issue.lean ====
section
/-! DEFINITION. Issue of a group on a core: the checks made before issue (R88, R89), stalls (R98), the slots in issue order (R73, R74,
R264), and the commit: results, the loop end test, transfers, the scribe signature and the cycle counters (R86, R96, R99, R102 to R105,
R109 to R111). -/
namespace Sys2Proof.Machine

/-- Where fetch goes after a group commits (R99, R102, R104, R108 to R111), and what C slots do at commit: banks released or taken (R115), units scrubbed (R274). -/
inductive Ctl
  | fall
  | jump (target : Nat) (keep : Bool)
  | skip (target : Nat)
  | tret (epc : Nat)
  | finish
  | trapi (code : Nat)
  | restart
  | bank (take : Bool) (first n : Nat)
  | scrub (units : BitVec 5)
  deriving DecidableEq, Repr

/-- What a slot does: it completes in a state with a transfer; or its group stalls, asking perhaps for a page walk, or for lines of the
host or of other packages; or it raises a cause with FADDR and imm16. -/
inductive SlotOut
  | ok (s : State) (c : Ctl)
  | stall (walk : Option Word)
  | ask (lines : List Loc)
  | trap (cause : Nat) (faddr : Word) (code : Nat)

/-- What a slot is told of its group: the core, the offsets of the group and of the byte after it, the offset of its own word, its
class, its bundle, the scribe count and signature with this group included (R105, R106), and the issuing core as it stood before any
slot of the group: what a slot reads of registers, counters and handles it reads there (R74, R119, R121). -/
structure Ctx where
  n : Nat
  off : Nat
  next : Nat
  word : Nat
  slot : Slot
  second : Bool
  count : BitVec 32
  crc : BitVec 32
  core : Core
  deriving DecidableEq, Repr

abbrev SlotFn := Ctx → State → SlotOut

/-- A slot of a group: the instruction its word decodes to (none: ILLEGAL), its meaning, its class, its word's offset, its bundle. -/
structure Item where
  i : Option Instr
  f : SlotFn
  slot : Slot
  word : Nat
  second : Bool

/-! ## Fetch of a group's extent (R69, R70, R102) -/

/-- Bytes of a bundle by its header: the header and its words (R69). -/
def bundleBytes (hd : Byte) : Nat :=
  let b := fun i => if hd.getLsbD i then 1 else 0
  1 + 4 * (b 0 + b 1 + b 2 + b 3 + b 4) + 8 * (b 5 + b 6)

/-- Bytes of the group at an offset: one bundle, or two where the first one's stop bit is clear (R69). -/
def Core.groupBytes (c : Core) (off : Nat) : Nat :=
  let hd := lineByte c.text off
  let n := bundleBytes hd
  if hd.getLsbD 7 then n else n + bundleBytes (lineByte c.text (off + n))

/-- Fetch follows line-end markers, at most `fuel` of them: a header 0x00 moves it to the next line (R69, R72). -/
def Core.skipMarkers (c : Core) (fuel off : Nat) : Nat :=
  match fuel with
  | 0 => off
  | fuel + 1 => if 0x40000 ≤ off ∨ lineByte c.text off ≠ 0 then off else c.skipMarkers fuel ((off / 64 + 1) * 64)

/-- The offset at which the group fetched from `off` begins. -/
def Core.groupAt (c : Core) (off : Nat) : Nat := c.skipMarkers 4096 off

/-! ## The scribe signature (R30, R105) -/

/-- One bit of the reflected CRC-32C. -/
def crcBit (c : BitVec 32) : BitVec 32 := if c.getLsbD 0 then (c >>> 1) ^^^ 0x82F63B78#32 else c >>> 1

def crcBits : Nat → BitVec 32 → BitVec 32
  | 0, c => c
  | n + 1, c => crcBits n (crcBit c)

/-- CRC-32C extended by bytes; `crcEnd` gives its value (R30). -/
def crcBytes (c : BitVec 32) : List Byte → BitVec 32
  | [] => c
  | b :: l => crcBytes (crcBits 8 (c ^^^ b.setWidth 32)) l

def crcEnd (c : BitVec 32) : BitVec 32 := ~~~c

/-- The bytes of a slot word. -/
def wordBytes (i : Instr) : List Byte :=
  match encode i with
  | .w32 _ w => leBytes 4 w.toNat
  | .w64 _ w => leBytes 8 w.toNat
  | _ => []

/-- The signature extended by the slots of a group, each with its outcome byte. -/
def Core.signature (c : Core) (items : List Item) : BitVec 32 :=
  items.foldl (fun k it => match it.i with
    | some i => crcBytes k (wordBytes i ++ [if c.guardTrue (guardOf i) then 1 else 0])
    | none => k) c.segCrc

/-! ## Checks before issue (R88) -/

/-- The line target of c.br and c.call, in bytes (R108). -/
def lineTarget (off : Nat) (imm : BitVec 16) : Int := ((off / 64 : Nat) + imm.toInt) * 64

/-- The most slots of a class in a group (R73). -/
def slotMost : Slot → Nat
  | .a | .v => 2
  | _ => 1

/-- The first slot that takes its class past the limit of R73. -/
def overCount (seen : List Slot) : List Item → Option Item
  | [] => none
  | it :: l => if slotMost it.slot ≤ (seen.filter (· == it.slot)).length then some it else overCount (it.slot :: seen) l

/-- The destination a result is on its way to. -/
def RegWrite.res : RegWrite → Res
  | .s n _ _ => .s n
  | .p n _ => .p n
  | .q n _ _ | .qw n _ _ => .q n
  | .v n _ _ lanes _ => .v n lanes
  | .w n _ => .w n
  | .spr n _ => .s (64 + n)
  | .tab ts .. => .tab ts

/-- The destinations of a load's value. -/
def LDst.res : LDst → List Res
  | .none => []
  | .s n => if n = 0 then [] else [.s n]
  | .half v hi => [.v v (halfLanes hi)]
  | .low16 v hi => [.v v (if hi then 0b0100 else 0b0001)]
  | .pair v => [.v v 0b1111]
  | .s2 n => (if n = 0 then [] else [.s n]) ++ [.s (n + 1)]

/-- Destinations of scoreboarded loads, and of a witness form's summary, of the current mode (R86, R97, R223). -/
def Core.scoreboard (c : Core) : List Res :=
  (c.accs.filter fun a => a.handler == c.handler).flatMap (fun a => a.dst.res) ++
    (match c.wit with
     | some w => if w.handler = c.handler ∧ w.sd ≠ 0 then [.s w.sd] else []
     | none => [])

/-- The destinations R87 and R166 name: register lanes, predicates, scalars and masks. A stream register or a table slot may have
several results on their way. -/
def Res.occupied : Res → Bool
  | .q _ | .tab _ => false
  | _ => true

/-- Whether a result of this mode is pending in a destination under R86, or a scoreboarded load has it (R87; log entry 21). -/
def Core.pending (c : Core) (r : Res) : Bool :=
  r.occupied && ((c.pend.any fun p => p.handler == c.handler && p.w.res.meets r) || c.scoreboard.any fun x => x.meets r)

/-! ### Targets of transfers (R72, R108) -/

/-- A poisoned register a slot reads (R143, R167). -/
def Core.poisoned (c : Core) : Res → Bool
  | .s n => SMap.get false c.regs.sPoison n
  | .q n => SMap.get false c.regs.qPoison n
  | .v n lanes => SMap.get 0 c.regs.vPoison n &&& lanes != 0#4
  | _ => false

/-- Whether a register target of c.jmp or c.ret lies past the instruction memory: looked at under a true guard, once its value is there. -/
def Core.badJump (c : Core) (g : Guard) (a : Reg) : Bool :=
  c.guardTrue (some g) && !(c.scoreboard.any fun x => x.meets (.s a.toNat)) && !c.poisoned (.s a.toNat) &&
    decide (0x3FFFF < (c.regs.rs a.toNat).toNat)

/-- R72 applied to c.br and c.call whatever the guard, to c.jmp and c.ret under a true one (R108). -/
def Core.badTarget (c : Core) (off : Nat) : Option Instr → Bool
  | some (.cBr _ l) | some (.cCall _ _ l) => lineTarget off l < 0 || 0x3FFFF < lineTarget off l
  | some (.cJmp g a) | some (.cRet g a) => c.badJump g a
  | _ => false

def Core.arr (c : Core) (a : Bool) : Arr := if a then c.arr1 else c.arr0
def Core.setArr (c : Core) (a : Bool) (x : Arr) : Core := if a then { c with arr1 := x } else { c with arr0 := x }

def Core.tilePending (c : Core) (t : Nat) : Bool := c.passes.any fun p => p.tile == t && p.handler == c.handler

/-- The tiles a pass writes (R203). -/
def passTiles (mt : BitVec 3) (sp : Sparsity) : List Nat :=
  let t := match sp with | .sp16 => 1 | .sp8 => 2 | _ => 4
  (List.range t).map fun k => 4 * (mt.toNat / 4) + (mt.toNat % 4 + k) % 4

/-- The occupancy of an array in the mode of the core. -/
def Core.occ_ (c : Core) (a : Bool) : Occ := if c.handler then (c.arr a).occH else (c.arr a).occT

/-- Whether beats of a pass the other mode issued are still running on an array (R213). -/
def Core.foreignBeats (c : Core) (a : Bool) : Bool :=
  (c.arr a).passHandler != c.handler && decide (c.tick < (c.arr a).passStart + (c.arr a).passBeats)

/-- Whether R87 finds an array occupied: fewer than BEATS groups of the mode, its own group the first, have gone by since the instruction
that occupies it (R208), or beats of the other mode's pass still run (R213; log entry 81). -/
def Core.busyArr (c : Core) (a : Bool) : Bool := (c.occ_ a).left != 0 || c.foreignBeats a

/-- Whether a .dw pass still occupies an array (R200). -/
def Core.busyDw (c : Core) (a : Bool) : Bool := ((c.occ_ a).left != 0 && (c.occ_ a).dw) || (c.foreignBeats a && (c.arr a).passDw)

/-- Occupancy of arrays and tiles (R87, R198, R200, R201, R206). -/
def Core.arrayBusy (c : Core) : Instr → Bool
  | .xZero mt => c.busyArr (mt.getLsbD 2) || c.tilePending mt.toNat
  | .xLdw arr .. => c.busyDw arr
  | .xSwap arr => c.busyArr arr
  | .xMul mt _ _ _ sp _ _ => c.busyArr (mt.getLsbD 2) || (passTiles mt sp).any c.tilePending
  | .xAcc mt _ _ _ _ => c.busyArr (mt.getLsbD 2) || c.tilePending mt.toNat
  | .xSt mt _ _ _ clr => clr && c.tilePending mt.toNat
  | _ => false

/-- The first slot that fails check 5 of R88: lane-group overlap, a destination conflict with an earlier slot, occupancy. -/
def Core.schedFail (c : Core) (lanes : BitVec 4) (seen : List Res) : List Item → Option Item
  | [] => none
  | it :: l =>
    match it.i with
    | none => c.schedFail lanes seen l
    | some i =>
      let o := occupiesOf i
      let w := writesOf i
      if o &&& lanes ≠ 0#4 ∨ c.arrayBusy i ∨ w.any (fun r => seen.any (Res.meets r) || c.pending r) then some it
      else c.schedFail (lanes ||| o) (seen ++ w) l

/-- Instructions that a paired launch may not run (R288, R351, R358, R400). -/
def pairForbidden : Instr → Bool
  | .lAop .. | .lCas .. | .cLaunch .. | .cBpost .. | .cBarr .. | .cBwait .. | .ePut .. | .ePutLand .. | .eGet .. | .eRatom ..
  | .eColl .. | .eMcast .. | .eSig .. => true
  | _ => false

/-- The privilege an instruction's entry requires (R88 check 4). -/
def Core.lacksPriv (c : Core) (paired : Bool) (i : Instr) : Bool := (!c.handler && handlerOnly i) || (paired && pairForbidden i)

/-- Checks 1 to 4 of R88 on decoded words, in order: the cause and the word that fails. `paired`: the core runs in a paired launch. -/
def Core.badEncoding (c : Core) (paired : Bool) (off : Nat) (items : List Item) : Option (Nat × Item) :=
  match items.find? fun it => c.badTarget off it.i with
  | some it => some (cILLEGAL, it)
  | none =>
    match overCount [] items with
    | some it => some (cILLEGAL, it)
    | none =>
      match items.find? fun it => match it.i with | some i => !i.wf || mtsReadOnly i | none => true with
      | some it => some (cILLEGAL, it)
      | none =>
        match items.find? fun it => match it.i with | some i => c.lacksPriv paired i | none => false with
        | some it => some (cPRIV, it)
        | none => none

/-- The checks of R88, the fifth last. -/
def Core.preIssue (c : Core) (paired : Bool) (off : Nat) (items : List Item) : Option (Nat × Item) :=
  match c.badEncoding paired off items with
  | some r => some r
  | none => (c.schedFail 0 [] items).map fun it => (cSCHED, it)

/-! ## Stalls common to all slots (R98) -/

/-- A live slot reads a register a scoreboarded load has pending, or would raise a counter past its limit (R98, R101); or the group
follows an l.drain or a c.tlbi that still waits (R158, R311). -/
def Core.groupStalls (c : Core) (items : List Item) : Bool :=
  let live := items.filterMap fun it => it.i.filter fun i => c.guardTrue (guardOf i)
  let sb := c.scoreboard
  c.tlbiWait || c.drainWaits || (live.any fun i => (readsOf i).any fun r => sb.any (Res.meets r)) ||
    ([Ctr.ocl, .ocs, .occ, .oct].any fun k =>
      let need := (live.filter fun i => counterOf i == some k).length
      need != 0 && k.limit < c.counter k + need)

/-! ## Running the slots -/

/-- One slot: nothing under a false guard (R76), POISON where it reads a mark, else its meaning. -/
def runItem (x : Ctx) (it : Item) (s : State) : SlotOut :=
  match it.i with
  | none => .ok s .fall
  | some i =>
    if x.core.guardTrue (guardOf i) then
      if (readsOf i).any x.core.poisoned then .trap cPOISON (BitVec.ofNat 64 it.word) 0
      else it.f { x with word := it.word, slot := it.slot, second := it.second } s
    else .ok s .fall

def SlotOut.isStall : SlotOut → Bool
  | .stall _ | .ask _ => true
  | _ => false

/-- What the slots of a group come to: the state and transfer of all, or the first stall, or else the first trap with its slot. -/
inductive GroupOut
  | ok (s : State) (c : Ctl)
  | stall (walk : Option Word)
  | ask (lines : List Loc)
  | trap (cause : Nat) (faddr : Word) (code : Nat) (it : Item)

/-- What the first slot of a list that stalls asks for. -/
def firstStall (x : Ctx) (s : State) : List Item → Option GroupOut
  | [] => none
  | it :: l => match runItem x it s with
    | .stall w => some (.stall w)
    | .ask k => some (.ask k)
    | _ => firstStall x s l

/-- The slots in issue order (R73). A stall of any slot comes before a trap of another (R98), its page walk too (R140). Each reads the core
as it stood before the group (R74); results reach registers only at commit. -/
def runItems (x : Ctx) : List Item → State → GroupOut
  | [], s => .ok s .fall
  | it :: l, s =>
    match runItem x it s with
    | .stall w => .stall w
    | .ask l => .ask l
    | .trap cause fa code =>
      (firstStall x s l).getD (.trap cause fa code it)
    | .ok s' k =>
      (match runItems x l s' with
       | .ok s'' k' => .ok s'' (if k = .fall then k' else k)
       | r => r)

/-- A group that stalls is not at issue yet, so what would be a stall is one; else check 5 of R88 comes before what its slots met (R98; log
entry 22). -/
def GroupOut.checked (c : Core) (items : List Item) : GroupOut → GroupOut
  | .stall w => .stall w
  | .ask l => .ask l
  | r => match c.schedFail 0 [] items with | some it => .trap cSCHED (BitVec.ofNat 64 it.word) 0 it | none => r

/-! ## Commit -/

/-- A cycle in which no group issues (R95). -/
def Core.idleCycles (c : Core) (k : Nat) : Core :=
  { c with tick := c.tick + k, spr := { c.spr with cyc := c.spr.cyc + BitVec.ofNat 64 k, stall := c.spr.stall + BitVec.ofNat 64 k } }

/-- A cycle in which a group issues. -/
def Core.issueCycle (c : Core) : Core := { c with tick := c.tick + 1, spr := { c.spr with cyc := c.spr.cyc + 1 } }

/-- The loop stack of the mode (R92). -/
def Core.stack (c : Core) : List Loop := if c.handler then c.hloops else c.loops
def Core.setStack (c : Core) (l : List Loop) : Core := if c.handler then { c with hloops := l } else { c with loops := l }

/-- The loop end test at the group at `off`: the levels left, innermost first, and where fetch continues (R103). -/
def loopEnd (off next : Nat) : List Loop → List Loop × Nat
  | [] => ([], next)
  | lv :: l =>
    if lv.last = off then
      if 1 < lv.lc then ({ lv with lc := lv.lc - 1 } :: l, lv.first) else loopEnd off next l
    else (lv :: l, next)

/-- The levels whose range holds a target (R104). -/
def Core.keepLoops (c : Core) (target : Nat) : Core :=
  c.setStack (c.stack.filter fun lv => lv.first ≤ target && target < lv.last + c.groupBytes lv.last)

/-- The banks a task owns stay those of the ended task until its launch ends (R111, R151). -/
def Core.endTask (c : Core) : Core :=
  { c with run := .ended, pend := [], loops := [], hloops := [], handler := false, monitor := none, drain := none }

/-- Whether a register of a result lies in a unit .sr, .vr or .ft names (R274). -/
def RegWrite.inUnits (u : BitVec 5) : RegWrite → Bool
  | .s .. | .p .. | .q .. | .qw .. => u.getLsbD 0
  | .v .. | .w .. => u.getLsbD 1
  | .tab .. => u.getLsbD 3
  | .spr .. => false

/-- The results on their way into the named units are discarded (R274). -/
def Core.dropPending (c : Core) (u : BitVec 5) : Core :=
  { c with pend := c.pend.filter fun p => !p.w.inUnits u, passes := if u.getLsbD 2 then [] else c.passes }

/-- Rows of the banks the task owns zeroed: every handle with a row among them clears WB and advances GEN (R218, R274). -/
def Core.scrubBanks (c : Core) : Core :=
  let mine := fun (row : Nat) => SMap.get BankOwner.none c.owner (row / 64) == .task
  { c with
    sp := c.sp.filter fun e => !mine e.1, spPoison := c.spPoison.filter fun e => !mine e.1
    handles := c.handles.map fun e =>
      if (List.range e.2.rows).any fun k => mine (e.2.row0 + k) then (e.1, { e.2 with wb := false, gen := e.2.gen + 1 }) else e }

/-- The named units zeroed (R274). -/
def Core.scrubUnits (c : Core) (u : BitVec 5) : Core :=
  let r := c.regs
  let r := if u.getLsbD 0 then { r with s := [], p := [], q := [], sPoison := [], qPoison := [] } else r
  let r := if u.getLsbD 1 then { r with v := [], w := [], vPoison := [] } else r
  let c := { c with regs := r }
  let c := if u.getLsbD 2 then { c with arr0 := {}, arr1 := {}, tiles := [], tilePoison := [] } else c
  let c := if u.getLsbD 3 then { c with ftab0 := none, ftab1 := none } else c
  if u.getLsbD 4 then c.scrubBanks else c

/-- What a scrub makes of the core (R274). The group's other slots read the core as it was (R74), and their results land after it. -/
def Core.scrubbed (c : Core) (u : BitVec 5) : Core := if u = 0 then c else (c.dropPending u).scrubUnits u

/-- Cycles a scrub takes (R274). -/
def Core.scrubCycles (c : Core) (u : BitVec 5) : Nat :=
  4 + (if u.getLsbD 4 then 64 * ((List.range c.banks).filter fun b => SMap.get BankOwner.none c.owner b == .task).length else 0)

/-- Banks first to first + n − 1 taken by the task or released (R115). -/
def Core.setBanks (c : Core) (take : Bool) (first n : Nat) : Core :=
  { c with owner := (List.range n).foldl (fun m i => SMap.put BankOwner.none m (first + i) (if take then .task else .none)) c.owner }

/-- A group has run: it makes no transfer unless by c.br, c.jmp, c.call or c.ret, so the loop end test is made for a zero-trip c.loop too,
whose way on is the group after the skipped body (R99, R102, R103; log entry 26), and for a c.trap, whose EPC stays the byte after the group
(R109; log entry 27). Its position passes, results are delivered, the scribe and the cycle count advance, and fetch goes on
(R96, R103 to R105, R108 to R111). -/
def Core.commit (c : Core) (x : Ctx) (k : Ctl) : Core :=
  let h := c.handler
  let c := { (c.advance h).issueCycle with walkFault := none, fwait := 0, recs := [] }
  let c := if h then c else { c with segCount := x.count, segCrc := x.crc }
  match k with
  | .fall =>
    let r := loopEnd x.off x.next c.stack
    { c.setStack r.1 with pc := r.2 }
  | .restart =>
    let c := if h then c else { c with segCount := 0, segCrc := 0xFFFFFFFF }
    let r := loopEnd x.off x.next c.stack
    { c.setStack r.1 with pc := r.2 }
  | .bank take first n =>
    let r := loopEnd x.off x.next c.stack
    { (c.setBanks take first n).setStack r.1 with pc := r.2 }
  | .scrub u =>
    let r := loopEnd x.off x.next c.stack
    { (c.idleCycles (c.scrubCycles u)).setStack r.1 with pc := r.2 }
  | .jump t keep => { ((if keep then c else c.keepLoops t).idleCycles 2) with pc := t }
  | .skip t =>
    let r := loopEnd x.off t c.stack
    { c.setStack r.1 with pc := r.2 }
  | .tret epc => (c.returnFromTrap epc).idleCycles 2
  | .finish => c.endTask
  | .trapi _ => { c.setStack (loopEnd x.off x.next c.stack).1 with pc := x.next }

def isFwait : Instr → Bool
  | .cFwait .. => true
  | _ => false

/-- Whether a c.fwait of the group stalls it, whatever else does (R280). -/
def waitsFlag (x : Ctx) (items : List Item) (s : State) : Bool :=
  items.any fun it => match it.i with | some i => isFwait i && (runItem x it s).isStall | none => false

/-- The state after a stall cycle; a page walk asked for begins (R98, R140, R309). Cycles of a c.fwait that waits are counted for
the clock gate (R280). -/
def State.stallCycle (s : State) (n : Nat) (walk : Option Word) (fwait : Bool) : State :=
  s.modCore n fun c => { c.idleCycles 1 with
    walk := if c.walk.isSome then c.walk else walk, fwait := if fwait then c.fwait + 1 else 0 }

/-- Lines a stalled c.launch needs are asked for once: of the host (R297), of another package (R291, R351). -/
def State.askAll (s : State) (n : Nat) : List Loc → State
  | [] => s
  | .mem pa _ :: l => (s.askHost (pa / 64) false).askAll n l
  | .fab p pa :: l =>
    let c := s.core n
    if c.recs.any fun r => r.pkg == p && r.pa == pa then s.askAll n l
    else
      ((s.setCore n { c with recs := c.recs ++ [⟨p, pa, none, none⟩] }).request c.spr.world.toNat p c.lid (.rec_ n pa)
        ⟨0, 0, 0, .read, pa, 64, [], 0, 0⟩).askAll n l
  | _ :: l => s.askAll n l

/-- The units a group's c.scrub zeroes (R274): none without one. -/
def Core.scrubOf (c : Core) (items : List Item) : BitVec 5 :=
  match items.find? fun it => match it.i with | some (.cScrub ..) => true | _ => false with
  | some ⟨some (.cScrub g u), _, _, _, _⟩ => if c.guardTrue (some g) then u else 0
  | _ => 0

/-- The core on which the slots of a group leave their effects: the group of the last l.drain is behind it (R158), and a c.scrub of its own
has zeroed its units, so that what the other slots leave stands after it (R274). What they read they read in `Ctx.core`, as it was. -/
def Core.begun (c : Core) (items : List Item) : Core := { c with drain := none }.scrubbed (c.scrubOf items)

/-- A group at offset `off` with its slots issues on core `n`, stalls, or traps. An asynchronous cause is taken first (R264). -/
def issueGroup (n off next : Nat) (items : List Item) (s : State) : State :=
  let c := s.core n
  if !c.handler && !c.async.isEmpty then s.takeAsync n
  else match c.badEncoding (s.paired n) off items with
    | some (cause, it) => s.takeTrap n cause it.slot.code it.second 0 (BitVec.ofNat 64 it.word) off
    | none =>
      if c.groupStalls items then s.stallCycle n none false
      else
        let x : Ctx := ⟨n, off, next, off, .c, false, c.segCount + 1, c.signature items, { c with drain := none }⟩
        let fw := waitsFlag x items (s.modCore n fun c => c.begun items)
        match (runItems x items (s.modCore n fun c => c.begun items)).checked c items with
        | .stall w => s.stallCycle n w fw
        | .ask l => (s.stallCycle n none fw).askAll n l
        | .trap cause fa code it =>
          if cause = cBREAK ∧ s.debugLevel c.spr.world.toNat = 2 then s.debugBreak n code
          else s.takeTrap n cause it.slot.code it.second code fa off
        | .ok s' k =>
          let s'' := (s'.modCore n fun c => c.commit x k).egress n
          match k with
          | .finish => s''.taskEnded n c.handler
          | .tret _ => (s''.lowerLine c.lid).haltAtReturn n
          | .trapi code =>
            let sl := items.find? fun it => match it.i with | some (.cTrap ..) => true | _ => false
            (s''.takeTrap n cTRAPI 0 (match sl with | some it => it.second | none => false) code 0 next).modCore n fun c =>
              if c.run = .nested then { c with hoff := off } else c
          | _ => s''

/-- The class and length of an instruction's slot word. -/
def slotOf (i : Instr) : Slot :=
  match encode i with
  | .w32 s _ | .w64 s _ => s
  | _ => .c

/-- One slot instruction as a group of its own on the current core: a bundle at the core's pc with this one word (R69, R90). -/
def issueSolo (i : Instr) (f : SlotFn) (s : State) : Out :=
  let n := s.cur
  let off := (s.core n).pc
  .next (issueGroup n off (off + 1 + (slotOf i).bytes) [⟨some i, f, slotOf i, off + 1, false⟩] s)

end Sys2Proof.Machine
end

