-- ==== Sys2Proof/Machine/A.lean ====
section
/-! DEFINITION. The A slot (R116 to R121): latency 1, 64-bit two's complement, no flags, no traps on overflow. -/
namespace Sys2Proof.Machine

/-- A slot whose one effect is a register result of latency n (R86). -/
def retire (x : Ctx) (s : State) (n : Nat) (w : RegWrite) : SlotOut := .ok (s.modCore x.n fun c => c.push n w) .fall

/-- A scalar result of the A slot. -/
def setS (x : Ctx) (s : State) (d : Reg) (v : Word) : SlotOut := retire x s 1 (.s d.toNat v false)
/-- A predicate result of the A slot. -/
def setP (x : Ctx) (s : State) (d : BitVec 3) (b : Bool) : SlotOut := retire x s 1 (.p d.toNat b)

/-- Register operands as they stood before any slot of the group (R74). -/
def srcS (x : Ctx) (a : Reg) : Word := x.core.regs.rs a.toNat
def srcP (x : Ctx) (p : BitVec 3) : Bool := x.core.regs.rp p.toNat
def srcQ (x : Ctx) (q : BitVec 4) : Desc := x.core.regs.rq q.toNat

/-- Leading zero bits of n low bits. -/
def clz (v : Word) : Nat → Nat
  | 0 => 0
  | n + 1 => if v.getLsbD n then 0 else 1 + clz v n

/-- One bits among n low bits. -/
def popCount (v : Word) : Nat → Nat
  | 0 => 0
  | n + 1 => (if v.getLsbD n then 1 else 0) + popCount v n

/-- Shifts by a full register (R117): 64 or more gives 0, or the sign. -/
def shlW (v amt : Word) : Word := if 64 ≤ amt.toNat then 0 else v <<< amt.toNat
def shrW (v amt : Word) : Word := if 64 ≤ amt.toNat then 0 else v >>> amt.toNat
def sarW (v amt : Word) : Word := v.sshiftRight (min amt.toNat 64)

/-- Bits 127:64 of the product (R117). -/
def mulhW (v w : Word) (z : Bool) : Word :=
  if z then BitVec.ofNat 64 (v.toNat * w.toNat / 2 ^ 64) else BitVec.ofInt 64 (v.toInt * w.toInt / ((2 ^ 64 : Nat) : Int))

/-- The lesser and the greater (R117). -/
def minW (v w : Word) (z : Bool) : Word := if (if z then v.ult w else v.slt w) then v else w
def maxW (v w : Word) (z : Bool) : Word := if (if z then v.ult w else v.slt w) then w else v

/-- What a.hq reads of a handle (R121): a free handle reads 0 in every field but the generation. -/
def hqWord (h : Handle) : Word :=
  if h.st = 0 then (h.gen.setWidth 64) <<< 16
  else
    let items := if h.ring then (h.prod + 2 * (h.rows / 2 ^ h.isz) - h.cons) % (2 * (h.rows / 2 ^ h.isz)) else 0
    BitVec.ofNat 64 (h.st + (if h.ring then 4 else 0) + (if h.land then 8 else 0) + 65536 * h.gen.toNat + 2 ^ 32 * items)

/-- sA + sB (R117). -/
def slotAAdd (d a b : Reg) : SlotFn := fun x s =>
  setS x s d (srcS x a + srcS x b)
def execAAdd (g : Guard) (d a b : Reg) (s : State) : Out := issueSolo (.aAdd g d a b) (slotAAdd d a b) s

/-- sA − sB (R117). -/
def slotASub (d a b : Reg) : SlotFn := fun x s =>
  setS x s d (srcS x a - srcS x b)
def execASub (g : Guard) (d a b : Reg) (s : State) : Out := issueSolo (.aSub g d a b) (slotASub d a b) s

/-- Bitwise and (R117). -/
def slotAAnd (d a b : Reg) : SlotFn := fun x s =>
  setS x s d (srcS x a &&& srcS x b)
def execAAnd (g : Guard) (d a b : Reg) (s : State) : Out := issueSolo (.aAnd g d a b) (slotAAnd d a b) s

/-- Bitwise or (R117). -/
def slotAOr (d a b : Reg) : SlotFn := fun x s =>
  setS x s d (srcS x a ||| srcS x b)
def execAOr (g : Guard) (d a b : Reg) (s : State) : Out := issueSolo (.aOr g d a b) (slotAOr d a b) s

/-- Bitwise exclusive or (R117). -/
def slotAXor (d a b : Reg) : SlotFn := fun x s =>
  setS x s d (srcS x a ^^^ srcS x b)
def execAXor (g : Guard) (d a b : Reg) (s : State) : Out := issueSolo (.aXor g d a b) (slotAXor d a b) s

/-- sA shifted left by sB (R117). -/
def slotAShl (d a b : Reg) : SlotFn := fun x s =>
  setS x s d (shlW (srcS x a) (srcS x b))
def execAShl (g : Guard) (d a b : Reg) (s : State) : Out := issueSolo (.aShl g d a b) (slotAShl d a b) s

/-- sA shifted right by sB with zero fill (R117). -/
def slotAShr (d a b : Reg) : SlotFn := fun x s =>
  setS x s d (shrW (srcS x a) (srcS x b))
def execAShr (g : Guard) (d a b : Reg) (s : State) : Out := issueSolo (.aShr g d a b) (slotAShr d a b) s

/-- sA shifted right by sB with sign fill (R117). -/
def slotASar (d a b : Reg) : SlotFn := fun x s =>
  setS x s d (sarW (srcS x a) (srcS x b))
def execASar (g : Guard) (d a b : Reg) (s : State) : Out := issueSolo (.aSar g d a b) (slotASar d a b) s

/-- Bits 63:0 of sA * sB (R117). -/
def slotAMul (d a b : Reg) : SlotFn := fun x s =>
  setS x s d (srcS x a * srcS x b)
def execAMul (g : Guard) (d a b : Reg) (s : State) : Out := issueSolo (.aMul g d a b) (slotAMul d a b) s

/-- Bits 127:64 of sA * sB, signed or with .z unsigned (R117). -/
def slotAMulh (d a b : Reg) (z : Bool) : SlotFn := fun x s =>
  setS x s d (mulhW (srcS x a) (srcS x b) z)
def execAMulh (g : Guard) (d a b : Reg) (z : Bool) (s : State) : Out := issueSolo (.aMulh g d a b z) (slotAMulh d a b z) s

/-- The lesser, signed or with .z unsigned (R117). -/
def slotAMin (d a b : Reg) (z : Bool) : SlotFn := fun x s =>
  setS x s d (minW (srcS x a) (srcS x b) z)
def execAMin (g : Guard) (d a b : Reg) (z : Bool) (s : State) : Out := issueSolo (.aMin g d a b z) (slotAMin d a b z) s

/-- The greater, signed or with .z unsigned (R117). -/
def slotAMax (d a b : Reg) (z : Bool) : SlotFn := fun x s =>
  setS x s d (maxW (srcS x a) (srcS x b) z)
def execAMax (g : Guard) (d a b : Reg) (z : Bool) (s : State) : Out := issueSolo (.aMax g d a b z) (slotAMax d a b z) s

/-- pD <- the comparison of sA with sB (R118). -/
def slotACmp (cond : ACond) (p : BitVec 3) (a b : Reg) : SlotFn := fun x s =>
  setP x s p (aCondHolds cond (srcS x a) (srcS x b))
def execACmp (g : Guard) (cond : ACond) (p : BitVec 3) (a b : Reg) (s : State) : Out := issueSolo (.aCmp g cond p a b) (slotACmp cond p a b) s

/-- sA if pK is true, else sB (R117). -/
def slotASel (d a b : Reg) (p : BitVec 3) : SlotFn := fun x s =>
  setS x s d (if srcP x p then srcS x a else srcS x b)
def execASel (g : Guard) (d a b : Reg) (p : BitVec 3) (s : State) : Out := issueSolo (.aSel g d a b p) (slotASel d a b p) s

/-- Leading zero bits of sA (R117). -/
def slotAClz (d a : Reg) : SlotFn := fun x s =>
  setS x s d (BitVec.ofNat 64 (clz (srcS x a) 64))
def execAClz (g : Guard) (d a : Reg) (s : State) : Out := issueSolo (.aClz g d a) (slotAClz d a) s

/-- One bits of sA (R117). -/
def slotAPop (d a : Reg) : SlotFn := fun x s =>
  setS x s d (BitVec.ofNat 64 (popCount (srcS x a) 64))
def execAPop (g : Guard) (d a : Reg) (s : State) : Out := issueSolo (.aPop g d a) (slotAPop d a) s

/-- sA + sext(imm11) (R117). -/
def slotAAddi (d a : Reg) (imm : BitVec 11) : SlotFn := fun x s =>
  setS x s d (srcS x a + imm.signExtend 64)
def execAAddi (g : Guard) (d a : Reg) (imm : BitVec 11) (s : State) : Out := issueSolo (.aAddi g d a imm) (slotAAddi d a imm) s

/-- sA and zext(imm11) (R117). -/
def slotAAndi (d a : Reg) (imm : BitVec 11) : SlotFn := fun x s =>
  setS x s d (srcS x a &&& imm.setWidth 64)
def execAAndi (g : Guard) (d a : Reg) (imm : BitVec 11) (s : State) : Out := issueSolo (.aAndi g d a imm) (slotAAndi d a imm) s

/-- sA or zext(imm11) (R117). -/
def slotAOri (d a : Reg) (imm : BitVec 11) : SlotFn := fun x s =>
  setS x s d (srcS x a ||| imm.setWidth 64)
def execAOri (g : Guard) (d a : Reg) (imm : BitVec 11) (s : State) : Out := issueSolo (.aOri g d a imm) (slotAOri d a imm) s

/-- sA exclusive or zext(imm11) (R117). -/
def slotAXori (d a : Reg) (imm : BitVec 11) : SlotFn := fun x s =>
  setS x s d (srcS x a ^^^ imm.setWidth 64)
def execAXori (g : Guard) (d a : Reg) (imm : BitVec 11) (s : State) : Out := issueSolo (.aXori g d a imm) (slotAXori d a imm) s

/-- sA shifted left by imm11 (R117). -/
def slotAShli (d a : Reg) (imm : BitVec 6) : SlotFn := fun x s =>
  setS x s d (srcS x a <<< imm.toNat)
def execAShli (g : Guard) (d a : Reg) (imm : BitVec 6) (s : State) : Out := issueSolo (.aShli g d a imm) (slotAShli d a imm) s

/-- sA shifted right by imm11 with zero fill (R117). -/
def slotAShri (d a : Reg) (imm : BitVec 6) : SlotFn := fun x s =>
  setS x s d (srcS x a >>> imm.toNat)
def execAShri (g : Guard) (d a : Reg) (imm : BitVec 6) (s : State) : Out := issueSolo (.aShri g d a imm) (slotAShri d a imm) s

/-- sext(imm16) (R117). -/
def slotALi (d : Reg) (imm : BitVec 16) : SlotFn := fun x s =>
  setS x s d (imm.signExtend 64)
def execALi (g : Guard) (d : Reg) (imm : BitVec 16) (s : State) : Out := issueSolo (.aLi g d imm) (slotALi d imm) s

/-- (sD shl 16) or zext(imm16) (R117). -/
def slotALih (d : Reg) (imm : BitVec 16) : SlotFn := fun x s =>
  setS x s d ((srcS x d <<< 16) ||| imm.setWidth 64)
def execALih (g : Guard) (d : Reg) (imm : BitVec 16) (s : State) : Out := issueSolo (.aLih g d imm) (slotALih d imm) s

/-- sA (R117). -/
def slotAMov (d a : Reg) : SlotFn := fun x s =>
  setS x s d (srcS x a)
def execAMov (g : Guard) (d a : Reg) (s : State) : Out := issueSolo (.aMov g d a) (slotAMov d a) s

/-- The special register as it stands at issue (R119). -/
def slotAMfs (d n : Reg) : SlotFn := fun x s =>
  setS x s d (x.core.readSpr n.toNat)
def execAMfs (g : Guard) (d n : Reg) (s : State) : Out := issueSolo (.aMfs g d n) (slotAMfs d n) s

/-- A special register of kind rw takes sA for the groups that follow (R119); the mode and the kind are checked before
issue. Two of one group that name the same register: the later in issue order stands (log entry 79). -/
def slotAMts (n a : Reg) : SlotFn := fun x s =>
  retire x s 1 (.spr n.toNat (srcS x a))
def execAMts (g : Guard) (n a : Reg) (s : State) : Out := issueSolo (.aMts g n a) (slotAMts n a) s

/-- pA and pB (R118). -/
def slotAPand (d a b : BitVec 3) : SlotFn := fun x s =>
  setP x s d (srcP x a && srcP x b)
def execAPand (g : Guard) (d a b : BitVec 3) (s : State) : Out := issueSolo (.aPand g d a b) (slotAPand d a b) s

/-- pA or pB (R118). -/
def slotAPor (d a b : BitVec 3) : SlotFn := fun x s =>
  setP x s d (srcP x a || srcP x b)
def execAPor (g : Guard) (d a b : BitVec 3) (s : State) : Out := issueSolo (.aPor g d a b) (slotAPor d a b) s

/-- pA exclusive or pB (R118). -/
def slotAPxor (d a b : BitVec 3) : SlotFn := fun x s =>
  setP x s d (srcP x a != srcP x b)
def execAPxor (g : Guard) (d a b : BitVec 3) (s : State) : Out := issueSolo (.aPxor g d a b) (slotAPxor d a b) s

/-- not pA (R118). -/
def slotAPnot (d a : BitVec 3) : SlotFn := fun x s =>
  setP x s d (!srcP x a)
def execAPnot (g : Guard) (d a : BitVec 3) (s : State) : Out := issueSolo (.aPnot g d a) (slotAPnot d a) s

/-- Word N of qD <- sA; a bound register raises STREAM (R120); w3[54:48] stays zero (R192). -/
def slotAQset (q : BitVec 4) (a : Reg) (wn : BitVec 2) : SlotFn := fun x s =>
  if Desc.bound (srcQ x q) then .trap cSTREAM (BitVec.ofNat 64 q.toNat) 0
  else retire x s 1 (.qw q.toNat wn (srcS x a))
def execAQset (g : Guard) (q : BitVec 4) (a : Reg) (wn : BitVec 2) (s : State) : Out := issueSolo (.aQset g q a wn) (slotAQset q a wn) s

/-- sD <- word N of qA (R120). -/
def slotAQget (d : Reg) (q : BitVec 4) (wn : BitVec 2) : SlotFn := fun x s =>
  setS x s d (qWord (srcQ x q) wn)
def execAQget (g : Guard) (d : Reg) (q : BitVec 4) (wn : BitVec 2) (s : State) : Out := issueSolo (.aQget g d q wn) (slotAQget d q wn) s

/-- The state of handle hK, sampled at issue (R121). -/
def slotAHq (d : Reg) (h : BitVec 6) : SlotFn := fun x s =>
  setS x s d (hqWord (x.core.handle h.toNat))
def execAHq (g : Guard) (d : Reg) (h : BitVec 6) (s : State) : Out := issueSolo (.aHq g d h) (slotAHq d h) s

end Sys2Proof.Machine
end

