-- ==== Sys2Proof/Machine/V.lean ====
section
/-! DEFINITION. The V slot (R163 to R184), but for the witness forms and v.adjb, which stand in Witness.lean. -/
namespace Sys2Proof.Machine

/-- A vector, a mask register as they stood before any slot of the group (R74). -/
def srcV (x : Ctx) (a : Reg) : VReg := x.core.regs.rv a.toNat
def srcM (x : Ctx) (m : BitVec 2) : Mask := x.core.regs.rw m.toNat

/-- Latency 2 with an integer or Q4 type, 4 with a floating one (R86, R168). -/
def vLat (t : Fmt) : Nat := if t.isFloat then 4 else 2

/-- The whole range of vD is written (R163). -/
def putRange (x : Ctx) (s : State) (lat : Nat) (d : Reg) (r : VRange) (v : VReg) : SlotOut :=
  retire x s lat (.v d.toNat (VRange.mask r) v (VRange.lanes r) 0)

/-- Elements of n bits written under merge: an enabled one receives its result, a disabled one keeps what vD held at issue (R164). -/
def mergeElems (x : Ctx) (s : State) (lat : Nat) (d : Reg) (r : VRange) (n : Nat) (new : List Nat) : SlotOut :=
  let m := srcM x r.m
  let old := elems (srcV x d) r n
  let out := (List.range (VRange.count r n)).map fun i => if enabled m r n i then new.getD i 0 else old.getD i 0
  putRange x s lat d r (rangeOf r n out)

/-- Elementwise forms of one and two vector sources. -/
def mapElems (x : Ctx) (s : State) (lat : Nat) (d a : Reg) (r : VRange) (n : Nat) (f : Nat → Nat) : SlotOut :=
  mergeElems x s lat d r n ((elems (srcV x a) r n).map f)
def zipElems (x : Ctx) (s : State) (lat : Nat) (d a b : Reg) (r : VRange) (n : Nat) (f : Nat → Nat → Nat) : SlotOut :=
  mergeElems x s lat d r n (List.zipWith f (elems (srcV x a) r n) (elems (srcV x b) r n))

/-- An operation on two elements: exact integers wrapped, or exact values rounded once with rne (R169, R170). -/
def arith (t : Fmt) (fi : Int → Int → Int) (ff : Val → Val → Val) (a b : Nat) : Nat :=
  if t.isFloat then roundFloat t .rne (ff (floatVal t a) (floatVal t b)) else wrapTo t.bits (fi (intOf t a) (intOf t b))

def elemAdd (t : Fmt) : Nat → Nat → Nat := arith t (· + ·) Val.add
def elemSub (t : Fmt) : Nat → Nat → Nat := arith t (· - ·) Val.sub
def elemMul (t : Fmt) : Nat → Nat → Nat := arith t (· * ·) Val.mul

/-- a·b + d, one rounding (R169, R170). -/
def elemFma (t : Fmt) (a b d : Nat) : Nat :=
  if t.isFloat then roundFloat t .rne (((floatVal t a).mul (floatVal t b)).add (floatVal t d))
  else wrapTo t.bits (intOf t a * intOf t b + intOf t d)

/-- A floating element with its sign bit cleared or inverted; a NaN becomes canonical (R170). -/
def elemAbs (t : Fmt) (a : Nat) : Nat :=
  if t.isFloat then (if (floatVal t a).isNan then canonNan t else a % 2 ^ (t.bits - 1))
  else wrapTo t.bits ((intOf t a).natAbs : Int)
def elemNeg (t : Fmt) (a : Nat) : Nat :=
  if t.isFloat then (if (floatVal t a).isNan then canonNan t else a ^^^ 2 ^ (t.bits - 1)) else wrapTo t.bits (-(intOf t a))

/-- Shifts of an n-bit element (R171). -/
def elemShl (n a b : Nat) : Nat := if n ≤ b then 0 else a * 2 ^ b % 2 ^ n
def elemShr (n a b : Nat) : Nat := if n ≤ b then 0 else a / 2 ^ b
def elemSar (n a b : Nat) : Nat := wrapTo n (signedOf n a / ((2 ^ min n b : Nat) : Int))

/-- a + b (R169, R170). -/
def slotVAdd (t : Fmt) (d a b : Reg) (r : VRange) : SlotFn := fun x s =>
  zipElems x s (vLat t) d a b r t.bits (elemAdd t)
def execVAdd (t : Fmt) (d a b : Reg) (r : VRange) (s : State) : Out :=
  issueSolo (.vAdd t d a b r) (slotVAdd t d a b r) s

/-- a − b (R169, R170). -/
def slotVSub (t : Fmt) (d a b : Reg) (r : VRange) : SlotFn := fun x s =>
  zipElems x s (vLat t) d a b r t.bits (elemSub t)
def execVSub (t : Fmt) (d a b : Reg) (r : VRange) (s : State) : Out :=
  issueSolo (.vSub t d a b r) (slotVSub t d a b r) s

/-- a · b (R169, R170). -/
def slotVMul (t : Fmt) (d a b : Reg) (r : VRange) : SlotFn := fun x s =>
  zipElems x s (vLat t) d a b r t.bits (elemMul t)
def execVMul (t : Fmt) (d a b : Reg) (r : VRange) (s : State) : Out :=
  issueSolo (.vMul t d a b r) (slotVMul t d a b r) s

/-- a · b + d, fused (R169, R170). -/
def slotVFma (t : Fmt) (d a b : Reg) (r : VRange) : SlotFn := fun x s =>
  let n := t.bits
  mergeElems x s (vLat t) d r n ((List.range (VRange.count r n)).map fun i =>
    elemFma t (elemAt (srcV x a) r n i) (elemAt (srcV x b) r n i) (elemAt (srcV x d) r n i))
def execVFma (t : Fmt) (d a b : Reg) (r : VRange) (s : State) : Out :=
  issueSolo (.vFma t d a b r) (slotVFma t d a b r) s

/-- The lesser, ranked by R68 for floating types (R169, R170). -/
def slotVMin (t : Fmt) (d a b : Reg) (r : VRange) : SlotFn := fun x s =>
  zipElems x s (vLat t) d a b r t.bits (rankMin t)
def execVMin (t : Fmt) (d a b : Reg) (r : VRange) (s : State) : Out :=
  issueSolo (.vMin t d a b r) (slotVMin t d a b r) s

/-- The greater, ranked by R68 for floating types (R169, R170). -/
def slotVMax (t : Fmt) (d a b : Reg) (r : VRange) : SlotFn := fun x s =>
  zipElems x s (vLat t) d a b r t.bits (rankMax t)
def execVMax (t : Fmt) (d a b : Reg) (r : VRange) (s : State) : Out :=
  issueSolo (.vMax t d a b r) (slotVMax t d a b r) s

/-- The magnitude (R169, R170). -/
def slotVAbs (t : Fmt) (d a : Reg) (r : VRange) : SlotFn := fun x s =>
  mapElems x s (vLat t) d a r t.bits (elemAbs t)
def execVAbs (t : Fmt) (d a : Reg) (r : VRange) (s : State) : Out :=
  issueSolo (.vAbs t d a r) (slotVAbs t d a r) s

/-- The negation (R169, R170). -/
def slotVNeg (t : Fmt) (d a : Reg) (r : VRange) : SlotFn := fun x s =>
  mapElems x s (vLat t) d a r t.bits (elemNeg t)
def execVNeg (t : Fmt) (d a : Reg) (r : VRange) (s : State) : Out :=
  issueSolo (.vNeg t d a r) (slotVNeg t d a r) s

/-- a + b saturated (R169). -/
def slotVSadd (t : Fmt) (d a b : Reg) (r : VRange) : SlotFn := fun x s =>
  zipElems x s 2 d a b r t.bits (fun p q => saturate t (intOf t p + intOf t q))
def execVSadd (t : Fmt) (d a b : Reg) (r : VRange) (s : State) : Out :=
  issueSolo (.vSadd t d a b r) (slotVSadd t d a b r) s

/-- Bitwise and (R171). -/
def slotVAnd (t : Fmt) (d a b : Reg) (r : VRange) : SlotFn := fun x s =>
  zipElems x s 2 d a b r t.bits (fun p q => p &&& q)
def execVAnd (t : Fmt) (d a b : Reg) (r : VRange) (s : State) : Out :=
  issueSolo (.vAnd t d a b r) (slotVAnd t d a b r) s

/-- Bitwise or (R171). -/
def slotVOr (t : Fmt) (d a b : Reg) (r : VRange) : SlotFn := fun x s =>
  zipElems x s 2 d a b r t.bits (fun p q => p ||| q)
def execVOr (t : Fmt) (d a b : Reg) (r : VRange) (s : State) : Out :=
  issueSolo (.vOr t d a b r) (slotVOr t d a b r) s

/-- Bitwise exclusive or (R171). -/
def slotVXor (t : Fmt) (d a b : Reg) (r : VRange) : SlotFn := fun x s =>
  zipElems x s 2 d a b r t.bits (fun p q => p ^^^ q)
def execVXor (t : Fmt) (d a b : Reg) (r : VRange) (s : State) : Out :=
  issueSolo (.vXor t d a b r) (slotVXor t d a b r) s

/-- Shift left (R171). -/
def slotVShl (t : Fmt) (d a b : Reg) (r : VRange) : SlotFn := fun x s =>
  zipElems x s 2 d a b r t.bits (elemShl t.bits)
def execVShl (t : Fmt) (d a b : Reg) (r : VRange) (s : State) : Out :=
  issueSolo (.vShl t d a b r) (slotVShl t d a b r) s

/-- Shift right, zeros in (R171). -/
def slotVShr (t : Fmt) (d a b : Reg) (r : VRange) : SlotFn := fun x s =>
  zipElems x s 2 d a b r t.bits (elemShr t.bits)
def execVShr (t : Fmt) (d a b : Reg) (r : VRange) (s : State) : Out :=
  issueSolo (.vShr t d a b r) (slotVShr t d a b r) s

/-- Shift right, copies of the top bit in (R171). -/
def slotVSar (t : Fmt) (d a b : Reg) (r : VRange) : SlotFn := fun x s =>
  zipElems x s 2 d a b r t.bits (elemSar t.bits)
def execVSar (t : Fmt) (d a b : Reg) (r : VRange) (s : State) : Out :=
  issueSolo (.vSar t d a b r) (slotVSar t d a b r) s

/-- The comparison of each enabled element into every mask bit of its bytes; the other bits are as they were at issue (R172; log entry 108). -/
def slotVCmp (t : Fmt) (cond : VCond) (wd : BitVec 2) (a b : Reg) (r : VRange) : SlotFn := fun x s =>
  let n := t.bits
  let m := srcM x r.m
  let old := srcM x wd
  let bits := fun (p : Nat → Bool) => BitVec.ofNat 128 (joinElems (n / 8) ((List.range (VRange.count r n)).map fun i =>
    if enabled m r n i && p i then 2 ^ (n / 8) - 1 else 0) * 2 ^ (32 * r.l.toNat))
  let written : Mask := bits fun _ => true
  let val : Mask := bits fun i => vCondHolds t cond (elemAt (srcV x a) r n i) (elemAt (srcV x b) r n i)
  retire x s (vLat t) (.w wd.toNat ((old &&& ~~~written) ||| val))
def execVCmp (t : Fmt) (cond : VCond) (wd : BitVec 2) (a b : Reg) (r : VRange) (s : State) : Out :=
  issueSolo (.vCmp t cond wd a b r) (slotVCmp t cond wd a b r) s

/-- The mask selects vA's element or vB's (R173). -/
def slotVSel (t : Fmt) (d a b : Reg) (r : VRange) : SlotFn := fun x s =>
  let n := t.bits
  let m := srcM x r.m
  putRange x s 2 d r (rangeOf r n ((List.range (VRange.count r n)).map fun i =>
    if enabled m r n i then elemAt (srcV x a) r n i else elemAt (srcV x b) r n i))
def execVSel (t : Fmt) (d a b : Reg) (r : VRange) (s : State) : Out :=
  issueSolo (.vSel t d a b r) (slotVSel t d a b r) s

/-- Conversion into the low part of the range, the rest zero (R174). -/
def slotVCvt (t from_ : Fmt) (rnd : Rnd) (d a : Reg) (w l : BitVec 2) : SlotFn := fun x s =>
  let r : VRange := ⟨w, l, 0⟩
  let k := VRange.bits r / max from_.bits t.bits
  putRange x s 4 d r (rangeOf r t.bits ((List.range k).map fun i =>
    convert from_ t rnd (elemAt (srcV x a) r from_.bits i)))
def execVCvt (t from_ : Fmt) (rnd : Rnd) (d a : Reg) (w l : BitVec 2) (s : State) : Out :=
  issueSolo (.vCvt t from_ rnd d a w l) (slotVCvt t from_ rnd d a w l) s

/-- The block size a BLK bit names (R175). -/
def blkSize (blk32 : Bool) : Nat := if blk32 then 32 else 16

/-- Whether the first of two magnitudes m * 2^e is the lesser. -/
def magLt (x y : Nat × Int) : Bool :=
  let k := min x.2 y.2
  x.1 * 2 ^ (x.2 - k).toNat < y.1 * 2 ^ (y.2 - k).toNat

/-- The greatest magnitude of the finite values of a list; 0 where there is none. -/
def maxMag : List Val → Nat × Int
  | [] => (0, 0)
  | .fin _ m e :: l => let y := maxMag l; if magLt y (m, e) then (m, e) else y
  | _ :: l => maxMag l

/-- A scale byte for each block, the rest of the range zero (R175). -/
def slotVScl (t : Fmt) (qt : QType) (blk32 : Bool) (d a : Reg) (r : VRange) : SlotFn := fun x s =>
  let n := t.bits
  let m := srcM x r.m
  let cnt := VRange.count r n
  let bs := blkSize blk32
  putRange x s 4 d r (rangeOf r 8 ((List.range ((cnt + bs - 1) / bs)).map fun j =>
    let ids := (List.range bs).map (· + j * bs) |>.filter fun i => decide (i < cnt) && enabled m r n i
    scaleByte qt (maxMag (ids.map fun i => valOf t (elemAt (srcV x a) r n i)))))
def execVScl (t : Fmt) (qt : QType) (blk32 : Bool) (d a : Reg) (r : VRange) (s : State) : Out :=
  issueSolo (.vScl t qt blk32 d a r) (slotVScl t qt blk32 d a r) s

/-- Q4 codes under the scales of v(A+1), the rest of the range zero (R176). -/
def slotVPack (t : Fmt) (rnd : Rnd) (blk32 : Bool) (d a : Reg) (r : VRange) : SlotFn := fun x s =>
  let n := t.bits
  let m := srcM x r.m
  let scales := srcV x (a + 1)
  putRange x s 4 d r (rangeOf r 4 ((List.range (VRange.count r n)).map fun i =>
    if enabled m r n i then toQ4 (elemAt scales r 8 (i / blkSize blk32)) rnd (valOf t (elemAt (srcV x a) r n i)) else 0))
def execVPack (t : Fmt) (rnd : Rnd) (blk32 : Bool) (d a : Reg) (r : VRange) (s : State) : Out :=
  issueSolo (.vPack t rnd blk32 d a r) (slotVPack t rnd blk32 d a r) s

/-- The values of Q4 codes under the scales of v(A+1) (R177). -/
def slotVUnpk (t : Fmt) (rnd : Rnd) (blk32 : Bool) (d a : Reg) (r : VRange) : SlotFn := fun x s =>
  let n := t.bits
  let scales := srcV x (a + 1)
  mergeElems x s 4 d r n ((List.range (VRange.count r n)).map fun i =>
    convertVal t rnd (q4Val (elemAt scales r 8 (i / blkSize blk32)) (elemAt (srcV x a) r 4 i)))
def execVUnpk (t : Fmt) (rnd : Rnd) (blk32 : Bool) (d a : Reg) (r : VRange) (s : State) : Out :=
  issueSolo (.vUnpk t rnd blk32 d a r) (slotVUnpk t rnd blk32 d a r) s

/-- The enabled elements of a range with their indices. -/
def enabledElems (m : Mask) (v : VReg) (r : VRange) (n : Nat) : List (Nat × Nat) :=
  ((List.range (VRange.count r n)).filter (enabled m r n)).map fun i => (i, elemAt v r n i)

/-- The greatest and the least value of a type, raw (R178). -/
def greatest (t : Fmt) : Nat := if t.isFloat then infMag t else wrapTo t.bits t.hi
def least (t : Fmt) : Nat := if t.isFloat then signBit t true + infMag t else wrapTo t.bits t.lo

/-- The reduction of R178 on raw elements: in 64 bits for an integer type, in T for a floating one. -/
def reduce (t : Fmt) (op : RedOp) (l : List Nat) : Nat :=
  let ext := fun (raw : Nat) => wrapTo 64 (intOf t raw)
  match op with
  | .add =>
    if t.isFloat then
      match l with
      | [] => 0
      | _ => roundFloat t .rne (l.foldl (fun acc e => acc.add (floatVal t e)) (.fin true 0 0))
    else wrapTo 64 (l.foldl (fun acc e => acc + intOf t e) 0)
  | .min =>
    let v := match l with | [] => greatest t | e :: l => l.foldl (rankMin t) (canon t e)
    if t.isFloat then v else ext v
  | .max =>
    let v := match l with | [] => least t | e :: l => l.foldl (rankMax t) (canon t e)
    if t.isFloat then v else ext v
  | .and => ext (l.foldl (· &&& ·) (2 ^ t.bits - 1))
  | .or => ext (l.foldl (· ||| ·) 0)
  | .xor => ext (l.foldl (· ^^^ ·) 0)

/-- One value from the enabled elements, the rest of the range zero (R178). -/
def slotVRed (t : Fmt) (op : RedOp) (d a : Reg) (r : VRange) : SlotFn := fun x s =>
  let l := (enabledElems (srcM x r.m) (srcV x a) r t.bits).map Prod.snd
  putRange x s (if t.isFloat then 6 else 4) d r (rangeOf r 256 [reduce t op l])
def execVRed (t : Fmt) (op : RedOp) (d a : Reg) (r : VRange) (s : State) : Out :=
  issueSolo (.vRed t op d a r) (slotVRed t op d a r) s

/-- The winner of a list of (index, element) by a key, the greatest first: the first of the greatest key, and whether another
element has it. -/
def winnerBy (key : Nat → Int) : List (Nat × Nat) → Option (Nat × Nat × Bool)
  | [] => none
  | e :: l =>
    match winnerBy key l with
    | none => some (e.1, e.2, false)
    | some (i, v, tie) =>
      if key v < key e.2 then some (e.1, e.2, false)
      else if key v = key e.2 then some (e.1, e.2, true)
      else some (i, v, tie)

/-- The keys of max and min (R68): a NaN wins both. -/
def maxKey (t : Fmt) (raw : Nat) : Int := rankKey t raw
def minKey (t : Fmt) (raw : Nat) : Int :=
  if t.isFloat && (floatVal t raw).isNan then rankKey t raw else -(rankKey t raw)

/-- The winner, its index and its tie flag (R179). -/
def slotVRedx (t : Fmt) (isMin : Bool) (d a : Reg) (r : VRange) : SlotFn := fun x s =>
  let l := enabledElems (srcM x r.m) (srcV x a) r t.bits
  let v := match winnerBy (if isMin then minKey t else maxKey t) l with
    | none => 0xFFFF * 2 ^ 64
    | some (i, e, tie) => canon t e + i * 2 ^ 64 + (if tie then 2 ^ 80 else 0)
  putRange x s (if t.isFloat then 6 else 4) d r (rangeOf r 256 [v])
def execVRedx (t : Fmt) (isMin : Bool) (d a : Reg) (r : VRange) (s : State) : Out :=
  issueSolo (.vRedx t isMin d a r) (slotVRedx t isMin d a r) s

/-- Element i takes vA's element number vB[i], zero past the range (R180). -/
def slotVPerm (t : Fmt) (d a b : Reg) (r : VRange) : SlotFn := fun x s =>
  let n := t.bits
  let cnt := VRange.count r n
  mergeElems x s 2 d r n ((elems (srcV x b) r n).map fun k => if cnt ≤ k then 0 else elemAt (srcV x a) r n k)
def execVPerm (t : Fmt) (d a b : Reg) (r : VRange) (s : State) : Out :=
  issueSolo (.vPerm t d a b r) (slotVPerm t d a b r) s

/-- Rotation toward lower indices by sB (R181). -/
def slotVRot (t : Fmt) (d a b : Reg) (r : VRange) : SlotFn := fun x s =>
  let n := t.bits
  let cnt := VRange.count r n
  let k := (srcS x b).toNat % cnt
  mergeElems x s 2 d r n ((List.range cnt).map fun i => elemAt (srcV x a) r n ((i + k) % cnt))
def execVRot (t : Fmt) (d a b : Reg) (r : VRange) (s : State) : Out :=
  issueSolo (.vRot t d a b r) (slotVRot t d a b r) s

/-- The 128 bytes of vA as a ring, from byte sB[6:0] (R182). -/
def slotVRmg (t : Fmt) (d a b : Reg) (r : VRange) : SlotFn := fun x s =>
  let all : VRange := ⟨2, 0, 0⟩
  let k := (srcS x b).toNat % 128
  mergeElems x s 2 d r t.bits ((List.range (VRange.count r t.bits)).map fun j => elemAt (srcV x a) all 8 ((k + j) % 128))
def execVRmg (t : Fmt) (d a b : Reg) (r : VRange) (s : State) : Out :=
  issueSolo (.vRmg t d a b r) (slotVRmg t d a b r) s

/-- Every element takes the low bits of sA (R183). -/
def slotVBc (t : Fmt) (d a : Reg) (r : VRange) : SlotFn := fun x s =>
  let n := t.bits
  mergeElems x s 2 d r n (List.replicate (VRange.count r n) ((srcS x a).toNat % 2 ^ n))
def execVBc (t : Fmt) (d a : Reg) (r : VRange) (s : State) : Out :=
  issueSolo (.vBc t d a r) (slotVBc t d a r) s

/-- Element sB takes the low bits of sA (R183). -/
def slotVIns (t : Fmt) (d a b : Reg) (r : VRange) : SlotFn := fun x s =>
  let n := t.bits
  let k := (srcS x b).toNat
  mergeElems x s 2 d r n ((List.range (VRange.count r n)).map fun i =>
    if i = k then (srcS x a).toNat % 2 ^ n else elemAt (srcV x d) r n i)
def execVIns (t : Fmt) (d a b : Reg) (r : VRange) (s : State) : Out :=
  issueSolo (.vIns t d a b r) (slotVIns t d a b r) s

/-- sD takes element sB of vA, zero past the range (R183). -/
def slotVExt (t : Fmt) (d a b : Reg) (w l : BitVec 2) : SlotFn := fun x s =>
  let r : VRange := ⟨w, l, 0⟩
  let n := t.bits
  let k := (srcS x b).toNat
  let v := if VRange.count r n ≤ k then 0 else wrapTo 64 (if t.isInt then intOf t (elemAt (srcV x a) r n k)
    else (elemAt (srcV x a) r n k : Int))
  retire x s 2 (.s d.toNat (BitVec.ofNat 64 v) false)
def execVExt (t : Fmt) (d a b : Reg) (w l : BitVec 2) (s : State) : Out :=
  issueSolo (.vExt t d a b w l) (slotVExt t d a b w l) s

/-- Element i takes sA + i (R183). -/
def slotVIota (t : Fmt) (d a : Reg) (r : VRange) : SlotFn := fun x s =>
  let n := t.bits
  mergeElems x s 2 d r n ((List.range (VRange.count r n)).map fun i => ((srcS x a).toNat + i) % 2 ^ n)
def execVIota (t : Fmt) (d a : Reg) (r : VRange) (s : State) : Out :=
  issueSolo (.vIota t d a r) (slotVIota t d a r) s

/-- Elements copied under merge (R184). -/
def slotVMovVv (t : Fmt) (d a : Reg) (r : VRange) : SlotFn := fun x s =>
  mapElems x s 2 d a r t.bits id
def execVMovVv (t : Fmt) (d a : Reg) (r : VRange) (s : State) : Out :=
  issueSolo (.vMovVv t d a r) (slotVMovVv t d a r) s

/-- A mask takes vA[127:0] (R184). -/
def slotVMovVw (wd : BitVec 2) (a : Reg) : SlotFn := fun x s =>
  retire x s 2 (.w wd.toNat ((srcV x a).setWidth 128))
def execVMovVw (wd : BitVec 2) (a : Reg) (s : State) : Out :=
  issueSolo (.vMovVw wd a) (slotVMovVw wd a) s

/-- vD[127:0] takes a mask, vD[255:128] zero (R184). -/
def slotVMovWv (d : Reg) (wa : BitVec 2) : SlotFn := fun x s =>
  retire x s 2 (.v d.toNat (laneMask 0) ((srcM x wa).setWidth 1024) 1 0)
def execVMovWv (d : Reg) (wa : BitVec 2) (s : State) : Out :=
  issueSolo (.vMovWv d wa) (slotVMovWv d wa) s

end Sys2Proof.Machine
end

