-- ==== Sys2Proof/Machine/Array.lean ====
section
/-! DEFINITION. The X slot and the two arrays (R191 to R212). A pass, a load and a store compute on the data of their issue; their
effects stand at the commit position, XLDW completion and XST completion (log entry 8). -/
namespace Sys2Proof.Machine

/-! ## Stream descriptors (R192) -/

/-- The bits of a descriptor that some field uses; RSTR[4:0] must be zero. -/
def descUsed : Desc :=
  descHeld &&& ~~~((0x1F#256) <<< 64)

/-- A stream register read as a descriptor (R192). -/
def parseDesc (q : Desc) : SDesc :=
  let f := fun (lo n : Nat) => (q.extractLsb' lo n).toNat
  { base := f 0 28, space := q.getLsbD 28, fmt := Fmt.ofCode (q.extractLsb' 32 4), form := q.getLsbD 36, blk := q.getLsbD 37
    pls := f 40 5, rstr := f 64 20, sstr := f 96 20, sbase := f 128 28, mbase := f 192 28, hnd := f 240 6, bound := q.getLsbD 246
    reserved := q &&& ~~~descUsed != 0#256 }

/-- The first byte BASE names: bits 4:0 of a scratchpad offset are ignored, those of a weight-store offset are not. -/
def SDesc.base32 (d : SDesc) : Nat := if d.space then d.base else d.base / 32 * 32

/-! ## Rings (R242, R244) -/

/-- Items of a ring, and those available to the consumer and free for the producer. -/
def Handle.items (h : Handle) : Nat := h.rows / 2 ^ h.isz
def Handle.available (h : Handle) : Nat := (h.prod + 2 * h.items - h.cons) % (2 * h.items)
def Handle.room (h : Handle) : Nat := h.items - h.available

/-- The scratchpad offset of item `i` of a ring. -/
def Handle.itemOff (h : Handle) (i : Nat) : Nat := (h.row0 + i % h.items * 2 ^ h.isz) * 64

/-- Bytes of an item. -/
def Handle.itemBytes (h : Handle) : Nat := 64 * 2 ^ h.isz

/-- Whether stream `q` is bound at the consumer end, or at the producer end, of the ring its descriptor names. -/
def Core.consumes (c : Core) (q : Nat) (d : SDesc) : Bool := d.bound && (c.handle d.hnd).cq == some q
def Core.produces (c : Core) (q : Nat) (d : SDesc) : Bool := d.bound && (c.handle d.hnd).pq == some q

/-- Offset of row r of a stream: from BASE, or the ring item it addresses (R244). -/
def Core.streamRow (c : Core) (d : SDesc) (consumer : Bool) (r : Nat) : Nat :=
  if d.bound then
    let h := c.handle d.hnd
    h.itemOff ((if consumer then h.cons else h.prod) + r)
  else d.base32 + r * d.rstr

/-! ## The streaming operand (R194) -/

/-- Bytes of scales of one row of 256 values of a plane-form or packed stream. -/
def scaleBytes (f : Fmt) (blk : Bool) : Nat :=
  match f with
  | .s8 | .s16 | .z8 => 0
  | .q4 => if blk then 8 else 16
  | _ => 32

/-- R194: what raises STREAM. -/
def streamBad (c : Core) (q : Nat) (d : SDesc) (pl : Nat) : Bool :=
  d.reserved || !d.form || d.space || !d.fmt.planeSource || d.pls < pl || 16 < d.pls || (d.blk && d.fmt != .q4) ||
    (d.bound && (!c.consumes q d || (c.handle d.hnd).itemBytes < 32 * d.pls))

/-- The bytes a pass reads for row r: its top planes, its scales. -/
def Core.passRanges (c : Core) (d : SDesc) (pl r : Nat) : List (Nat × Nat) :=
  [(c.streamRow d true r + 32 * (d.pls - pl), 32 * pl), (d.sbase + r * d.sstr, scaleBytes d.fmt d.blk)]

/-- Whether some byte of a list of scratchpad ranges is poisoned. -/
def Core.rangesPoisoned (c : Core) (l : List (Nat × Nat)) : Bool := l.any fun r => (rowsOf r.1 r.2).any c.rowPoison

/-- The plane integer of element k: bit k of each plane slice, the last of weight −2^(PL−1) (R62, R126). -/
def planeInt (slices : Nat → Nat) (pl k : Nat) : Int :=
  (List.range pl).foldl (fun (acc : Int) j =>
    if (slices j) / 2 ^ k % 2 = 1 then (if j + 1 = pl then acc - (2 ^ j : Nat) else acc + (2 ^ j : Nat)) else acc) 0

/-- A streaming row: the plane integer of each of 256 elements, log2 of the unit of each of 16 groups, the groups whose planes or scale
lie in a poisoned row. -/
structure StreamRow where
  p : List Int
  lu : List Int
  poison : List Bool

/-- The scale bytes of group g of a row whose scales start at `so` (R194). -/
def groupScale (d : SDesc) (so g : Nat) : Nat × Nat :=
  match d.fmt with
  | .s8 | .s16 | .z8 => (so, 0)
  | .q4 => (so + 16 * g / blkSize d.blk, 1)
  | _ => (so + 2 * g, 2)

/-- Row r of a stream at PL planes (R194). -/
def Core.readStreamRow (c : Core) (d : SDesc) (pl r : Nat) : StreamRow :=
  let o := c.streamRow d true r + 32 * (d.pls - pl)
  let slices := (List.range pl).map fun j => c.spNat (o + 32 * j) 32
  let so := d.sbase + r * d.sstr
  let la := fun g => match d.fmt with
    | .s8 | .s16 | .z8 => alignLog d.fmt 0 []
    | .q4 => alignLog .q4 (c.spNat (so + 16 * g / blkSize d.blk) 1) []
    | _ => signedOf 16 (c.spNat (so + 2 * g) 2)
  let planes := c.rangesPoisoned [(o, 32 * pl)]
  ⟨(List.range 256).map (planeInt (slices.getD · 0) pl), (List.range 16).map fun g => la g + 1 - pl,
    (List.range 16).map fun g => planes || c.rangesPoisoned [groupScale d so g]⟩

/-! ## The stationary operand (R195, R199) -/

/-- R195: what raises STREAM. A bound source is a ring of the scratchpad, bound at its consumer end, with a column in each item (R244; log
entry 29). -/
def stationaryBad (c : Core) (q : Nat) (d : SDesc) (sp : Sparsity) : Bool :=
  d.reserved || d.form || !d.fmt.planeSource || (d.blk && d.fmt != .q4) || d.pls != 0 ||
    (d.bound && (d.space || !c.consumes q d || (c.handle d.hnd).itemBytes < 16 * sp.held * d.fmt.bits / 8))

/-- The bytes x.ldw reads for column k. -/
def Core.ldwRanges (c : Core) (d : SDesc) (sp : Sparsity) (k : Nat) : List (Nat × Nat) :=
  [(c.streamRow d true k, 16 * sp.held * d.fmt.bits / 8),
   (d.sbase + k * d.sstr, if d.fmt = .q4 then scaleBytes .q4 d.blk else 0),
   (d.mbase + k * 8 * sp.held, if sp = .sp16 then 0 else 8 * sp.held)]

/-- Column k of a stationary source whose values start at `base`: `rd` reads bytes of its space. -/
def loadColumn (rd : Nat → Nat → Nat) (d : SDesc) (base : Nat) (wid : Wid) (sp : Sparsity) (k : Nat) : List PGroup :=
  let n := d.fmt.bits
  let vals := rd base (16 * sp.held * n / 8)
  let idxs := rd (d.mbase + k * 8 * sp.held) (8 * sp.held)
  let ws : Int := if wid = .sw then 9 else 17
  (List.range 16).map fun g =>
    let scale := if d.fmt = .q4 then rd (d.sbase + k * d.sstr + 16 * g / blkSize d.blk) 1 else 0
    let xs := (List.range sp.held).map fun j =>
      let raw := vals / 2 ^ (n * (g * sp.held + j)) % 2 ^ n
      if d.fmt = .q4 then q4Val scale raw else valOf d.fmt raw
    let la := alignLog d.fmt scale xs
    let lv := 1 - ws + la
    let qs := xs.map fun x => x.floorUnit lv
    let held := qs.map fun q => match wid with | .sw => q | .dwh => q / 256 | .dwl => q % 256
    let ix := (List.range sp.held).map fun j => if sp = .sp16 then j else idxs / 16 ^ (g * sp.held + j) % 16
    ⟨ix.zip held, lv⟩

/-- A column whose groups are all zero is listed as empty; so is one with failed data, of which no value and no index is used (R302). -/
def columnOf (gs : List PGroup) (poison : Bool) : Column :=
  ⟨if poison || gs.all (fun g => g.vals.all fun v => v.2 == 0) then [] else gs, poison⟩

/-! ## Tiles (R191, R205) -/

def Core.tileRow (c : Core) (t r : Nat) : TileRow := SMap.get 0 c.tiles (16 * t + r)
def Core.tilePoisonRow (c : Core) (t r : Nat) : BitVec 256 := SMap.get 0 c.tilePoison (16 * t + r)
def tileElem (v : TileRow) (col : Nat) : Nat := (v.extractLsb' (64 * col) 64).toNat

/-- a · 2^OSCALE rounded once into a format (R205). -/
def tileConvert (fmt : Fmt) (rnd : Rnd) (oscale : Int) (raw : Nat) : Nat :=
  convertVal fmt rnd ((floatVal .fp64 raw).scale oscale)

/-- rne(element + P) for P = n · 2^e (R65); past the range of binary64 an infinity (log entry 110). -/
def accumulate (raw : Nat) (n e : Int) : Nat :=
  if n = 0 then (if raw = 2 ^ 63 then 0 else raw) else roundFloat .fp64 .rne ((floatVal .fp64 raw).add (Val.ofInt n e))

/-- All of an array's tile cleared, its marks too (R198, R212). -/
def Core.zeroTile (c : Core) (t : Nat) : Core :=
  let keep := fun (k : Nat) => !decide (k / 16 = t)
  { c with tiles := c.tiles.filter fun e => keep e.1, tilePoison := c.tilePoison.filter fun e => keep e.1 }

/-! ## Passes (R202 to R204) -/

/-- Σ p[index] · value over the held values of group g of a column. -/
def groupSum (row : StreamRow) (g : Nat) (gs : List PGroup) : Int :=
  match gs[g]? with
  | none => 0
  | some pg => pg.vals.foldl (fun (acc : Int) v => acc + row.p.getD (16 * g + v.1) 0 * v.2) 0

/-- log2 v of group g, from the active column or, where it holds nothing, the shadow one. -/
def groupUnit (g : Nat) (a b : List PGroup) : Int :=
  match a[g]? with
  | some pg => pg.lv
  | none => match b[g]? with | some pg => pg.lv | none => 0

/-- An element after one stream row: its sixteen group products added in order (R202). -/
def passElem (dw sub : Bool) (row : StreamRow) (a b : Column) (raw : Nat) : Nat :=
  (List.range 16).foldl (fun acc g =>
    let s := groupSum row g a.groups
    let s := if dw then 256 * s + groupSum row g b.groups else s
    accumulate acc (if sub then -s else s) (row.lu.getD g 0 + groupUnit g a.groups b.groups)) raw

/-- Whether group g of a column holds a value other than zero. -/
def Column.holds (c : Column) (g : Nat) : Bool :=
  match c.groups[g]? with
  | none => false
  | some pg => pg.vals.any fun v => v.2 != 0

/-- Whether poisoned data of a stream row contribute to an element of the columns given: some group of the row is poisoned and a
value is held for it (R212; log entry 83). -/
def StreamRow.taints (row : StreamRow) (a b : Column) : Bool :=
  (List.range 16).any fun g => row.poison.getD g false && (a.holds g || b.holds g)

/-- T and Rp of R203. -/
def tileSpread (sp : Sparsity) : Nat × Nat := match sp with | .sp16 => (1, 16) | .sp8 => (2, 16) | .sp4 => (4, 16) | .sp2 => (4, 8)

/-- The image of x.mul on the k-th tile it writes, row ρ: the logical columns 256·(k + T·(ρ div Rp)) onwards, the stream rows congruent
to ρ modulo Rp in order (R202, R203). -/
def mulRow (c : Core) (arr : Arr) (rows : List StreamRow) (sp : Sparsity) (dw sub : Bool) (tile k ρ : Nat) :
    TileRow × BitVec 256 :=
  let tr := tileSpread sp
  let col0 := 256 * (k + tr.1 * (ρ / tr.2))
  let old := c.tileRow tile ρ
  let mine := (List.range rows.length).filterMap fun r => if r % tr.2 = ρ % tr.2 then rows[r]? else none
  let colA := fun n => SMap.get {} arr.active.col (col0 + n)
  let colB := fun n => if dw then SMap.get {} arr.shadow.col (col0 + n) else {}
  if mine.isEmpty then (old, c.tilePoisonRow tile ρ)
  else
    let els := (List.range 256).map fun n => mine.foldl (fun acc row => passElem dw sub row (colA n) (colB n) acc) (tileElem old n)
    let po := (List.range 256).map fun n => if mine.any (fun row => row.taints (colA n) (colB n)) || (colA n).poison || (colB n).poison then 1 else 0
    (BitVec.ofNat 16384 (joinElems 64 els), c.tilePoisonRow tile ρ ||| BitVec.ofNat 256 (joinElems 1 po))

/-- The image of x.acc on row ρ (R204). -/
def accRow (c : Core) (rows : List StreamRow) (sub : Bool) (tile ρ : Nat) : TileRow × BitVec 256 :=
  let old := c.tileRow tile ρ
  let mine := (List.range rows.length).filterMap fun r => if r % 16 = ρ then rows[r]? else none
  if mine.isEmpty then (old, c.tilePoisonRow tile ρ)
  else
    let els := (List.range 256).map fun j => mine.foldl (fun acc row =>
      let p := row.p.getD j 0
      accumulate acc (if sub then -p else p) (row.lu.getD (j / 16) 0)) (tileElem old j)
    (BitVec.ofNat 16384 (joinElems 64 els),
      c.tilePoisonRow tile ρ ||| BitVec.ofNat 256 (joinElems 1 ((List.range 256).map fun j =>
        if mine.any (fun row => row.poison.getD (j / 16) false) then 1 else 0)))

/-- A pass image as it is pushed: it commits BEATS + 512 groups after issue (R202). -/
def passOf (c : Core) (tile : Nat) (lead : Bool) (beats : Nat) (row : Nat → TileRow × BitVec 256) : Pass :=
  let rows := (List.range 16).map fun r => (r, row r)
  { tile := tile, lead := lead, handler := c.handler, delay := beats + 512
    rows := (rows.map fun e => (e.1, e.2.1)).filter fun e => e.2 != 0
    poison := (rows.map fun e => (e.1, e.2.2)).filter fun e => e.2 != 0 }

/-- An array is occupied by the mode of the core for some groups, the issuing one the first (R87, R208; log entry 81). -/
def Core.occupy (c : Core) (arr : Bool) (groups : Nat) (dw : Bool) : Core :=
  let a := c.arr arr
  c.setArr arr (if c.handler then { a with occH := ⟨groups, dw⟩ } else { a with occT := ⟨groups, dw⟩ })

/-- A pass begins: the array is occupied for BEATS groups (R208). -/
def Core.startPass (c : Core) (arr : Bool) (beats unit : Nat) (mul dw : Bool) (q : Desc) (ps : List Pass) : Core :=
  let c := c.occupy arr beats dw
  { (c.setArr arr { c.arr arr with
      passHandler := c.handler, passDw := dw, passMul := mul, passStart := c.tick, passBeats := beats, passUnit := unit, passQ := q }) with
    passes := c.passes ++ ps }

/-- Whether a stream bound to a ring must wait for rows (R208, R244). -/
def Core.ringWaits (c : Core) (q : Nat) (d : SDesc) (rows : Nat) : Bool := c.consumes q d && (c.handle d.hnd).available < rows

/-! ## The instructions -/

/-- x.zero (R198). -/
def slotXZero (mt : BitVec 3) : SlotFn := fun x s =>
  .ok (s.modCore x.n fun c => (c.zeroTile mt.toNat).occupy (mt.getLsbD 2) 1 false) .fall
def execXZero (mt : BitVec 3) (s : State) : Out := issueSolo (.xZero mt) (slotXZero mt) s

/-- A write of the weight store of a die that is held or running, its fetch of rows from another package included (R135). -/
def State.wsWriteHeld (s : State) (die : Nat) : Bool :=
  s.cores.any fun e => dieOf e.1 == die && e.2.cmds.any fun m =>
    (parseDesc m.qd).space && (match m.i with | .eCpy .. => true | _ => false) &&
      (match m.st with | .held | .running _ | .fabric _ | .placed => true | _ => false)

/-- The first weight-store byte of a list of ranges that lies past the store or in a granule of another world (R134). -/
def State.wsFail (s : State) (die world : Nat) (ranges : List (Nat × Nat)) : Option Nat :=
  ranges.foldl (fun acc r =>
    if r.2 = 0 then acc
    else
      match ((List.range ((r.1 + r.2 - 1) / 2 ^ 20 - r.1 / 2 ^ 20 + 1)).map (· + r.1 / 2 ^ 20)).find? fun g =>
          256 ≤ g || SMap.get 0 s.wsWorld (256 * die + g) != world with
      | some g => (match acc with | some a => some (min a (max r.1 (g * 2 ^ 20))) | none => some (max r.1 (g * 2 ^ 20)))
      | none => acc) none

/-- x.ldw (R199, R200). -/
def slotXLdw (arr : Bool) (wid : Wid) (sp : Sparsity) (qw : BitVec 4) (cols : BitVec 12) : SlotFn := fun x s =>
  let c := x.core
  let d := parseDesc (srcQ x qw)
  let die := dieOf x.n
  if (c.arr arr).ldw.isSome ∨ c.refresh ∨ (d.space ∧ s.wsWriteHeld die) then .stall none
  else if stationaryBad c qw.toNat d sp then .trap cSTREAM (BitVec.ofNat 64 qw.toNat) 0
  else
    let ranges := (List.range cols.toNat).flatMap (c.ldwRanges d sp)
    match (if d.space then none else c.spFail ranges) with
    | some o => .trap cBANK (BitVec.ofNat 64 o) 0
    | none =>
      match (if d.space then s.wsFail die c.spr.world.toNat ranges else none) with
      | some o => .trap cWORLD (BitVec.ofNat 64 o) 0
      | none =>
        let rd := fun o n => if d.space then s.wsNat die o n else c.spNat o n
        let poisoned := fun k => (c.ldwRanges d sp k).any fun r =>
          if d.space then s.wsPoisoned die r.1 r.2 else (rowsOf r.1 r.2).any c.rowPoison
        let bytes := (ranges.map Prod.snd).foldl (· + ·) 0
        let rate := if d.space then 128 else 64
        let cells := (List.range cols.toNat).map fun k => (k, columnOf (loadColumn rd d (c.streamRow d true k) wid sp k) (poisoned k))
        let op : LdwOp := ⟨⟨wid, sp, cols.toNat, cells.filter fun e => e.2 != {}⟩, c.tick, c.tick + (bytes + rate - 1) / rate + 32,
          (if d.space then [] else (ranges.flatMap fun r => rowsOf r.1 r.2)), d.space, srcQ x qw⟩
        .ok (s.modCore x.n fun c => c.setArr arr { c.arr arr with ldw := some op }) .fall
def execXLdw (arr : Bool) (wid : Wid) (sp : Sparsity) (qw : BitVec 4) (cols : BitVec 12) (s : State) : Out :=
  issueSolo (.xLdw arr wid sp qw cols) (slotXLdw arr wid sp qw cols) s

/-- X_LDW_COMPLETE (R199, R200): the shadow plane takes the loaded columns. -/
def execXLdwComplete (core : Nat) (arr : Bool) (s : State) : Out :=
  .next (s.modCore core fun c =>
    match (c.arr arr).ldw with
    | some op => if c.opDue op.due then c.setArr arr { c.arr arr with shadow := op.plane, ldw := none } else c
    | none => c)

/-- x.swap (R201). -/
def slotXSwap (arr : Bool) : SlotFn := fun x s =>
  let c := s.core x.n
  let a := c.arr arr
  if a.ldw.isSome then .stall none
  else .ok (s.setCore x.n (c.setArr arr { a with active := a.shadow, shadow := a.active })) .fall
def execXSwap (arr : Bool) (s : State) : Out := issueSolo (.xSwap arr) (slotXSwap arr) s

/-- x.mul (R202, R203). -/
def slotXMul (mt : BitVec 3) (qa : BitVec 4) (beats : BitVec 12) (pl : BitVec 5) (sp : Sparsity) (dw sub : Bool) : SlotFn :=
  fun x s =>
  let c := x.core
  let ai := mt.getLsbD 2
  let a := c.arr ai
  let d := parseDesc (srcQ x qa)
  let n := beats.toNat / (pl.toNat * (if dw then 2 else 1))
  let tags := if dw then a.active.wid == .dwh && a.shadow.wid == .dwl && a.active.sp == sp && a.shadow.sp == sp
    else a.active.wid == .sw && a.active.sp == sp
  if (dw ∧ a.ldw.isSome) ∨ c.ringWaits qa.toNat d n then .stall none
  else if !tags then .trap cSCHED (BitVec.ofNat 64 x.word) 0
  else if streamBad c qa.toNat d pl.toNat then .trap cSTREAM (BitVec.ofNat 64 qa.toNat) 0
  else
    let ranges := (List.range n).flatMap (c.passRanges d pl.toNat)
    match c.spFail ranges with
    | some o => .trap cBANK (BitVec.ofNat 64 o) 0
    | none =>
      let rows := (List.range n).map (c.readStreamRow d pl.toNat)
      let ts := passTiles mt sp
      let ps := (List.range ts.length).map fun k =>
        passOf c (ts.getD k 0) (k == 0) beats.toNat fun ρ => mulRow c a rows sp dw sub (ts.getD k 0) k ρ
      .ok (s.modCore x.n fun c => c.startPass ai beats.toNat (pl.toNat * (if dw then 2 else 1)) true dw (srcQ x qa) ps) .fall
def execXMul (mt : BitVec 3) (qa : BitVec 4) (beats : BitVec 12) (pl : BitVec 5) (sp : Sparsity) (dw sub : Bool) (s : State) :
    Out := issueSolo (.xMul mt qa beats pl sp dw sub) (slotXMul mt qa beats pl sp dw sub) s

/-- x.acc (R204). -/
def slotXAcc (mt : BitVec 3) (qa : BitVec 4) (beats : BitVec 12) (pl : BitVec 5) (sub : Bool) : SlotFn := fun x s =>
  let c := x.core
  let d := parseDesc (srcQ x qa)
  let n := beats.toNat / pl.toNat
  if c.ringWaits qa.toNat d n then .stall none
  else if streamBad c qa.toNat d pl.toNat then .trap cSTREAM (BitVec.ofNat 64 qa.toNat) 0
  else
    let ranges := (List.range n).flatMap (c.passRanges d pl.toNat)
    match c.spFail ranges with
    | some o => .trap cBANK (BitVec.ofNat 64 o) 0
    | none =>
      let rows := (List.range n).map (c.readStreamRow d pl.toNat)
      let p := passOf c mt.toNat true beats.toNat (accRow c rows sub mt.toNat)
      .ok (s.modCore x.n fun c => c.startPass (mt.getLsbD 2) beats.toNat pl.toNat false false (srcQ x qa) [p]) .fall
def execXAcc (mt : BitVec 3) (qa : BitVec 4) (beats : BitVec 12) (pl : BitVec 5) (sub : Bool) (s : State) : Out :=
  issueSolo (.xAcc mt qa beats pl sub) (slotXAcc mt qa beats pl sub) s

/-- X_PASS_COMMIT (R202): a pass whose position is reached becomes its tile's value. -/
def execXPassCommit (core tile : Nat) (s : State) : Out := .next (s.modCore core fun c => c.commitTile c.handler tile)

/-- x.rd (R205): elements past column 255 are zero; a poisoned element poisons its lane group (R212). -/
def slotXRd (mt : BitVec 3) (fmt : Fmt) (rnd : Rnd) (vx : Reg) : SlotFn := fun x s =>
  let c := x.core
  let ai := mt.getLsbD 2
  let a := c.arr ai
  let n := 1024 / fmt.bits
  let v := c.tileRow mt.toNat a.rdrow
  let po := c.tilePoisonRow mt.toNat a.rdrow
  let els := (List.range n).map fun i =>
    if 255 < a.rdcol + i then 0 else tileConvert fmt rnd a.oscale (tileElem v (a.rdcol + i))
  let lanes := (List.range 4).foldl (fun (m : BitVec 4) g =>
    if (List.range (n / 4)).any fun i => po.getLsbD (a.rdcol + g * (n / 4) + i) then m ||| (1#4 <<< g) else m) 0
  let col := a.rdcol + n
  let rd := if 255 < col then (0, (a.rdrow + 1) % 16) else (col, a.rdrow)
  retire x (s.modCore x.n fun c => c.setArr ai { c.arr ai with rdcol := rd.1, rdrow := rd.2 }) 6
    (.v vx.toNat (BitVec.allOnes 1024) (BitVec.ofNat 1024 (joinElems fmt.bits els)) 0b1111 lanes)
def execXRd (mt : BitVec 3) (fmt : Fmt) (rnd : Rnd) (vx : Reg) (s : State) : Out :=
  issueSolo (.xRd mt fmt rnd vx) (slotXRd mt fmt rnd vx) s

/-- Rows of the buffers of a witness form in flight (R234). -/
def Core.witHolds (c : Core) (ranges : List (Nat × Nat)) : Bool :=
  match c.wit with
  | some w => ranges.any fun r => (rowsOf r.1 r.2).any fun k => w.back.any fun b => (c.handle b.1).has k
  | none => false

/-- The bytes an x.st writes: row r of the tile from BASE + r RSTR on, converted as R205 says; a poisoned element marks the row it goes to (R206,
R212). -/
def StOp.writes (o : StOp) : List SpanWrite :=
  let d := parseDesc o.q
  let len := 32 * o.fmt.bits
  (List.range 16).flatMap fun r =>
    let v := SMap.get 0 o.rows r
    let po := SMap.get 0 o.poison r
    let at_ := d.base32 + r * d.rstr
    let bytes := leBytes len (joinElems o.fmt.bits ((List.range 256).map fun n => tileConvert o.fmt o.rnd o.osc (tileElem v n)))
    (spansFrom at_ false bytes (len / 64 + 2)).map fun w =>
      { w with poison := (List.range (w.bytes.length * 8 / o.fmt.bits)).any fun i => po.getLsbD ((w.off - at_) * 8 / o.fmt.bits + i) }

/-- The rows of a tile and their marks. -/
def Core.wholeTile (c : Core) (t : Nat) : SMap TileRow := ((List.range 16).map fun r => (r, c.tileRow t r)).filter fun e => e.2 != 0
def Core.wholeMarks (c : Core) (t : Nat) : SMap (BitVec 256) := ((List.range 16).map fun r => (r, c.tilePoisonRow t r)).filter fun e => e.2 != 0

/-- x.st (R206): of its descriptor it looks at SPACE and FORM, and reads BASE and RSTR as they stand, bits 4:0 of RSTR included (log
entry 28). -/
def slotXSt (mt : BitVec 3) (qa : BitVec 4) (fmt : Fmt) (rnd : Rnd) (clr : Bool) : SlotFn := fun x s =>
  let c := x.core
  let ai := mt.getLsbD 2
  let a := c.arr ai
  let d := parseDesc (srcQ x qa)
  let len := 32 * fmt.bits
  let ranges := (List.range 16).map fun r => (d.base32 + r * d.rstr, len)
  if a.st.isSome ∨ c.witHolds ranges then .stall none
  else if d.space ∨ d.form then .trap cSTREAM (BitVec.ofNat 64 qa.toNat) 0
  else
    match c.spFail ranges with
    | some o => .trap cBANK (BitVec.ofNat 64 o) 0
    | none =>
      let op : StOp := ⟨mt.toNat, fmt, rnd, a.oscale, srcQ x qa, c.wholeTile mt.toNat, c.wholeMarks mt.toNat, c.tick,
        c.tick + 16 * ((len + 63) / 64) + 1, c.seq⟩
      .ok (s.modCore x.n fun c =>
        let c := c.setArr ai { c.arr ai with st := some op }
        if clr then c.zeroTile mt.toNat else c) .fall
def execXSt (mt : BitVec 3) (qa : BitVec 4) (fmt : Fmt) (rnd : Rnd) (clr : Bool) (s : State) : Out :=
  issueSolo (.xSt mt qa fmt rnd clr) (slotXSt mt qa fmt rnd clr) s

/-- X_ST_COMPLETE (R206, R218): the rows are written, as one operation, once no earlier acquire, fence or access the matrix orders before
them is open (R317). -/
def execXStComplete (core : Nat) (arr : Bool) (s : State) : Out :=
  .next (s.modCore core fun c =>
    match (c.arr arr).st with
    | some op =>
      if c.opDue op.due && !(c.before op.seq).ownBlocked core (op.writes.map fun w => w.off / 64) false true then (c.writeSpans op.writes).setArr arr { c.arr arr with st := none } else c
    | none => c)

/-- x.cfg (R207): reserved bits are ignored. -/
def slotXCfg (arr : Bool) (reg : XReg) (sx : Reg) : SlotFn := fun x s =>
  let c := s.core x.n
  let v := srcS x sx
  let a := c.arr arr
  .ok (s.setCore x.n (c.setArr arr (match reg with
    | .rdcur => { a with rdcol := (v.extractLsb' 0 8).toNat, rdrow := (v.extractLsb' 8 4).toNat }
    | .oscale => { a with oscale := (v.extractLsb' 0 12).toInt }))) .fall
def execXCfg (arr : Bool) (reg : XReg) (sx : Reg) (s : State) : Out := issueSolo (.xCfg arr reg sx) (slotXCfg arr reg sx) s

end Sys2Proof.Machine
end

