-- ==== Sys2Proof/Machine/Witness.lean ====
section
/-! DEFINITION. The witness forms v.wmax to v.wtopk and v.adjb (R216 to R236): checks at issue, results computed on the data of the issue
(log entry 8), completion as an event. -/
namespace Sys2Proof.Machine

/-! ## The operand words (R220, R221) -/

/-- The handles word: H0, H1, H2, WW and whether a reserved bit is set. -/
structure HandlesWord where
  h0 : Nat
  h1 : Nat
  h2 : Nat
  ww : Bool
  reserved : Bool

def handlesWord (v : Word) : HandlesWord :=
  ⟨(v.extractLsb' 0 6).toNat, (v.extractLsb' 8 6).toNat, (v.extractLsb' 16 6).toNat, v.getLsbD 24,
    v &&& ~~~0x13F3F3F#64 != 0#64⟩

/-- The shape word: K, NOUT, KSM1, OPC and whether a reserved bit is set. -/
structure ShapeWord where
  k : Nat
  nout : Nat
  ksm1 : Nat
  opc : Nat
  reserved : Bool

def shapeWord (v : Word) : ShapeWord :=
  ⟨(v.extractLsb' 0 15).toNat + 1, (v.extractLsb' 16 20).toNat, (v.extractLsb' 36 5).toNat, (v.extractLsb' 41 4).toNat,
    v.getLsbD 15 || v.extractLsb' 45 19 != 0#19⟩

/-! ## Checks on handles (R222) -/

def Handle.overlaps (a b : Handle) : Bool := a.rows != 0 && b.rows != 0 && a.row0 < b.row0 + b.rows && b.row0 < a.row0 + a.rows

/-- Check 2: the handle that fails. -/
def Core.namedBad (c : Core) (h0 h1 h2 : Nat) : Option Nat :=
  let bad := fun h => (c.handle h).ring || c.banks * 64 < (c.handle h).row0 + (c.handle h).rows
  let clash := fun a b => a == b || (c.handle a).overlaps (c.handle b)
  match [h0, h1, h2].find? bad with
  | some h => some h
  | none => if clash h0 h1 then some h1 else if clash h0 h2 then some h2 else if clash h1 h2 then some h2 else none

/-- Check 3: the first offset in a bank the task does not own. -/
def Core.buffersFail (c : Core) (hs : List Nat) : Option Nat :=
  c.spFail (hs.map fun h => ((c.handle h).row0 * 64, (c.handle h).rows * 64))

/-- Check 4: the first handle whose actual state differs from the one given with it. -/
def Core.statesBad (c : Core) (l : List (Nat × Nat)) : Option Nat := (l.find? fun e => (c.handle e.1).st != e.2).map Prod.fst

/-- Check 5: the first handle whose buffer is smaller than the bytes given with it. -/
def Core.tooSmall (c : Core) (l : List (Nat × Nat)) : Option Nat := (l.find? fun e => (c.handle e.1).rows * 64 < e.2).map Prod.fst

def witnessFault (reason : Nat) : SlotOut := .trap cWITNESS (BitVec.ofNat 64 reason) 0
def handleFault (h : Nat) : SlotOut := .trap cHANDLE (BitVec.ofNat 64 h) 0
def bankFault (o : Nat) : SlotOut := .trap cBANK (BitVec.ofNat 64 o) 0

/-- Element i of n bits of a handle's buffer. -/
def Core.bufElem (c : Core) (h n i : Nat) : Nat := c.spNat ((c.handle h).row0 * 64 + i * n / 8) (n / 8)

/-- Whether the row that holds byte `b` of a buffer is poisoned. -/
def Core.bufPoison (c : Core) (h b : Nat) : Bool := c.rowPoison ((c.handle h).row0 + b / 64)

def rowsFor (bytes : Nat) : Nat := (bytes + 63) / 64

/-! ## The witness forms (R223 to R228) -/

/-- Operator codes (R217). -/
inductive WOp
  | max | min | clamp | med | sum | topk
  deriving DecidableEq, Repr

def WOp.code : WOp → Nat
  | .max => 1 | .min => 2 | .clamp => 3 | .med => 4 | .sum => 5 | .topk => 6

/-- Whether the witness is two bits an output. -/
def WOp.coded : WOp → Bool
  | .clamp | .sum => true
  | _ => false

/-- What one output comes to: its results, its witness entries (index, tie) or its code, whether it counts in SUM. -/
structure WitOut where
  results : List Nat
  entries : List (Nat × Bool)
  code : Nat
  counts : Bool

/-- How many elements of a list of keys are above, or equal and before, key number i (R225): its place in rank order. -/
def placeOf (keys : List Int) (i : Nat) : Nat :=
  let k := keys.getD i 0
  ((List.range keys.length).filter fun j => decide (k < keys.getD j 0) || (keys.getD j 0 == k && decide (j < i))).length

/-- The index that stands at place j in rank order. -/
def pickAt (keys : List Int) (j : Nat) : Nat := ((List.range keys.length).find? fun i => placeOf keys i == j).getD 0

/-- The lower median: the lowest index of the rank that stands at place ⌊(K − 1)/2⌋ from below (R224). -/
def medianOf (keys : List Int) : Nat :=
  let q := (keys.length - 1) / 2
  ((List.range keys.length).find? fun i =>
    let k := keys.getD i 0
    (keys.filter (· < k)).length ≤ q && q < (keys.filter (· ≤ k)).length).getD 0

/-- An entry for contributor w: whether another ranks equal. -/
def tieOf (keys : List Int) (w : Nat) : Bool := 1 < (keys.filter (· == keys.getD w 0)).length

/-- One output of K elements (R224 to R227): `lo` and `hi` bound a clamp, `k` is the count of top-k. -/
def witOut (op : WOp) (t : Fmt) (k lo hi : Nat) (xs : List Nat) : WitOut :=
  let keys := xs.map (rankKey t)
  let pick := fun (ws : List Nat) =>
    let es := ws.map fun w => (w, tieOf keys w)
    (⟨ws.map fun w => canon t (xs.getD w 0), es, 0, es.any Prod.snd⟩ : WitOut)
  let indexed := (List.range xs.length).zip xs
  match op with
  | .max => (match winnerBy (maxKey t) indexed with | some (i, _, _) => pick [i] | none => ⟨[], [], 0, false⟩)
  | .min => (match winnerBy (minKey t) indexed with | some (i, _, _) => pick [i] | none => ⟨[], [], 0, false⟩)
  | .med => pick [medianOf keys]
  | .topk => pick ((List.range k).map (pickAt keys))
  | .clamp =>
    let x := xs.headD 0
    if t.isFloat && (floatVal t x).isNan then ⟨[canonNan t], [], 3, true⟩
    else if rankKey t x < rankKey t lo then ⟨[lo], [], 1, true⟩
    else if rankKey t hi < rankKey t x then ⟨[hi], [], 2, true⟩
    else ⟨[x], [], 0, false⟩
  | .sum =>
    let total := xs.foldl (fun (acc : Int) e => acc + intOf t e) 0
    let code := if t.hi < total then 1 else if total < t.lo then 2 else 0
    ⟨[saturate t total], [], code, code != 0⟩

/-- The header row of a witness tile (R217), as bytes. -/
def witHeader (opc fmt wwid ksel k nout hs sgen sum : Nat) : List Byte :=
  leBytes 1 opc ++ leBytes 1 fmt ++ leBytes 1 wwid ++ leBytes 1 ksel ++ leBytes 2 k ++ leBytes 2 0 ++ leBytes 4 nout ++ leBytes 1 hs ++
    leBytes 1 0 ++ leBytes 2 sgen ++ leBytes 4 sum ++ leBytes 44 0

/-- Witness bytes after the header (R223). -/
def witBytes (op : WOp) (nout k wbits : Nat) : Nat := if op.coded then (nout + 3) / 4 else nout * k * wbits / 8

/-- Handles take the states given (R223, R232). -/
def Core.setStates (c : Core) : List (Nat × Nat) → Core
  | [] => c
  | (h, st) :: l => (c.setHandle h { c.handle h with st := st }).setStates l

/-- What a witness form makes of its operand words: the rows of the results and of the witness tile, and SUM (R223). -/
def Core.witWork (c : Core) (op : WOp) (t : Fmt) (a b : Word) (lo hi : Nat) : List RowWrite × Nat :=
  let hw := handlesWord a
  let sh := shapeWord b
  let n := t.bits
  let k := if op = .topk then sh.ksm1 + 1 else 1
  let wbits := if hw.ww then 16 else 8
  let rb := sh.nout * k * n / 8
  let wb := 64 + witBytes op sh.nout k wbits
  let outs := (List.range sh.nout).map fun o => witOut op t k lo hi ((List.range sh.k).map fun e => c.bufElem hw.h0 n (o * sh.k + e))
  let bad := (List.range sh.nout).map fun o => (List.range sh.k).any fun e => c.bufPoison hw.h0 ((o * sh.k + e) * n / 8)
  let sum := (outs.filter WitOut.counts).length
  let res := leBytes rb (joinElems n (outs.flatMap WitOut.results))
  let entries := outs.flatMap WitOut.entries
  let data := if op.coded then leBytes (wb - 64) (joinElems 2 (outs.map WitOut.code))
    else leBytes (wb - 64) (joinElems wbits (entries.map fun e => e.1 + (if e.2 then 2 ^ (wbits - 1) else 0)))
  let head := witHeader op.code t.code.toNat (if op.coded then 2 else wbits) k sh.k sh.nout hw.h0 (c.handle hw.h0).gen.toNat sum
  /- outputs that share byte r of a result row, of a witness row -/
  let hit := fun (bitsPerOut : Nat) (lo hi : Nat) =>
    (List.range sh.nout).any fun o => bad.getD o false && decide (o * bitsPerOut < hi) && decide (lo < (o + 1) * bitsPerOut)
  let wper := if op.coded then 2 else k * wbits
  (rowWrites (c.handle hw.h1).row0 res (fun r => hit (k * n) (512 * r) (512 * (r + 1))) ++
    rowWrites (c.handle hw.h2).row0 (head ++ data) (fun r => r != 0 && hit wper (512 * (r - 1)) (512 * r)), sum)

/-- A witness form (R222, R223). Of the conditions that check 6 names, the bounds of a clamp are looked at before its K and WW: their order is
log entry 97. -/
def witnessForm (op : WOp) (i : Instr) (t : Fmt) (d a b : Reg) : SlotFn := fun x s =>
  let c := x.core
  let hw := handlesWord (srcS x a)
  let sh := shapeWord (srcS x b)
  let n := t.bits
  let lo := (x.core.regs.rs (b.toNat + 1)).toNat
  let hi := (x.core.regs.rs (b.toNat + 2)).toNat
  let k := if op = .topk then sh.ksm1 + 1 else 1
  let wbits := if hw.ww then 16 else 8
  let sb := sh.nout * sh.k * n / 8
  let rb := sh.nout * k * n / 8
  let wb := 64 + witBytes op sh.nout k wbits
  if c.wit.isSome then .stall none
  else if hw.reserved ∨ sh.reserved ∨ (sh.opc ≠ 0 ∧ sh.opc ≠ op.code) ∨ (op ≠ .topk ∧ sh.ksm1 ≠ 0) ∨ 16 ≤ sh.ksm1 ∨
      (op = .clamp ∧ (2 ^ n ≤ lo ∨ 2 ^ n ≤ hi)) then witnessFault 1
  else match c.namedBad hw.h0 hw.h1 hw.h2 with
  | some h => handleFault h
  | none =>
  match c.buffersFail [hw.h0, hw.h1, hw.h2] with
  | some o => bankFault o
  | none =>
  match c.statesBad [(hw.h0, 2), (hw.h1, 0), (hw.h2, 0)] with
  | some h => handleFault h
  | none =>
  match c.tooSmall [(hw.h0, sb), (hw.h1, rb), (hw.h2, wb)] with
  | some h => handleFault h
  | none =>
  if !op.coded && !hw.ww && 128 < sh.k then witnessFault 2
  else if op = .topk ∧ sh.k < k then witnessFault 3
  else if op = .clamp ∧ ((t.isFloat && ((floatVal t lo).isNan || (floatVal t hi).isNan)) ∨ rankKey t hi < rankKey t lo) then
    witnessFault 4
  else if (op = .clamp ∧ sh.k ≠ 1) ∨ (op.coded ∧ hw.ww) then witnessFault 5
  else
    let work := c.witWork op t (srcS x a) (srcS x b) lo hi
    let extra := if op = .med ∨ op = .topk then sh.nout * ((sh.k + 15) / 16) else 0
    let op' : WitOp := { i := i, handler := c.handler, back := [(hw.h0, 2), (hw.h1, 2), (hw.h2, 2)], setWb := some hw.h2
                         free := none, writes := work.1, sd := d.toNat, sum := BitVec.ofNat 64 work.2
                         due := c.tick + 16 + rowsFor sb + rowsFor rb + rowsFor wb + extra, nout := sh.nout, start := c.tick
                         a := srcS x a, b := srcS x b, lo := BitVec.ofNat 64 lo, hi := BitVec.ofNat 64 hi }
    .ok (s.modCore x.n fun c => { c.setStates [(hw.h0, 3), (hw.h1, 1), (hw.h2, 1)] with wit := some op' }) .fall

/-- v.wmax (R224). -/
def slotVWmax (t : Fmt) (d a b : Reg) : SlotFn := witnessForm .max (.vWmax t d a b) t d a b
def execVWmax (t : Fmt) (d a b : Reg) (s : State) : Out := issueSolo (.vWmax t d a b) (slotVWmax t d a b) s

/-- v.wmin (R224). -/
def slotVWmin (t : Fmt) (d a b : Reg) : SlotFn := witnessForm .min (.vWmin t d a b) t d a b
def execVWmin (t : Fmt) (d a b : Reg) (s : State) : Out := issueSolo (.vWmin t d a b) (slotVWmin t d a b) s

/-- v.wclamp (R226). -/
def slotVWclamp (t : Fmt) (d a b : Reg) : SlotFn := witnessForm .clamp (.vWclamp t d a b) t d a b
def execVWclamp (t : Fmt) (d a b : Reg) (s : State) : Out := issueSolo (.vWclamp t d a b) (slotVWclamp t d a b) s

/-- v.wmed (R224). -/
def slotVWmed (t : Fmt) (d a b : Reg) : SlotFn := witnessForm .med (.vWmed t d a b) t d a b
def execVWmed (t : Fmt) (d a b : Reg) (s : State) : Out := issueSolo (.vWmed t d a b) (slotVWmed t d a b) s

/-- v.wsum (R227). -/
def slotVWsum (t : Fmt) (d a b : Reg) : SlotFn := witnessForm .sum (.vWsum t d a b) t d a b
def execVWsum (t : Fmt) (d a b : Reg) (s : State) : Out := issueSolo (.vWsum t d a b) (slotVWsum t d a b) s

/-- v.wtopk (R225). -/
def slotVWtopk (t : Fmt) (d a b : Reg) : SlotFn := witnessForm .topk (.vWtopk t d a b) t d a b
def execVWtopk (t : Fmt) (d a b : Reg) (s : State) : Out := issueSolo (.vWtopk t d a b) (slotVWtopk t d a b) s

/-! ## v.adjb (R230 to R232) -/

/-- A value divided by a count, for one rounding (R232). -/
def Val.divNat (v : Val) (c : Nat) : Val :=
  match v with
  | .fin s m e => if m = 0 then .fin s 0 e else withSticky s (m * 2 ^ 80 / c) (m * 2 ^ 80 % c = 0) (e - 80)
  | v => v

/-- The header fields of a witness tile. -/
structure WitHead where
  opc : Nat
  sfmt : Nat
  wwid : Nat
  ksel : Nat
  k : Nat
  nout : Nat
  hs : Nat
  sgen : Nat

def Core.witHead (c : Core) (h : Nat) : WitHead :=
  let o := (c.handle h).row0 * 64
  ⟨c.spNat o 1, c.spNat (o + 1) 1, c.spNat (o + 2) 1, c.spNat (o + 3) 1, c.spNat (o + 4) 2, c.spNat (o + 8) 4, c.spNat (o + 12) 1 % 64,
    c.spNat (o + 14) 2⟩

def WitHead.rank (w : WitHead) : Bool := w.opc == 7 || w.opc == 8
def WitHead.coded (w : WitHead) : Bool := w.opc == 3 || w.opc == 5
/-- Upstream elements an output has, contributors an output has in HD, bits of an entry. -/
def WitHead.up (w : WitHead) : Nat := if w.opc = 6 then w.ksel else 1
def WitHead.per (w : WitHead) : Nat := if w.rank then 1 else w.k
def WitHead.ebits (w : WitHead) : Nat := if w.wwid = 16 then 16 else 8
def WitHead.src (w : WitHead) : Fmt := Fmt.ofCode (BitVec.ofNat 4 w.sfmt)

/-- R231: the operators a mode allows. -/
def adjAllows (m : AdjMode) (opc : Nat) : Bool :=
  match m with
  | .first => [1, 2, 4, 6, 7, 8].contains opc
  | .split => [1, 2, 4].contains opc
  | .pass => [3, 5].contains opc

/-- The tie flag of entry e of a witness tile (R217). -/
def Core.tieAt (c : Core) (w : WitHead) (hw e : Nat) : Bool :=
  decide (2 ^ (w.ebits - 1) ≤ c.spNat ((c.handle hw).row0 * 64 + 64 + e * w.ebits / 8) (w.ebits / 8))

/-- contrib(o, i) of R232, raw in T; `hg`, `hw` name the gradient and the witness, `own` the task's rank. -/
def Core.contrib (c : Core) (m : AdjMode) (t : Fmt) (w : WitHead) (hg hw own o i : Nat) : Option Nat :=
  let g := fun j => c.bufElem hg t.bits j
  let b := w.ebits
  let entry := fun e => c.spNat ((c.handle hw).row0 * 64 + 64 + e * b / 8) (b / 8)
  let idx := fun e => entry e % 2 ^ (b - 1)
  let tie := c.tieAt w hw
  match m with
  | .pass =>
    let code := c.spNat ((c.handle hw).row0 * 64 + 64 + o / 4) 1 / 4 ^ (o % 4) % 4
    if code = 0 then some (g o) else none
  | .first =>
    if w.opc = 6 then ((List.range w.ksel).filter fun j => idx (o * w.ksel + j) == i).getLast?.map fun j => g (o * w.ksel + j)
    else if w.rank then (if idx o = own then some (g o) else none)
    else if idx o = i then some (g o) else none
  | .split =>
    if !tie o then (if idx o = i then some (g o) else none)
    else
      let f := w.src
      let key := fun j => rankKey f (c.bufElem w.hs f.bits (o * w.k + j))
      let n := ((List.range w.k).filter fun j => key j == key (idx o)).length
      if key i = key (idx o) then some (roundFloat t .rne (Val.divNat (floatVal t (g o)) n)) else none

/-- The rows v.adjb writes, from its operand words (R232, R235): a poisoned row of the gradient or of the witness marks every row written, one
of the source what it contributes to, which it does where the tie flag is set. -/
def Core.adjWork (c : Core) (t : Fmt) (mode : AdjMode) (acc : Bool) (a b : Word) : List RowWrite :=
  let hd := handlesWord a
  let (hg, hdst, hw) := (hd.h0, hd.h1, hd.h2)
  let n := t.bits
  let w := c.witHead hw
  let gb := w.nout * w.up * n / 8
  let db := w.nout * w.per * n / 8
  let wb := 64 + (if w.coded then (w.nout + 3) / 4 else w.nout * w.up * w.ebits / 8)
  let els := (List.range (w.nout * w.per)).map fun e =>
    let old := c.bufElem hdst n e
    match c.contrib mode t w hg hw ((shapeWord b).k - 1) (e / w.per) (e % w.per) with
    | none => if acc then old else 0
    | some v => if acc then elemAdd t old v else canon t v
  let body := leBytes db (joinElems n els)
  let rows := rowsFor db
  let r0 := (c.handle hdst).row0
  let rest := if acc then (leBytes (64 * rows) (c.spNat (64 * r0) (64 * rows))).drop db else []
  let all := c.rangesPoisoned [((c.handle hg).row0 * 64, gb), ((c.handle hw).row0 * 64, wb)]
  let badOut := fun o => mode == .split && c.tieAt w hw o && (List.range w.k).any fun j => c.bufPoison w.hs ((o * w.k + j) * w.src.bits / 8)
  rowWrites r0 (body ++ rest) fun r => all || (acc && c.rowPoison (r0 + r)) ||
    (List.range w.nout).any fun o => badOut o && decide (o * w.per * n < 512 * (r + 1)) && decide (512 * r < (o + 1) * w.per * n)

/-- The rows of a witness form or v.adjb, from the operand words it captured: what a context that resumes computes again (R236). -/
def Core.workOf (c : Core) (w : WitOp) : List RowWrite :=
  let form := fun (op : WOp) (t : Fmt) => (c.witWork op t w.a w.b w.lo.toNat w.hi.toNat).1
  match w.i with
  | .vWmax t .. => form .max t
  | .vWmin t .. => form .min t
  | .vWclamp t .. => form .clamp t
  | .vWmed t .. => form .med t
  | .vWsum t .. => form .sum t
  | .vWtopk t .. => form .topk t
  | .vAdjb t mode acc .. => c.adjWork t mode acc w.a w.b
  | _ => []

/-- v.adjb (R222, R230 to R232). Checks 2 and 3 are made on the handles its operand words name; HS, which the header names, is held to the size
of check 5 and to check 6 alone (log entry 97). -/
def slotVAdjb (t : Fmt) (mode : AdjMode) (acc last : Bool) (a b : Reg) : SlotFn := fun x s =>
  let c := x.core
  let hd := handlesWord (srcS x a)
  let sh := shapeWord (srcS x b)
  let (hg, hdst, hw) := (hd.h0, hd.h1, hd.h2)
  let n := t.bits
  if c.wit.isSome then .stall none
  else if hd.reserved ∨ hd.ww ∨ sh.reserved then witnessFault 1
  else match c.namedBad hg hdst hw with
  | some h => handleFault h
  | none =>
  match c.buffersFail [hg, hdst, hw] with
  | some o => bankFault o
  | none =>
  match c.statesBad [(hg, 2), (hdst, if acc then 2 else 0)] with
  | some h => handleFault h
  | none =>
  let w := c.witHead hw
  let gb := w.nout * w.up * n / 8
  let db := w.nout * w.per * n / 8
  let wb := 64 + (if w.coded then (w.nout + 3) / 4 else w.nout * w.up * w.ebits / 8)
  let srcb := w.nout * w.k * w.src.bits / 8
  match (if (c.handle hw).rows = 0 then some hw else c.tooSmall ([(hg, gb), (hdst, db), (hw, wb)] ++ (if mode = .split then [(w.hs, srcb)] else []))) with
  | some h => handleFault h
  | none =>
  if (c.handle hw).st ≠ 2 ∨ !(c.handle hw).wb then witnessFault 6
  else if sh.nout ≠ w.nout ∨ sh.opc ≠ w.opc ∨ sh.ksm1 + 1 ≠ w.ksel ∨ (!w.rank ∧ sh.k ≠ w.k) then witnessFault 8
  else if !adjAllows mode w.opc && !(mode == .split && w.rank) then witnessFault 7
  else if mode = .split ∧ (w.rank ∨ (c.handle w.hs).st ≠ 2 ∨ (c.handle w.hs).gen.toNat ≠ w.sgen) then witnessFault 9
  else
    let srcs := [hg, hw] ++ (if mode = .split then [w.hs] else [])
    let op : WitOp := { i := .vAdjb t mode acc last a b, handler := c.handler, back := (srcs ++ [hdst]).map fun h => (h, 2)
                        setWb := none, free := if last then some hw else none, writes := c.adjWork t mode acc (srcS x a) (srcS x b), sd := 0
                        sum := 0, a := srcS x a, b := srcS x b
                        due := c.tick + 16 + rowsFor gb + rowsFor wb + rowsFor db * (if acc then 2 else 1) +
                          (if mode = .split then rowsFor srcb else 0), nout := w.nout, start := c.tick }
    .ok (s.modCore x.n fun c => { c.setStates (srcs.map (fun h => (h, 3)) ++ [(hdst, 1)]) with wit := some op }) .fall
def execVAdjb (t : Fmt) (mode : AdjMode) (acc last : Bool) (a b : Reg) (s : State) : Out :=
  issueSolo (.vAdjb t mode acc last a b) (slotVAdjb t mode acc last a b) s

/-! ## Completion -/

/-- The stream register of one end of a ring is unbound (R192, R240). -/
def Regs.unbind (r : Regs) : Option Nat → Regs
  | some k => r.writeQ k (clearBind (r.rq k)) (SMap.get false r.qPoison k)
  | none => r

/-- A handle goes free (R238, R241): its generation advances, WB is cleared, its streams are unbound. A landing on it stays. -/
def Core.releaseHandle (c : Core) (h : Nat) : Core :=
  let x := c.handle h
  { (c.setHandle h { x with st := 0, wb := false, gen := x.gen + 1, pq := none, cq := none }) with
    regs := (c.regs.unbind x.cq).unbind x.pq }

/-- e.hfree (R241): it alone withdraws a landing on the handle (R240). -/
def Core.freeHandle (c : Core) (h : Nat) : Core :=
  let c := c.releaseHandle h
  { (c.setHandle h { c.handle h with land := false }) with lands := c.lands.filter fun l => l.h != h }

/-- The operation in flight completes (R223, R232); PIDX[63:56] is 0 again (R236). -/
def Core.finishWit (c : Core) (w : WitOp) : Core :=
  let c := (c.writeRows w.writes).setStates w.back
  let c := match w.setWb with | some h => c.setHandle h { c.handle h with wb := true } | none => c
  let c := match w.free with | some h => c.freeHandle h | none => c
  { c with wit := none, regs := c.regs.writeS w.sd w.sum false, spr := { c.spr with pidx := c.spr.pidx &&& 0xFFFFFFFFFFFFFF#64 } }

end Sys2Proof.Machine
end

