-- ==== Sys2Proof/Machine/Handles.lean ====
section
/-! DEFINITION. Engine commands as their E words describe them, the handles they use, and the buffer table: projected states, during-states
and what completion does to a handle (R237 to R245, R400 to R406). -/
namespace Sys2Proof.Machine

/-! ## Copies (R247 to R251) -/

/-- Where one side of a copy lies. -/
inductive Side
  | sp | glb | ws
  deriving DecidableEq, Repr

/-- A copy with its fields read: sides, descriptors, rows of cols elements, the global base, the base exponent of a WFX128 side. -/
structure Cpy where
  h : Nat
  s : SDesc
  d : SDesc
  rows : Nat
  cols : Nat
  dar : Darith
  rnd : Rnd
  qt : QType
  last : Bool
  ss : Side
  ds : Side
  sg : Nat
  b : Int
  deriving DecidableEq, Repr

/-- The fields of an e.cpy, none where the layout of R247 holds a reserved value, or that of R251, which a conversion out of WFX128 uses: a
source of that format with DARITH .none. -/
def readCpy (h : BitVec 6) (qs qd : Desc) (len : BitVec 16) (dar : Darith) (ec : BitVec 14) (sg : Word) : Option Cpy :=
  let s := parseDesc qs
  let d := parseDesc qd
  let rows := (len.extractLsb' 8 8).toNat + 1
  let cols := (len.extractLsb' 0 8).toNat + 1
  let side := fun (g : Bool) (x : SDesc) => if g then Side.glb else if x.space then Side.ws else Side.sp
  if s.fmt = .wfx128 ∧ dar = .none then
    let b := (ec.extractLsb' 0 12).toNat
    if 2303 < b then none
    else (Rnd.ofCode ((ec.extractLsb' 12 2).setWidth 3)).map fun r =>
      ⟨h.toNat, s, d, rows, cols, dar, r, .uni, false, side false s, side false d, 0, (b : Int) - 1280⟩
  else
    let g := (ec.extractLsb' 5 2).toNat
    if ec.getLsbD 13 ∨ g = 3 then none
    else (Rnd.ofCode (ec.extractLsb' 7 3)).map fun r =>
      ⟨h.toNat, s, d, rows, cols, dar, r, QType.ofCode (ec.extractLsb' 11 2), ec.getLsbD 10, side (g == 1) s, side (g == 2) d,
        sg.toNat, 0⟩

/-- The fields of an e.cpy.wadd (R251). -/
def readWadd (h : BitVec 6) (qs qd : Desc) (len : BitVec 16) (rnd : BitVec 2) (b : BitVec 12) : Option Cpy :=
  let s := parseDesc qs
  let d := parseDesc qd
  (Rnd.ofCode (rnd.setWidth 3)).map fun r =>
    ⟨h.toNat, s, d, (len.extractLsb' 8 8).toNat + 1, (len.extractLsb' 0 8).toNat + 1, .wadd, r, .uni, false,
      if s.space then .ws else .sp, if d.space then .ws else .sp, 0, (b.toNat : Int) - 1280⟩

/-- The copy a command makes. -/
def Cmd.cpy (m : Cmd) : Option Cpy :=
  match m.i with
  | .eCpy h _ _ len dar _ ec => readCpy h m.qs m.qd len dar ec m.a
  | .eCpyWadd h _ _ len _ rnd b => readWadd h m.qs m.qd len rnd b
  | _ => none

/-- Bytes of the values of one row, and of its scales or status bytes. -/
def SDesc.rowLen (d : SDesc) (cols : Nat) : Nat := if d.form then 32 * d.pls else (cols * d.fmt.bits + 7) / 8
def SDesc.scaleLen (d : SDesc) (cols : Nat) : Nat :=
  if d.form then scaleBytes d.fmt d.blk
  else match d.fmt with
    | .q4 => (cols + blkSize d.blk - 1) / blkSize d.blk
    | .wfx128 => cols
    | _ => 0

/-- The addresses of row r of a side: its values, its scales. -/
def Core.sideRow (c : Core) (d : SDesc) (side : Side) (sg : Nat) (consumer : Bool) (r : Nat) : Nat × Nat :=
  match side with
  | .glb => ((sg + d.base + r * d.rstr) % 2 ^ 64, (sg + d.sbase + r * d.sstr) % 2 ^ 64)
  | _ => (c.streamRow d consumer r, d.sbase + r * d.sstr)

/-- The byte ranges of the rows of a side. -/
def Core.sideRanges (c : Core) (d : SDesc) (side : Side) (sg : Nat) (consumer : Bool) (rows cols : Nat) : List (Nat × Nat) :=
  (List.range rows).flatMap fun r =>
    let a := c.sideRow d side sg consumer r
    [(a.1, d.rowLen cols), (a.2, d.scaleLen cols)].filter fun e => e.2 != 0

def Core.cpySource (c : Core) (y : Cpy) : List (Nat × Nat) := c.sideRanges y.s y.ss y.sg true y.rows y.cols
def Core.cpyDest (c : Core) (y : Cpy) : List (Nat × Nat) := c.sideRanges y.d y.ds y.sg false y.rows y.cols

/-! ## The handles a command uses (R238, R239, R248, R252, R400 to R406) -/

/-- One use: the state the handle must be in, the state while the command runs, whether completion frees it, and for the use of a ring
through a bound stream its end and rows. After completion the handle is full. -/
structure HUse where
  h : Nat
  need : Nat
  during : Nat
  frees : Bool
  ring : Option (Bool × Nat)
  deriving DecidableEq, Repr

def useWrite (h : Nat) (add : Bool) : HUse := ⟨h, if add then 2 else 0, 1, false, none⟩
def useRead (h : Nat) (last : Bool) : HUse := ⟨h, 2, 3, last, none⟩

/-- The uses of a copy. -/
def Cpy.uses (y : Cpy) : List HUse :=
  let src := if y.s.bound then [⟨y.s.hnd, 2, 3, y.last && y.h == y.s.hnd && y.ds != .sp, some (true, y.rows)⟩] else []
  match y.ds with
  | .sp => src ++ (if y.d.bound then [⟨y.d.hnd, 2, 1, false, some (false, y.rows)⟩] else [useWrite y.h (y.dar != .none)])
  | _ =>
    if y.ss = .sp then (if y.s.bound then src else [useRead y.h y.last])
    else [useWrite y.h false]

/-- The witness handle of an e.coll (R406), where it asks for a witness. -/
def collWit (a : Word) : Option Nat := if a.getLsbD 27 then some (a.extractLsb' 28 6).toNat else none

/-- The offset of the first row a descriptor names for accesses of whole rows: bits 5:0 ignored (R125). -/
def SDesc.rowBase (d : SDesc) : Nat := d.base / 64 * 64

/-- The uses of a command; the commands of the buffer table itself have none. A reduction at work uses the handles it has not given up yet
(R406). -/
def Cmd.uses (m : Cmd) : List HUse :=
  match m.i with
  | .eCpy .. | .eCpyWadd .. => (match m.cpy with | some y => y.uses | none => [])
  | .eGath h _ _ _ _ _ _ _ _ =>
    let d := parseDesc m.qd
    if d.bound then [⟨d.hnd, 2, 1, false, some (false, 1)⟩] else [useWrite h.toNat false]
  | .eScat h _ _ _ dar _ _ _ glb _ =>
    let s := parseDesc m.qs
    let src := if s.bound then [⟨s.hnd, 2, 3, false, some (true, 1)⟩] else []
    if glb then (if s.bound then src else [useRead h.toNat false]) else src ++ [useWrite h.toNat (dar != .none)]
  | .ePut h .. | .ePutLand h .. | .eMcast h .. => [useRead h.toNat false]
  | .eGet h .. | .eRatom h .. | .eCtxSave h .. | .eCtxRest h .. => [useWrite h.toNat false]
  | .eColl h _ _ _ _ _ =>
    (useRead h.toNat false :: (match collWit m.a with | some w => [useWrite w false] | none => [])).filter fun u =>
      !(m.st matches .fabric _) || m.taken.contains u.h
  | _ => []

/-- Classes of engines: copy, gather, fabric, context save (R245). -/
def engClass : Instr → Option Nat
  | .eCpy .. | .eCpyWadd .. => some 0
  | .eGath .. | .eScat .. => some 1
  | .ePut .. | .ePutLand .. | .eGet .. | .eRatom .. | .eColl .. | .eMcast .. | .eSig .. => some 2
  | .eCtxSave .. | .eCtxRest .. => some 3
  | _ => none

def Cmd.waiting (m : Cmd) : Bool := m.st == .queued || m.st == .held || m.st == .abandoned

/-- ACQ and REL of an E word. -/
def eOrd : Instr → Option EOrd
  | .eCpy _ _ _ _ _ o _ | .eCpyWadd _ _ _ _ o _ _ | .eGath _ _ _ _ o _ _ _ _ | .eScat _ _ _ _ _ o _ _ _ _ | .ePut _ _ _ _ o _ _ _ _
  | .ePutLand _ _ _ o _ _ | .eGet _ _ _ o _ _ | .eRatom _ o _ _ _ _ | .eColl _ _ _ o _ _ | .eMcast _ _ _ o _ _ | .eSig o _ => some o
  | _ => none

def Cmd.acq (m : Cmd) : Bool := match eOrd m.i with | some o => o.acq | none => false
def Cmd.rel (m : Cmd) : Bool := match eOrd m.i with | some o => o.rel | none => false

/-- A command whose completion is a release: one with .rel (R246), a WFX128 reduction (R322). -/
def Cmd.releases (m : Cmd) : Bool := m.rel || match m.i with | .eColl _ _ .wadd _ _ _ => true | _ => false

/-- A queued command that an abandoned one of its engine class and task holds back (R255, R274). -/
def Core.queueHeld (c : Core) (m : Cmd) : Bool :=
  m.st == .queued && c.cmds.any fun k => k.id < m.id && k.st == .abandoned && engClass k.i == engClass m.i && k.lid == m.lid

/-- The handle an E word names in its H field. -/
def Cmd.hndl (m : Cmd) : Option Nat :=
  match m.i with
  | .eCpy h .. | .eCpyWadd h .. | .eGath h .. | .eScat h .. | .eLand h .. | .eHset h .. | .eHfree h | .eCbp h _ | .eCbc h _
  | .ePut h .. | .ePutLand h .. | .eGet h .. | .eRatom h .. | .eColl h .. | .eMcast h .. | .eCtxSave h .. | .eCtxRest h .. =>
    some h.toNat
  | _ => none

/-- Whether a command names a handle. -/
def Cmd.names (m : Cmd) (h : Nat) : Bool := m.hndl == some h || m.uses.any fun u => u.h == h

/-! ## The commands of the buffer table (R240, R241, R243, R260) -/

/-- Every stream bound to a handle is unbound (R240, R241). -/
def Core.unbindAll (c : Core) (h : Nat) : Core :=
  let x := c.handle h
  { (c.setHandle h { x with pq := none, cq := none }) with regs := (c.regs.unbind x.cq).unbind x.pq }

/-- e.hset (R240). -/
def Core.hset (c : Core) (h : Nat) (ring full : Bool) (isz row rows : Nat) : Core :=
  let c := c.unbindAll h
  c.setHandle h { row0 := row, rows := rows, ring := ring, st := if full || ring then 2 else 0, gen := (c.handle h).gen + 1
                  isz := if ring then isz else 0 }

/-- A stream register bound to a ring (R243). -/
def bindDesc (q : Desc) (h : Nat) : Desc := clearBind q ||| (BitVec.ofNat 256 (h + 64) <<< 240)

/-- e.cbp and e.cbc (R243). -/
def Core.ringAct (c : Core) (h : Nat) (producer : Bool) (act : RingAct) : Core :=
  let x := c.handle h
  let rq := fun (k : Nat) (v : Desc) => { c with regs := c.regs.writeQ k v (SMap.get false c.regs.qPoison k) }
  match act with
  | .adv n =>
    let go := fun p => (p + n.toNat) % (2 * x.items)
    c.setHandle h (if producer then { x with prod := go x.prod } else { x with cons := go x.cons })
  | .bind q =>
    (rq q.toNat (bindDesc (c.regs.rq q.toNat) h)).setHandle h
      (if producer then { x with pq := some q.toNat } else { x with cq := some q.toNat })
  | .unb =>
    match (if producer then x.pq else x.cq) with
    | some k => (rq k (clearBind (c.regs.rq k))).setHandle h (if producer then { x with pq := none } else { x with cq := none })
    | none => c

/-- A landing descriptor (R259). -/
structure LandDesc where
  fmt : Nat
  flags : Nat
  nr : Nat
  cpr : Nat
  chb : Nat
  doff : Nat
  soff : Nat
  scb : Nat
  tr : Nat
  rest : Nat
  deriving DecidableEq, Repr

def Core.landDesc (c : Core) (o : Nat) : LandDesc :=
  let f := fun a n => lineNat c.ctab (o + a) n
  ⟨f 0 1, f 1 1, f 2 2, f 4 2, f 6 2, f 8 4, f 12 4, f 16 2, f 18 2, f 20 44⟩

def LandDesc.scales (l : LandDesc) : Bool := l.flags / 2 % 2 == 1
def LandDesc.chunks (l : LandDesc) : Nat := l.nr * l.cpr + (if l.scales then l.nr else 0)
def LandDesc.tiles (l : LandDesc) : Nat := (l.nr + l.tr - 1) / l.tr

/-- R260: what raises STREAM. -/
def LandDesc.bad (l : LandDesc) : Bool :=
  l.rest != 0 || 14 < l.fmt || 8 ≤ l.flags || l.nr == 0 || 4096 < l.nr || l.cpr == 0 || 64 < l.cpr || l.chb == 0 || l.chb % 64 != 0 ||
    16384 < l.chb || l.doff % 64 != 0 || l.soff % 64 != 0 || (if l.scales then l.scb == 0 || 64 < l.scb else l.scb != 0) || l.tr == 0 ||
    l.nr < l.tr || 4096 < l.chunks || 256 < l.tiles

/-- The bytes the two regions need. -/
def LandDesc.bytes (l : LandDesc) : Nat := max (l.doff + l.nr * l.cpr * l.chb) (if l.scales then l.soff + l.nr * 64 else 0)

/-- e.land takes effect (R260). -/
def Core.land (c : Core) (h tag o : Nat) : Core :=
  let l := c.landDesc o
  { (c.setHandle h { c.handle h with land := true, st := 1 }) with
    lands := c.lands ++ [⟨tag, h, l.flags % 2 == 1, l.scales, l.nr, l.cpr, l.chb, l.doff, l.soff, l.scb, l.tr, [], []⟩] }

/-- The effect of a command of the buffer table. -/
def Core.tableEffect (c : Core) (m : Cmd) : Core :=
  match m.i with
  | .eHset h ring full isz row rows => c.hset h.toNat ring full isz.toNat row.toNat rows.toNat
  | .eHfree h => c.freeHandle h.toNat
  | .eCbp h act => c.ringAct h.toNat true act
  | .eCbc h act => c.ringAct h.toNat false act
  | .eLand h _ tag => c.land h.toNat tag.toNat m.a.toNat
  | _ => c

def isTable : Instr → Bool
  | .eHset .. | .eHfree .. | .eCbp .. | .eCbc .. | .eLand .. => true
  | _ => false

/-! ## Transitions (R238, R244) -/

/-- What completion makes of a handle a command used. -/
def Core.endUse (c : Core) (u : HUse) : Core :=
  let x := c.handle u.h
  let x := match u.ring with
    | some (true, n) => { x with cons := (x.cons + n) % (2 * x.items) }
    | some (false, n) => { x with prod := (x.prod + n) % (2 * x.items) }
    | none => x
  let c := c.setHandle u.h { x with st := 2 }
  if u.frees then c.releaseHandle u.h else c

/-- Whether a command is at work on the rings it uses: from its start to its completion, an abandonment between them included (R242, R255). -/
def Cmd.runs (m : Cmd) : Bool :=
  match m.st with
  | .queued => false
  | _ => true

/-- The state a ring reads as (R242): filling while an engine writes items, else draining while one reads them, else full; which of two
shows, log entry 84. -/
def Core.ringSt (c : Core) (h : Nat) : Nat :=
  let used := fun (consumer : Bool) => c.cmds.any fun m => m.runs && m.uses.any fun u => u.h == h && u.ring.any fun r => r.1 == consumer
  if used false then 1 else if used true then 3 else 2

/-- The rings among the handles of a command take the state they read as. -/
def Core.ringStates (c : Core) (m : Cmd) : Core :=
  m.uses.foldl (fun c u =>
    if u.ring.isSome && (c.handle u.h).st != 0 then c.setHandle u.h { c.handle u.h with st := c.ringSt u.h } else c) c

/-- The completion of a command on the buffer table: its own effect, or the transitions of its uses. -/
def Core.endHandles (c : Core) (m : Cmd) : Core := if isTable m.i then c.tableEffect m else m.uses.foldl Core.endUse c

/-- The buffer table as it will stand once every earlier operation and command of the task has completed (R239, R262). -/
def Core.projected (c : Core) : Core :=
  let c := match c.wit with
    | some w =>
      let c := c.setStates w.back
      (match w.free with | some h => c.freeHandle h | none => c)
    | none => c
  let c := (c.cmds.filter fun m => !m.old).foldl Core.endHandles c
  { c with handles := c.handles.map fun e => if e.2.land && e.2.st == 1 then (e.1, { e.2 with st := 2 }) else e }

/-- Whether a witness form in flight names a handle (R234, R240). -/
def Core.witNames (c : Core) (h : Nat) : Bool :=
  match c.wit with
  | some w => w.back.any fun b => b.1 == h
  | none => false

/-- A use takes its during-state where the handle's actual state fits and nothing earlier that names it is still to take it (R239). -/
def Core.claim (c : Core) (earlier : List Cmd) (m : Cmd) (u : HUse) : Core × Cmd :=
  if u.ring.isSome || m.taken.contains u.h || (c.handle u.h).st != u.need || c.witNames u.h ||
      earlier.any (fun k => k.names u.h && !k.old) then (c, m)
  else (c.setHandle u.h { c.handle u.h with st := u.during }, { m with taken := u.h :: m.taken })

def Core.claimAll (c : Core) (earlier : List Cmd) (m : Cmd) : List HUse → Core × Cmd
  | [] => (c, m)
  | u :: l => let r := c.claim earlier m u; r.1.claimAll earlier r.2 l

/-- The buffer table does what it can, in issue order: its own commands complete where nothing earlier names their handle, engine
commands take their during-states (R239, R240). -/
def Core.settleFrom (c : Core) (seen : List Cmd) : List Cmd → Core
  | [] => { c with cmds := seen }
  | m :: l =>
    if m.old then c.settleFrom (seen ++ [m]) l
    else if isTable m.i then
      let h := m.hndl.getD 0
      if c.witNames h || seen.any (fun k => k.names h && !k.old) then c.settleFrom (seen ++ [m]) l
      else (c.tableEffect m).settleFrom seen l
    else
      let r := c.claimAll seen m m.uses
      r.1.settleFrom (seen ++ [r.2]) l

def Core.settle (c : Core) : Core := c.settleFrom [] c.cmds

/-! ## The completion of a witness form (R223, R232) -/

def isAdjb : Instr → Bool
  | .vAdjb .. => true
  | _ => false

/-- WITNESS_COMPLETE (R223); what waited for its handles goes on (R234, R239). -/
def execWitnessComplete (core : Nat) (s : State) : Out :=
  .next (s.modCore core fun c =>
    match c.wit with
    | some w => if c.opDue w.due && !isAdjb w.i then (c.finishWit w).settle else c
    | none => c)

/-- ADJB_COMPLETE (R232). -/
def execAdjbComplete (core : Nat) (s : State) : Out :=
  .next (s.modCore core fun c =>
    match c.wit with
    | some w => if c.opDue w.due && isAdjb w.i then (c.finishWit w).settle else c
    | none => c)


/-! ## Issue of a command -/

/-- A command joins the core's outstanding ones, and the buffer table does what it can (R245). -/
def Core.addCmd (c : Core) (i : Instr) (qs qd : Desc) (a b d : Word) : Core :=
  let m : Cmd := { id := c.seq, i := i, qs := qs, qd := qd, a := a, b := b, c := d, handler := c.handler, taken := [], st := .queued
                   poison := false, num := c.ncmd, lid := c.lid }
  ({ c with seq := c.seq + 1, ncmd := c.ncmd + 1, cmds := c.cmds ++ [m] }).settle

/-- A command of a core. -/
def Core.cmd (c : Core) (id : Nat) : Option Cmd := c.cmds.find? fun m => m.id == id
def Core.modCmd (c : Core) (id : Nat) (f : Cmd → Cmd) : Core := { c with cmds := c.cmds.map fun m => if m.id = id then f m else m }

/-- A command is issued; `at_` is its order of arrival at the cluster's engines (R284). -/
def State.issueCmd (s : State) (n : Nat) (i : Instr) (qs qd : Desc) (a b d : Word) : SlotOut :=
  .ok (s.modCore n fun c => (c.addCmd i qs qd a b d).modCmd c.seq fun m => { m with at_ := s.clock }) .fall

/-- What an earlier program of the core left running, as that program's own core would show it: its buffer table and commands. -/
def Core.oldView (c : Core) (lid : Nat) : Core :=
  { c with
    handles := SMap.get [] c.oldTabs lid, lands := [], wit := none
    cmds := (c.cmds.filter fun m => m.old && m.lid == lid).map fun m => { m with old := false } }

/-- The table and the commands of an earlier program put back. -/
def Core.putOld (c : Core) (lid : Nat) (v : Core) : Core :=
  { c with
    oldTabs := if v.cmds.isEmpty then SMap.erase c.oldTabs lid else SMap.set c.oldTabs lid v.handles
    cmds := (c.cmds.filter fun m => m.old && m.lid != lid) ++ (v.cmds.map fun m => { m with old := true }) ++
      c.cmds.filter fun m => !m.old }

/-- The core as the program that issued a command sees it: its buffer table (R132); a change made in that view. -/
def Core.seen (c : Core) (m : Cmd) : Core := if m.old then c.oldView m.lid else c
def Core.onView (c : Core) (m : Cmd) (f : Core → Core) : Core := if m.old then c.putOld m.lid (f (c.oldView m.lid)) else f c

/-- A command of the running program completes. -/
def Core.endOwn (c : Core) (m : Cmd) : Core :=
  let c := c.endHandles m
  (({ c with cmds := c.cmds.filter fun k => k.id != m.id }).ringStates m).settle

/-- A command completes: its transitions are made, it leaves the outstanding ones, and the table of its program goes on (R238, R244,
R245). -/
def Core.endCmd (c : Core) (m : Cmd) : Core := c.onView m fun v => v.endOwn m

/-- A command is abandoned, its cause pending at the task's next group boundary (R255). Where the task has ended, nothing can take the
cause or replay the command: it is discarded. -/
def Core.abandon (c : Core) (m : Cmd) (cause : Nat) (faddr : Word) : Core :=
  if m.old || c.run == .ended then c.onView m fun v => { v with cmds := v.cmds.filter fun k => k.id != m.id }
  else
    let c := c.modCmd m.id fun k => { k with st := .abandoned, got := [], gotPoison := [] }
    { c with async := c.async ++ [⟨cause, 6, faddr⟩] }

/-! ## e.hset, e.hfree, e.cbp, e.cbc, e.land (R240 to R243, R260) -/

/-- e.hset (R240). -/
def slotEHset (h : BitVec 6) (ring full : Bool) (isz : BitVec 3) (row rows : BitVec 13) : SlotFn := fun x s =>
  let c := s.core x.n
  if rows = 0 ∨ c.banks * 64 < row.toNat + rows.toNat then bankFault (row.toNat * 64)
  else if (ring ∧ rows.toNat % 2 ^ isz.toNat ≠ 0) ∨ (c.projected.handle h.toNat).land then handleFault h.toNat
  else s.issueCmd x.n (.eHset h ring full isz row rows) 0 0 0 0 0
def execEHset (h : BitVec 6) (ring full : Bool) (isz : BitVec 3) (row rows : BitVec 13) (s : State) : Out :=
  issueSolo (.eHset h ring full isz row rows) (slotEHset h ring full isz row rows) s

/-- e.hfree (R241): it never faults at issue. -/
def slotEHfree (h : BitVec 6) : SlotFn := fun x s => s.issueCmd x.n (.eHfree h) 0 0 0 0 0
def execEHfree (h : BitVec 6) (s : State) : Out := issueSolo (.eHfree h) (slotEHfree h) s

/-- R243: what raises HANDLE. -/
def Core.ringBad (c : Core) (h : Nat) (producer : Bool) (act : RingAct) : Bool :=
  let c := c.projected
  let x := c.handle h
  !x.ring || x.st == 0 ||
    (match act with
     | .adv n => decide ((if producer then x.room else x.available) < n.toNat)
     | .bind q => (if producer then x.pq else x.cq).isSome || Desc.bound (c.regs.rq q.toNat)
     | .unb => false)

/-- e.cbp (R243). -/
def slotECbp (h : BitVec 6) (act : RingAct) : SlotFn := fun x s =>
  if (s.core x.n).ringBad h.toNat true act then handleFault h.toNat else s.issueCmd x.n (.eCbp h act) 0 0 0 0 0
def execECbp (h : BitVec 6) (act : RingAct) (s : State) : Out := issueSolo (.eCbp h act) (slotECbp h act) s

/-- e.cbc (R243). -/
def slotECbc (h : BitVec 6) (act : RingAct) : SlotFn := fun x s =>
  if (s.core x.n).ringBad h.toNat false act then handleFault h.toNat else s.issueCmd x.n (.eCbc h act) 0 0 0 0 0
def execECbc (h : BitVec 6) (act : RingAct) (s : State) : Out := issueSolo (.eCbc h act) (slotECbc h act) s

/-- e.land (R260). -/
def slotELand (h : BitVec 6) (es : Reg) (tag : BitVec 14) : SlotFn := fun x s =>
  let c := s.core x.n
  let a := srcS x es
  let l := c.landDesc a.toNat
  let p := c.projected
  let t := p.handle h.toNat
  if 65536 ≤ a.toNat then bankFault a.toNat
  else if a.toNat % 64 ≠ 0 ∨ l.bad then .trap cSTREAM a 0
  else if t.ring ∨ t.st ≠ 0 ∨ t.rows * 64 < l.bytes ∨ (p.lands.any fun d => d.tag == tag.toNat) ∨ 8 ≤ p.lands.length then
    handleFault h.toNat
  else s.issueCmd x.n (.eLand h es tag) 0 0 a 0 0
def execELand (h : BitVec 6) (es : Reg) (tag : BitVec 14) (s : State) : Out := issueSolo (.eLand h es tag) (slotELand h es tag) s

end Sys2Proof.Machine
end

