-- ==== Sys2Proof/Machine/L.lean ====
section
/-! DEFINITION. The L slot (R137 to R162). Accesses to the own scratchpad and the constant tables perform in their issue cycle; every other
access leaves as an outstanding access, which performs by LOAD_RESULT_ARRIVAL or STORE_ACK_ARRIVAL. -/
namespace Sys2Proof.Machine

/-! ## The own scratchpad (R146, R147, R156) -/

/-- Rows of the buffers of a witness form in flight (R234). -/
def Core.witRows (c : Core) (r : Nat) : Bool :=
  match c.wit with
  | some w => w.back.any fun b => (c.handle b.1).has r
  | none => false

/-- The rows a row access names: one, or the pair 2k and 2k + 1 of one bank (R125, R146). -/
def rowsNamed (pair : Bool) (o : Nat) : List Nat := if pair then [o / 128 * 2, o / 128 * 2 + 1] else [o / 64]

/-- An own-scratchpad access: it stalls behind open acquires and fences (R98) and, as a write, behind a witness form on its rows (R234);
it raises BANK outside the partition or in a bank the task does not own (R115, R125); else it goes on with `k`. -/
def ownAccessAt (x : Ctx) (_ : State) (e : Word) (pair load store : Bool) (k : List Nat → SlotOut) : SlotOut :=
  let c := x.core
  let rows := rowsNamed pair e.toNat
  if c.ownBlocked x.n rows load store then .stall none
  else if store && rows.any c.witRows then .stall none
  else if !c.owns e.toNat then .trap cBANK e 0
  else k rows

/-- The two halves of a vector register. -/
def halfOf (v : VReg) (hi : Bool) : Row := if hi then v.extractLsb' 512 512 else v.extractLsb' 0 512
def lanesMask (lanes : BitVec 4) : VReg :=
  (List.range 4).foldl (fun m g => if lanes.getLsbD g then m ||| laneMask g else m) 0

/-- l.ld (R146). -/
def slotLLd (sel : RowSel) (d a : Reg) (off : BitVec 8) : SlotFn := fun x s =>
  let c := x.core
  ownAccessAt x s (effAddr (srcS x a) off 64) (sel == .pair) true false fun rows =>
    let v : VReg := match sel, rows with
      | .pair, [r0, r1] => c.row r1 ++ c.row r0
      | .hi, r0 :: _ => c.row r0 ++ (0 : Row)
      | _, r0 :: _ => (c.row r0).setWidth 1024
      | _, [] => 0
    let po : BitVec 4 := match sel, rows with
      | .pair, [r0, r1] => (if c.rowPoison r0 then 0b0011 else 0) ||| (if c.rowPoison r1 then 0b1100 else 0)
      | _, r0 :: _ => if c.rowPoison r0 then RowSel.lanes sel else 0
      | _, [] => 0
    retire x s 4 (.v d.toNat (lanesMask (RowSel.lanes sel)) v (RowSel.lanes sel) po)
def execLLd (g : Guard) (sel : RowSel) (d a : Reg) (off : BitVec 8) (s : State) : Out :=
  issueSolo (.lLd g sel d a off) (slotLLd sel d a off) s

/-- The rows a store writes from a vector register (R146). -/
def storedRows (sel : RowSel) (v : VReg) (rows : List Nat) : List RowWrite :=
  match sel, rows with
  | .pair, [r0, r1] => [⟨r0, halfOf v false, false⟩, ⟨r1, halfOf v true, false⟩]
  | .hi, r0 :: _ => [⟨r0, halfOf v true, false⟩]
  | _, r0 :: _ => [⟨r0, halfOf v false, false⟩]
  | _, [] => []

/-- The store signature of a paired launch takes a committed store's address and data (R287). -/
def Core.signStore (c : Core) (e : Word) (data : List Byte) : Core :=
  { c with pairCrc := crcBytes c.pairCrc (leBytes 8 e.toNat ++ data) }

/-- l.st (R146). -/
def slotLSt (sel : RowSel) (d a : Reg) (off : BitVec 8) : SlotFn := fun x s =>
  ownAccessAt x s (effAddr (srcS x a) off 64) (sel == .pair) false true fun rows =>
    .ok (s.modCore x.n fun c => c.writeRows (storedRows sel (x.core.regs.rv d.toNat) rows)) .fall
def execLSt (g : Guard) (sel : RowSel) (d a : Reg) (off : BitVec 8) (s : State) : Out :=
  issueSolo (.lSt g sel d a off) (slotLSt sel d a off) s

/-- l.ldq (R147): a descriptor from the constant tables, or with .sp from half a scratchpad row. -/
def slotLLdq (sp : Bool) (q : BitVec 4) (a : Reg) (off : BitVec 8) : SlotFn := fun x s =>
  let c := x.core
  let e := effAddr (srcS x a) off 32
  if Desc.bound (srcQ x q) then .trap cSTREAM (BitVec.ofNat 64 q.toNat) 0
  else if sp then
    ownAccessAt x s e false true false fun rows =>
      let r := rows.headD 0
      let v : Desc := if e.getLsbD 5 then (c.row r).extractLsb' 256 256 else (c.row r).extractLsb' 0 256
      retire x s 4 (.q q.toNat (clearBind v) (c.rowPoison r))
  else if c.ownBlocked x.n [] true false then .stall none
  else if 65536 ≤ e.toNat then .trap cBANK e 0
  else retire x s 4 (.q q.toNat (clearBind (BitVec.ofNat 256 (lineNat c.ctab (e.toNat / 32 * 32) 32)))
    (SMap.get false c.ctabPoison (e.toNat / 64)))
def execLLdq (g : Guard) (sp : Bool) (q : BitVec 4) (a : Reg) (off : BitVec 8) (s : State) : Out :=
  issueSolo (.lLdq g sp q a off) (slotLLdq sp q a off) s

/-- l.stq (R147): half a row written, the other half unchanged. -/
def slotLStq (q : BitVec 4) (a : Reg) (off : BitVec 8) : SlotFn := fun x s =>
  let e := effAddr (srcS x a) off 32
  ownAccessAt x s e false false true fun rows =>
    let r := rows.headD 0
    let v := srcQ x q
    .ok (s.modCore x.n fun c =>
      let old := c.row r
      let new : Row := if e.getLsbD 5 then v ++ old.extractLsb' 0 256 else old.extractLsb' 256 256 ++ v
      c.writeRows [⟨r, new, c.rowPoison r⟩]) .fall
def execLStq (g : Guard) (q : BitVec 4) (a : Reg) (off : BitVec 8) (s : State) : Out :=
  issueSolo (.lStq g q a off) (slotLStq q a off) s

/-- The integer format of l.saop (R138). -/
def saopFmt (f : BitVec 3) : Fmt := Fmt.ofCode (f.setWidth 4)

/-- One atomic operation on n-bit operands (R153, R156): .add wraps, .min and .max by sign. -/
def atomic (op : AOp) (n : Nat) (z : Bool) (old b : Nat) : Nat :=
  match op with
  | .add => (old + b) % 2 ^ n
  | .min => if z then min old b else if signedOf n b < signedOf n old then b else old
  | .max => if z then max old b else if signedOf n old < signedOf n b then b else old
  | .and => old &&& b
  | .or => old ||| b
  | .xor => old ^^^ b
  | .xchg => b

/-- l.saop (R156): a poisoned row stays as it is and poisons vD (R143). -/
def slotLSaop (op : AOp) (fmt : BitVec 3) (d a b : Reg) : SlotFn := fun x s =>
  let c := x.core
  ownAccessAt x s (srcS x a) false true true fun rows =>
    let r := rows.headD 0
    let f := saopFmt fmt
    let n := f.bits
    let old := c.row r
    let bv := halfOf (x.core.regs.rv b.toNat) false
    let at_ := fun (w : Row) i => w.toNat / 2 ^ (n * i) % 2 ^ n
    let new := BitVec.ofNat 512 (joinElems n ((List.range (512 / n)).map fun i => atomic op n (!f.isSigned) (at_ old i) (at_ bv i)))
    let po := c.rowPoison r
    let s := if po then s else s.modCore x.n fun c => c.writeRows [⟨r, new, false⟩]
    retire x s 4 (.v d.toNat (lanesMask 0b0011) (old.setWidth 1024) 0b0011 (if po then 0b0011 else 0))
def execLSaop (g : Guard) (op : AOp) (fmt : BitVec 3) (d a b : Reg) (s : State) : Out :=
  issueSolo (.lSaop g op fmt d a b) (slotLSaop op fmt d a b) s

/-! ## Outstanding accesses -/

/-- The target scope of a location as a core sees it (R144). -/
def targetScope (n : Nat) : Loc → Scope
  | .mem pa _ => if isHost pa then .sys else .pkg
  | .fab .. => .fab
  | .core m _ => if m = n then .task else if clusterOf m = clusterOf n then .clu else if dieOf m = dieOf n then .die else .pkg
  | .flags cl _ => if cl = clusterOf n then .clu else if dieOf (clusterCore cl 0) = dieOf n then .die else .pkg
  | _ => .pkg

/-- Whether a location is served through the own L1 as an HBM page with S clear (R148, R317). -/
def ownL1 : Loc → Bool
  | .mem pa sbit => isHbm pa && !sbit
  | _ => false

/-- A committed access joins the outstanding ones, in program order (R139). -/
def State.addAcc (s : State) (n : Nat) (op : AccOp) (loc : Loc) (dst : LDst) (e : Word) (acq rel ofl : Bool) (sc : Scope) :
    State :=
  s.modCore n fun c =>
    let a : Acc := { id := c.seq, op := op, loc := loc, dst := dst, e := e, acq := acq, rel := rel, ofl := ofl, scope := sc
                     ownL1 := ownL1 loc, handler := c.handler, sent := false, vaLine := e.toNat / 64, lid := c.lid
                     comp := match c.tlbFind c.spr.world.toNat e.toNat with | some l => leafC l | none => false }
    { c with seq := c.seq + 1, accs := c.accs ++ [a] }

/-- The management window is for handler mode of world 0 and the host; any other access raises WORLD (R365). -/
def devAllowed (c : Core) (o : Nat) : Bool := !(0x10000 ≤ o && o < 0x30000) || (c.handler && c.spr.world == 0#4)

/-- The checks of a global access: MISALIGN before translation (R141), then translation (R140), then the management window (R365). -/
def globalAt (x : Ctx) (s : State) (e : Word) (align : Nat) (store : Bool) (k : Loc → SlotOut) : SlotOut :=
  if e.toNat % align ≠ 0 then .trap cMISALIGN e 0
  else match x.core.translate e store with
    | .fault cause => .trap cause e 0
    | .walk => .stall (some e)
    | .ok leaf =>
      match s.leafLoc leaf e.toNat with
      | .dev pa => if devAllowed x.core (pa - 2 ^ 48) then k (.dev pa) else .trap cWORLD e 0
      | loc => k loc

/-- An l.ldg or l.ldgv that reads an L1-cacheable line arms the monitor on it (R114). -/
def State.armMonitor (s : State) (n : Nat) : Loc → State
  | .mem pa false => s.modCore n fun c => { c with monitor := some ⟨pa / 64, false⟩ }
  | _ => s

/-- A global load issues (R148). -/
def globalLoad (x : Ctx) (s : State) (e : Word) (n : Nat) (acq : Bool) (dst : LDst) : SlotOut :=
  globalAt x s e n false fun loc =>
    .ok ((s.armMonitor x.n loc).addAcc x.n (.load n) loc dst e acq false false (targetScope x.n loc)) .fall

/-- A global store issues, its data read now (R148). -/
def globalStore (x : Ctx) (s : State) (e : Word) (n : Nat) (rel : Bool) (data : VReg) : SlotOut :=
  globalAt x s e n true fun loc =>
    let s := s.modCore x.n fun c => c.signStore e (leBytes n data.toNat)
    .ok (s.addAcc x.n (.store n data) loc .none e false rel false (targetScope x.n loc)) .fall

def sizeBytes : Size → Nat
  | .b1 => 1 | .b2 => 2 | .b4 => 4 | .b8 => 8

/-- l.ldg (R148). -/
def slotLLdg (size : Size) (acq : Bool) (d a : Reg) (off : BitVec 8) : SlotFn := fun x s =>
  globalLoad x s (effAddr (srcS x a) off (sizeBytes size)) (sizeBytes size) acq (.s d.toNat)
def execLLdg (g : Guard) (size : Size) (acq : Bool) (d a : Reg) (off : BitVec 8) (s : State) : Out :=
  issueSolo (.lLdg g size acq d a off) (slotLLdg size acq d a off) s

/-- l.stg (R148). -/
def slotLStg (size : Size) (rel : Bool) (d a : Reg) (off : BitVec 8) : SlotFn := fun x s =>
  globalStore x s (effAddr (srcS x a) off (sizeBytes size)) (sizeBytes size) rel
    ((srcS x d).setWidth 1024)
def execLStg (g : Guard) (size : Size) (rel : Bool) (d a : Reg) (off : BitVec 8) (s : State) : Out :=
  issueSolo (.lStg g size rel d a off) (slotLStg size rel d a off) s

/-- l.ldgv (R148). -/
def slotLLdgv (q16 hi acq : Bool) (d a : Reg) (off : BitVec 8) : SlotFn := fun x s =>
  let n := if q16 then 16 else 64
  globalLoad x s (effAddr (srcS x a) off n) n acq (if q16 then .low16 d.toNat hi else .half d.toNat hi)
def execLLdgv (g : Guard) (q16 hi acq : Bool) (d a : Reg) (off : BitVec 8) (s : State) : Out :=
  issueSolo (.lLdgv g q16 hi acq d a off) (slotLLdgv q16 hi acq d a off) s

/-- l.stgv (R148). -/
def slotLStgv (q16 hi rel : Bool) (d a : Reg) (off : BitVec 8) : SlotFn := fun x s =>
  let n := if q16 then 16 else 64
  globalStore x s (effAddr (srcS x a) off n) n rel ((halfOf (x.core.regs.rv d.toNat) hi).setWidth 1024)
def execLStgv (g : Guard) (q16 hi rel : Bool) (d a : Reg) (off : BitVec 8) (s : State) : Out :=
  issueSolo (.lStgv g q16 hi rel d a off) (slotLStgv q16 hi rel d a off) s

/-! ## Remote scratchpad (R150 to R152) -/

/-- The core a remote address names within the launch, or none where R150 raises BANK at the source. -/
def State.remoteTarget (s : State) (n : Nat) (e : Word) : Option (Nat × Nat) :=
  let c := s.core n
  let o := e.toNat % 2 ^ 19
  let txt := (e.extractLsb' 32 4).toNat
  let tyt := (e.extractLsb' 36 4).toNat
  match s.launch c.lid with
  | none => none
  | some l =>
    if e.extractLsb' 19 13 ≠ 0 ∨ e.extractLsb' 40 24 ≠ 0 ∨ l.w ≤ txt ∨ l.h ≤ tyt ∨ l.p * 4096 ≤ o then none
    else some (l.coreAt c.run_ txt tyt, o)

/-- The next path class toward core m, round robin, is set in the access that has just joined (R332). -/
def Core.stepClass (c : Core) (m : Nat) : Core :=
  let r := c.takeClass m
  { r.1 with accs := c.accs.map fun a => if a.id + 1 = c.seq then { a with pcls := r.2 } else a }

/-- l.ldx (R150). -/
def slotLLdx (sel : RowSel) (acq : Bool) (d a : Reg) (off : BitVec 8) : SlotFn := fun x s =>
  let e := effAddr (srcS x a) off 64
  match s.remoteTarget x.n e with
  | none => .trap cBANK e 0
  | some (m, o) =>
    let loc := Loc.core m o
    let dst : LDst := match sel with | .pair => .pair d.toNat | .hi => .half d.toNat true | .lo => .half d.toNat false
    .ok ((s.addAcc x.n (.load (if sel = .pair then 128 else 64)) loc dst e acq false false (targetScope x.n loc)).modCore x.n
      fun c => c.stepClass m) .fall
def execLLdx (g : Guard) (sel : RowSel) (acq : Bool) (d a : Reg) (off : BitVec 8) (s : State) : Out :=
  issueSolo (.lLdx g sel acq d a off) (slotLLdx sel acq d a off) s

/-- An l.stx takes its path class, carries as a flag the counts of the stores issued before it, and is counted (R332, R337). -/
def State.countStx (s : State) (n m : Nat) (ofl : Bool) : State :=
  s.modCore n fun c =>
    let k := SMap.get 0 c.classRR m % 4
    let c := c.stepClass m
    let cnt := fun i => BitVec.ofNat 16 (SMap.get 0 c.sent (4 * m + i))
    let ofc : BitVec 64 := if ofl then cnt 3 ++ cnt 2 ++ cnt 1 ++ cnt 0 else 0
    { c with
      sent := SMap.put 0 c.sent (4 * m + k) ((SMap.get 0 c.sent (4 * m + k) + 1) % 65536)
      accs := c.accs.map fun a => if a.id + 1 = c.seq then { a with ofc := ofc } else a }

/-- l.stx, and with .of the ordered flag (R150, R152). -/
def slotLStx (sel : RowSel) (ofl : Bool) (d a : Reg) (off : BitVec 8) : SlotFn := fun x s =>
  let e := effAddr (srcS x a) off 64
  match s.remoteTarget x.n e with
  | none => .trap cBANK e 0
  | some (m, o) =>
    let loc := Loc.core m o
    let v := x.core.regs.rv d.toNat
    let data : VReg := match sel with
      | .pair => v
      | .hi => (halfOf v true).setWidth 1024
      | .lo => (halfOf v false).setWidth 1024
    let n := if sel = .pair then 128 else 64
    .ok ((s.addAcc x.n (.store n data) loc .none e false false ofl (targetScope x.n loc)).countStx x.n m ofl) .fall
def execLStx (g : Guard) (sel : RowSel) (ofl : Bool) (d a : Reg) (off : BitVec 8) (s : State) : Out :=
  issueSolo (.lStx g sel ofl d a off) (slotLStx sel ofl d a off) s

/-! ## Atomics (R153 to R155) -/

/-- l.aop (R153): a paired launch was turned away before issue (R288). -/
def slotLAop (op : AOp) (w4 z ar : Bool) (d a b : Reg) : SlotFn := fun x s =>
  let e := srcS x a
  let n := if w4 then 4 else 8
  globalAt x s e n true fun loc =>
    .ok (s.addAcc x.n (.aop op n z (srcS x b)) loc (.s d.toNat) e ar ar false (targetScope x.n loc)) .fall
def execLAop (g : Guard) (op : AOp) (w4 z ar : Bool) (d a b : Reg) (s : State) : Out :=
  issueSolo (.lAop g op w4 z ar d a b) (slotLAop op w4 z ar d a b) s

/-- l.cas (R154): a paired launch was turned away before issue (R288). -/
def slotLCas (size : CasSize) (ar : Bool) (d a b : Reg) : SlotFn := fun x s =>
  let r := x.core.regs
  let e := srcS x a
  let n := match size with | .w4 => 4 | .w8 => 8 | .q16 => 16
  let val := fun (k : Reg) => if size = .q16 then r.rs (k.toNat + 1) ++ r.rs k.toNat
    else BitVec.ofNat 128 ((r.rs k.toNat).toNat % 2 ^ (8 * n))
  globalAt x s e n true fun loc =>
    .ok (s.addAcc x.n (.cas n (val d) (val b)) loc (if size = .q16 then .s2 d.toNat else .s d.toNat) e ar ar false
      (targetScope x.n loc)) .fall
def execLCas (g : Guard) (size : CasSize) (ar : Bool) (d a b : Reg) (s : State) : Out :=
  issueSolo (.lCas g size ar d a b) (slotLCas size ar d a b) s

/-! ## Fences, drains, cache operations, prefetch and probe (R157 to R161) -/

/-- l.fence (R157). -/
def slotLFence (kind : FenceKind) (scope : Scope) : SlotFn := fun x s =>
  .ok (s.addAcc x.n (.fence kind) .none .none 0 false false false scope) .fall
def execLFence (g : Guard) (kind : FenceKind) (scope : Scope) (s : State) : Out :=
  issueSolo (.lFence g kind scope) (slotLFence kind scope) s

/-- l.drain (R158): a full fence, and the group after it waits. -/
def slotLDrain (scope : Scope) : SlotFn := fun x s =>
  .ok ((s.addAcc x.n (.fence .full) .none .none 0 false false false scope).modCore x.n
    fun c => { c with drain := some scope }) .fall
def execLDrain (g : Guard) (scope : Scope) (s : State) : Out := issueSolo (.lDrain g scope) (slotLDrain scope) s

/-- l.cwb (R159): it translates as a load. -/
def slotLCwb (a : Reg) : SlotFn := fun x s =>
  let e := srcS x a
  globalAt x s e 1 false fun loc => .ok (s.addAcc x.n .cwb loc .none e false false false (targetScope x.n loc)) .fall
def execLCwb (g : Guard) (a : Reg) (s : State) : Out := issueSolo (.lCwb g a) (slotLCwb a) s

/-- l.cinv (R159): it translates as a load. -/
def slotLCinv (a : Reg) : SlotFn := fun x s =>
  let e := srcS x a
  globalAt x s e 1 false fun loc => .ok (s.addAcc x.n .cinv loc .none e false false false (targetScope x.n loc)) .fall
def execLCinv (g : Guard) (a : Reg) (s : State) : Out := issueSolo (.lCinv g a) (slotLCinv a) s

/-- l.czero (R159): a store for every purpose of ordering and faults. -/
def slotLCzero (a : Reg) : SlotFn := fun x s =>
  let e := srcS x a
  globalAt x s e 1 true fun loc =>
    let s := s.modCore x.n fun c => c.signStore e (leBytes 64 0)
    .ok (s.addAcc x.n .czero loc .none e false false false (targetScope x.n loc)) .fall
def execLCzero (g : Guard) (a : Reg) (s : State) : Out := issueSolo (.lCzero g a) (slotLCzero a) s

/-- l.pf (R160): a hint, dropped where it would fault or names a page whose S bit is set. A miss of the TLB waits for the walk (R309). A
line for which the home slice must ask the host is asked for, and not waited for. -/
def slotLPf (ex l2 : Bool) (a : Reg) (off : BitVec 8) : SlotFn := fun x s =>
  let e := effAddr (srcS x a) off 64
  let world := (s.core x.n).spr.world.toNat
  match (s.core x.n).translate e false with
  | .ok leaf =>
    (match s.leafLoc leaf e.toNat with
     | .mem pa false =>
       let line := pa / 64
       let st := (s.core x.n).l1State line
       if l2 then .ok (if s.lacksGrant line false then s.askHost line false else s.fillL2 line world) .fall
       else if s.waitsHost x.n line ex then .ok (s.askHost line ex) .fall
       else if ex then .ok (if st == .m || st == .e then s else s.dirExclusive x.n line world .e) .fall
       else .ok (s.l1Load x.n line world) .fall
     | _ => .ok s .fall)
  | .walk => .stall (some e)
  | .fault _ => .ok s .fall
def execLPf (g : Guard) (ex l2 : Bool) (a : Reg) (off : BitVec 8) (s : State) : Out :=
  issueSolo (.lPf g ex l2 a off) (slotLPf ex l2 a off) s

/-- What l.tlbp answers (R161). -/
def tlbpWord (world : Nat) (e : Word) (leaf : Option Word) : Word :=
  if 2 ^ 56 ≤ e.toNat then 0x800#64
  else match leaf with
    | none => 0
    | some l =>
      if leafWid l ≠ world then 0x400#64
      else
        let b := fun (x : Bool) (i : Nat) => if x then 2 ^ i else 0
        BitVec.ofNat 64 (1 + b (leafW l) 1 + b (leafD l) 2 + b (leafS l) 3 + b (leafC l) 4 + b (leafI l) 5 + 64 * leafSz l +
          leafPa l e.toNat / 4096 * 4096)

/-- l.tlbp (R161): handler mode is checked before issue; it never faults. -/
def slotLTlbp (d a : Reg) : SlotFn := fun x s =>
  let e := srcS x a
  let c := x.core
  let world := c.spr.world.toNat
  let done := fun leaf => SlotOut.ok (s.addAcc x.n (.tlbp (tlbpWord world e leaf)) .none (.s d.toNat) e false false false .task) .fall
  if 2 ^ 56 ≤ e.toNat then done none
  else match c.tlbFind world e.toNat with
    | some l => done (some l)
    | none =>
      match c.walkFault with
      | some (va, _) => if va.toNat / 4096 = e.toNat / 4096 then done none else .stall (some e)
      | none => .stall (some e)
def execLTlbp (g : Guard) (d a : Reg) (s : State) : Out := issueSolo (.lTlbp g d a) (slotLTlbp d a) s

end Sys2Proof.Machine
end

