-- ==== Sys2Proof/Machine/Copy.lean ====
section
/-! DEFINITION. Copies, gathers and scatters (R247 to R258): their checks at issue, their start on an engine, and their data. A command
reads and writes its data when it completes (log entry 8). -/
namespace Sys2Proof.Machine

/-! ## Checks at issue (R253) -/

/-- The first check that fails, as a trap. -/
def firstTrap : List (Option (Nat × Word)) → Option (Nat × Word)
  | [] => none
  | some t :: _ => some t
  | none :: l => firstTrap l

def trapIf (b : Bool) (cause : Nat) (fa : Nat) : Option (Nat × Word) := if b then some (cause, BitVec.ofNat 64 fa) else none

/-- What is wrong with a packed descriptor wherever it stands. -/
def packedBad (d : SDesc) (side : Side) : Bool :=
  d.reserved || d.pls != 0 || (d.blk && d.fmt != .q4) || (side == .glb && d.space)

/-- The format that no descriptor but one of e.cpy may have (R251). -/
def SDesc.wide (d : SDesc) : Bool := d.fmt == .wfx128

/-- Check 3 on the source. -/
def Core.srcBad (c : Core) (q : Nat) (y : Cpy) : Bool :=
  packedBad y.s y.ss || y.s.form || (y.ss == .ws && y.ds != .sp) ||
    (y.s.bound && (!c.consumes q y.s || y.ss != .sp || (c.handle y.s.hnd).itemBytes < y.s.rowLen y.cols))

/-- Check 3 on the destination, and on the pair of formats (R249 to R251). -/
def Core.dstBad (c : Core) (q : Nat) (y : Cpy) : Bool :=
  (if y.d.form then
    y.d.reserved || (y.ds == .glb && y.d.space) || (y.d.blk && y.d.fmt != .q4) || y.d.pls == 0 || 16 < y.d.pls || !y.s.fmt.planeSource ||
      y.d.fmt != y.s.fmt || y.rnd != .rne
   else packedBad y.d y.ds) ||
    (y.d.bound && (!c.produces q y.d || y.ds != .sp || (c.handle y.d.hnd).itemBytes < y.d.rowLen y.cols)) ||
    ((y.d.fmt == .wfx128) != (y.dar == .wadd)) ||
    (y.s.fmt == .wfx128 && (y.dar != .none || y.ds != .sp || y.d.fmt == .q4 || y.d.form)) ||
    (y.dar != .none && 16384 < y.rows * y.d.rowLen y.cols)

/-- The bytes of a list of ranges lie in a handle's buffer. -/
def Handle.covers (h : Handle) (l : List (Nat × Nat)) : Bool :=
  l.all fun r => r.2 == 0 || (h.row0 * 64 ≤ r.1 && r.1 + r.2 ≤ (h.row0 + h.rows) * 64)

/-- Check 4: the handle that fails, of the uses of a command against the projected table (R239). -/
def Core.usesBad (c : Core) (us : List HUse) : Option Nat :=
  let p := c.projected
  (us.find? fun u => (p.handle u.h).st != u.need || (p.handle u.h).ring != u.ring.isSome).map HUse.h

/-- The uses of a copy with ring streams and its range in its buffer (R248). -/
def Core.cpyHandleBad (c : Core) (y : Cpy) : Option Nat :=
  match c.usesBad y.uses with
  | some h => some h
  | none =>
    let p := c.projected.handle y.h
    match y.ds with
    | .sp => if (y.d.bound && y.d.hnd != y.h) || !p.covers (c.cpyDest y) then some y.h else none
    | _ => if y.ss == .sp && ((y.s.bound && y.s.hnd != y.h) || !p.covers (c.cpySource y)) then some y.h else none

/-- The checks of R253 on a copy that has its fields. -/
def State.cpyTrap (s : State) (n word qs qd : Nat) (y : Cpy) : Option (Nat × Word) :=
  let c := s.core n
  let src := c.cpySource y
  let dst := c.cpyDest y
  let gbase := fun (d : SDesc) => (y.sg + d.base) % 2 ^ 64
  let spr := (if y.ss = .sp then src else []) ++ (if y.ds = .sp then dst else [])
  let wsr := (if y.ss = .ws then src else []) ++ (if y.ds = .ws then dst else [])
  firstTrap [
    trapIf (y.dar != .none && y.s.fmt != .wfx128 && (y.ds != .sp || y.d.form || y.d.fmt == .q4)) cILLEGAL word,
    trapIf (y.ds == .ws && !c.handler) cPRIV word,
    trapIf (y.ss == .glb && gbase y.s % 64 != 0) cMISALIGN (gbase y.s),
    trapIf (y.ds == .glb && gbase y.d % 64 != 0) cMISALIGN (gbase y.d),
    trapIf (c.srcBad qs y) cSTREAM qs, trapIf (c.dstBad qd y) cSTREAM qd,
    (c.cpyHandleBad y).map fun h => (cHANDLE, BitVec.ofNat 64 h),
    (c.spFail spr).map fun o => (cBANK, BitVec.ofNat 64 o),
    (s.wsFail (dieOf n) c.spr.world.toNat wsr).map fun o => (cWORLD, BitVec.ofNat 64 o)]

/-- Issue of a command after its checks. -/
def State.checkedCmd (s : State) (n : Nat) (t : Option (Nat × Word)) (i : Instr) (qs qd : Desc) (a b d : Word) : SlotOut :=
  match t with
  | some (k, fa) => .trap k fa 0
  | none => s.issueCmd n i qs qd a b d

/-- e.cpy (R247 to R250). -/
def slotECpy (h : BitVec 6) (qs qd : BitVec 4) (len : BitVec 16) (dar : Darith) (ord : EOrd) (ec : BitVec 14) : SlotFn := fun x s =>
  let vs := srcQ x qs
  let vd := srcQ x qd
  let sg := x.core.regs.rs (ec.extractLsb' 0 5).toNat
  match readCpy h vs vd len dar ec sg with
  | none => .trap cILLEGAL (BitVec.ofNat 64 x.word) 0
  | some y => s.checkedCmd x.n (s.cpyTrap x.n x.word qs.toNat qd.toNat y) (.eCpy h qs qd len dar ord ec) vs vd sg 0 0
def execECpy (h : BitVec 6) (qs qd : BitVec 4) (len : BitVec 16) (dar : Darith) (ord : EOrd) (ec : BitVec 14) (s : State) : Out :=
  issueSolo (.eCpy h qs qd len dar ord ec) (slotECpy h qs qd len dar ord ec) s

/-- e.cpy.wadd (R251). -/
def slotECpyWadd (h : BitVec 6) (qs qd : BitVec 4) (len : BitVec 16) (ord : EOrd) (rnd : BitVec 2) (bexp : BitVec 12) : SlotFn :=
  fun x s =>
  let vs := srcQ x qs
  let vd := srcQ x qd
  match readWadd h vs vd len rnd bexp with
  | none => .trap cILLEGAL (BitVec.ofNat 64 x.word) 0
  | some y => s.checkedCmd x.n (s.cpyTrap x.n x.word qs.toNat qd.toNat y) (.eCpyWadd h qs qd len ord rnd bexp) vs vd 0 0 0
def execECpyWadd (h : BitVec 6) (qs qd : BitVec 4) (len : BitVec 16) (ord : EOrd) (rnd : BitVec 2) (bexp : BitVec 12) (s : State) :
    Out := issueSolo (.eCpyWadd h qs qd len ord rnd bexp) (slotECpyWadd h qs qd len ord rnd bexp) s

/-- A gather or scatter: its index list, its data stream, its base, its shift, its format. -/
structure Gath where
  h : Nat
  idx : SDesc
  dat : SDesc
  qi : Nat
  qd : Nat
  count : Nat
  dar : Darith
  sb : Nat
  xsh : Nat
  glb : Bool
  fmt : Fmt
  scat : Bool
  deriving DecidableEq, Repr

def Cmd.gath (m : Cmd) : Option Gath :=
  match m.i with
  | .eGath h qs qd len _ _ xsh glb f =>
    some ⟨h.toNat, parseDesc m.qs, parseDesc m.qd, qs.toNat, qd.toNat, len.toNat, .none, m.a.toNat, xsh.toNat, glb, f, false⟩
  | .eScat h qs qd len dar _ _ xsh glb f =>
    some ⟨h.toNat, parseDesc m.qd, parseDesc m.qs, qd.toNat, qs.toNat, len.toNat, dar, m.a.toNat, xsh.toNat, glb, f, true⟩
  | _ => none

def Gath.bytes (y : Gath) : Nat := y.fmt.bits / 8

/-- The scratchpad bytes of the index list and of the data stream. -/
def Core.gathIdx (c : Core) (y : Gath) : List (Nat × Nat) := [(c.streamRow y.idx true 0, 4 * y.count)]
def Core.gathDat (c : Core) (y : Gath) : List (Nat × Nat) := [(c.streamRow y.dat y.scat 0, y.bytes * y.count)]

/-- The checks of R253 on a gather or scatter. -/
def State.gathTrap (s : State) (n : Nat) (us : List HUse) (y : Gath) : Option (Nat × Word) :=
  let c := s.core n
  let bad := fun (d : SDesc) => packedBad d .sp || d.form || d.space || d.wide
  let ibad := bad y.idx || y.idx.bound
  let dbad := bad y.dat || (y.dat.bound && (!(if y.scat then c.consumes y.qd y.dat else c.produces y.qd y.dat) ||
    (c.handle y.dat.hnd).itemBytes < y.bytes * y.count))
  let big := y.dar != .none && 16384 < y.bytes * y.count
  let inBuf := !y.scat || y.glb
  let hbad := (y.dat.bound && inBuf && y.dat.hnd != y.h) || (inBuf && !(c.projected.handle y.h).covers (c.gathDat y))
  firstTrap [
    trapIf (if y.scat then dbad else ibad) cSTREAM (if y.scat then y.qd else y.qi),
    trapIf ((if y.scat then ibad else dbad) || big) cSTREAM (if y.scat then y.qi else y.qd),
    (c.usesBad us).map fun h => (cHANDLE, BitVec.ofNat 64 h), trapIf hbad cHANDLE y.h,
    (c.spFail (c.gathIdx y ++ c.gathDat y)).map fun o => (cBANK, BitVec.ofNat 64 o)]

/-- Issue of a gather or scatter. -/
def gatherIssue (i : Instr) (qs qd : BitVec 4) (es : Reg) : SlotFn := fun x s =>
  let c := s.core x.n
  let m : Cmd := { id := 0, i := i, qs := srcQ x qs, qd := srcQ x qd, a := srcS x es, b := 0, c := 0
                   handler := c.handler, taken := [], st := .queued, poison := false }
  match m.gath with
  | none => .ok s .fall
  | some y => s.checkedCmd x.n (s.gathTrap x.n m.uses y) i m.qs m.qd m.a 0 0

/-- e.gath (R252). -/
def slotEGath (h : BitVec 6) (qs qd : BitVec 4) (len : BitVec 16) (ord : EOrd) (es : Reg) (xsh : BitVec 5) (glb : Bool)
    (fmt : Fmt) : SlotFn := gatherIssue (.eGath h qs qd len ord es xsh glb fmt) qs qd es
def execEGath (h : BitVec 6) (qs qd : BitVec 4) (len : BitVec 16) (ord : EOrd) (es : Reg) (xsh : BitVec 5) (glb : Bool)
    (fmt : Fmt) (s : State) : Out := issueSolo (.eGath h qs qd len ord es xsh glb fmt) (slotEGath h qs qd len ord es xsh glb fmt) s

/-- e.scat (R252). -/
def slotEScat (h : BitVec 6) (qs qd : BitVec 4) (len : BitVec 16) (dar : Darith) (ord : EOrd) (es : Reg) (xsh : BitVec 5)
    (glb : Bool) (fmt : Fmt) : SlotFn := gatherIssue (.eScat h qs qd len dar ord es xsh glb fmt) qs qd es
def execEScat (h : BitVec 6) (qs qd : BitVec 4) (len : BitVec 16) (dar : Darith) (ord : EOrd) (es : Reg) (xsh : BitVec 5)
    (glb : Bool) (fmt : Fmt) (s : State) : Out :=
  issueSolo (.eScat h qs qd len dar ord es xsh glb fmt) (slotEScat h qs qd len dar ord es xsh glb fmt) s

/-! ## Global lines an engine reads or writes (R255) -/

/-- The world of a launch. -/
def State.worldOf (s : State) (lid : Nat) : Nat := match s.launch lid with | some l => l.world | none => 0

/-- Where a virtual line of 64 bytes lies; a device-control page is WORLD for an engine. -/
def State.lineLoc (s : State) (lid line : Nat) (store : Bool) : Except Nat Loc :=
  match s.translateFor lid (64 * line) store with
  | .error k => .error k
  | .ok leaf =>
    match s.leafLoc leaf (64 * line) with
    | .dev _ => .error cWORLD
    | l => .ok l

/-- The first line of a list that does not translate: its cause, its address. -/
def State.linesFault (s : State) (lid : Nat) (store : Bool) : List Nat → Option (Nat × Nat)
  | [] => none
  | v :: l => (match s.lineLoc lid v store with | .error k => some (k, 64 * v) | .ok _ => s.linesFault lid store l)

/-- The lines of a list in other packages, with package and address. -/
def State.farLines (s : State) (lid : Nat) (store : Bool) (l : List Nat) : List (Nat × Nat × Nat) :=
  l.filterMap fun v => match s.lineLoc lid v store with | .ok (.fab p pa) => some (v, p, pa) | _ => none

/-- Lines of this package read at their home slices into what a command has received (R296). -/
def State.gatherLines (s : State) (n : Nat) (m : Cmd) : List Nat → State × Cmd
  | [] => (s, m)
  | v :: l =>
    match s.lineLoc m.lid v false with
    | .ok (.mem pa _) =>
      let r := s.homeRead (pa / 64 * 64) 64 (s.worldOf m.lid)
      r.1.gatherLines n { m with got := SMap.set m.got v (BitVec.ofNat 512 r.2.1), gotPoison := SMap.put false m.gotPoison v r.2.2 } l
    | _ => s.gatherLines n m l

/-- The C bit of the leaf a launch's line is written through (R299). -/
def State.lineComp (s : State) (lid line : Nat) : Bool :=
  match s.translateFor lid (64 * line) true with
  | .ok leaf => leafC leaf
  | .error _ => false

/-- A span written at a storage address by an engine, at its home slice (R296); poisoned data poison the line. -/
def State.putGlobal (s : State) (lid pa : Nat) (bytes : List Byte) (poison comp : Bool) : State :=
  (s.homeStore (pa / 64) (s.worldOf lid) (bytes.length == 64) poison comp).storeBytes pa bytes

/-- The lines of ranges of bytes. -/
def linesOf (l : List (Nat × Nat)) : List Nat := (l.flatMap fun r => rowsOf r.1 r.2).eraseDups

/-- A request for a line of another package. -/
def readReq (pa n : Nat) : FabReq := ⟨0, 0, 0, .read, pa, n, [], 0, 0⟩
def writeReq (pa : Nat) (d : List Byte) (poison : Bool) : FabReq := ⟨0, 0, 0, .write, pa, 0, d, 0, if poison then 1 else 0⟩

/-- Lines asked of other packages for a command. -/
def State.askLines (s : State) (n : Nat) (m : Cmd) (far : List (Nat × Nat × Nat)) : State :=
  far.foldl (fun s f => s.request (s.worldOf m.lid) f.2.1 m.lid (.cmd n m.id f.1) (readReq f.2.2 64)) s

/-! ## Rows as they are written -/

/-- Rows a command writes, by row or line number, over what stands there (R249, R250). -/
abbrev Overlay := SMap (Option (Row × Bool))

def ovGet (base : Nat → Row × Bool) (o : Overlay) (k : Nat) : Row × Bool := (SMap.get none o k).getD (base k)

/-- Bytes put over the rows from an address on; `bad` says of each byte whether poisoned data contribute to it (R256). -/
def ovPut (base : Nat → Row × Bool) (o : Overlay) (addr : Nat) (bytes : List Byte) (bad : Nat → Bool) : Overlay :=
  (spansFrom addr false bytes (bytes.length / 64 + 2)).foldl (fun o w =>
    let k := w.off / 64
    let old := ovGet base o k
    let b := bytesOf old.1
    let i := w.off % 64
    SMap.set o k (some (rowOf (b.take i ++ w.bytes ++ b.drop (i + w.bytes.length)),
      old.2 || (List.range w.bytes.length).any fun j => bad (w.off - addr + j)))) o

/-- n bytes at an address under the overlay, as a number. -/
def ovNat (base : Nat → Row × Bool) (o : Overlay) (addr n : Nat) : Nat :=
  leNat ((List.range n).map fun i => rowByte (ovGet base o ((addr + i) / 64)).1 ((addr + i) % 64))

/-! ## Elements of a copy (R249 to R251) -/

/-- Raw element j of a row of values. -/
def rawAt (row bits j : Nat) : Nat := row / 2 ^ (bits * j) % 2 ^ bits

/-- Element j of a source row as a value: `row` and `sc` are its bytes and its scale or status bytes. -/
def Cpy.val (y : Cpy) (row sc j : Nat) : Val :=
  match y.s.fmt with
  | .q4 => q4Val (rawAt sc 8 (j / blkSize y.s.blk)) (rawAt row 4 j)
  | .wfx128 => Wfx.toVal y.b ⟨BitVec.ofNat 128 (rawAt row 128 j), BitVec.ofNat 4 (rawAt sc 8 j)⟩
  | f => valOf f (rawAt row f.bits j)

/-- The greatest finite magnitude of a list, for a scale byte (R175). -/
def finiteMax (l : List Val) : Nat × Int :=
  l.foldl (fun (acc : Nat × Int) v =>
    match v with
    | .fin _ m e => if (Val.fin false acc.1 acc.2).lt (.fin false m e) then (m, e) else acc
    | _ => acc) (0, 0)

/-- The values of one row in plane form: slices, scales, elements zeroed (R62, R126, R249). -/
def Cpy.planeRow (y : Cpy) (row sc : Nat) : List Byte × List Byte × Nat :=
  let vals := (List.range 256).map fun j => if j < y.cols then y.val row sc j else .fin false 0 0
  let group := fun g => (vals.drop (16 * g)).take 16
  let scale := fun g => if y.s.fmt = .q4 then rawAt sc 8 (16 * g / blkSize y.s.blk) else 0
  let las := (List.range 16).map fun g => alignLog y.s.fmt (scale g) (group g)
  let pl := y.d.pls
  let ps := (List.range 256).map fun j => wrapTo pl ((vals.getD j .nan).floorUnit (1 - (pl : Int) + las.getD (j / 16) 0))
  let slice := fun b => leBytes 32 (joinElems 1 (ps.map fun p => p / 2 ^ b % 2))
  let scales := match y.s.fmt with
    | .s8 | .s16 | .z8 => []
    | .q4 => leBytes (scaleBytes .q4 y.d.blk) sc
    | _ => leBytes 32 (joinElems 16 (las.map (wrapTo 16)))
  ((List.range pl).flatMap slice, scales, (vals.filter Val.nonFinite).length)

/-- Whether a packed destination has the format of its source, block size included: the bits are copied (R249). -/
def Cpy.same (y : Cpy) : Bool := y.s.fmt == y.d.fmt && (y.d.fmt != .q4 || y.s.blk == y.d.blk)

/-- The values of one row in packed Q4: codes, scale bytes, elements zeroed (R57, R175, R249). -/
def Cpy.q4Row (y : Cpy) (row sc : Nat) : List Byte × List Byte × Nat :=
  if y.same then (leBytes (y.d.rowLen y.cols) (row % 16 ^ y.cols), leBytes (y.d.scaleLen y.cols) sc, 0)
  else
  let vals := (List.range y.cols).map (y.val row sc)
  let k := blkSize y.d.blk
  let scales := (List.range (y.d.scaleLen y.cols)).map fun b => scaleByte y.qt (finiteMax ((vals.drop (k * b)).take k))
  let codes := (List.range y.cols).map fun j => toQ4 (scales.getD (j / k) 0) y.rnd (vals.getD j .nan)
  (leBytes (y.d.rowLen y.cols) (joinElems 4 codes), leBytes scales.length (joinElems 8 scales), (vals.filter Val.isNan).length)

/-- The values of one row in another packed format: a copy to the same format keeps the bits, NaNs made canonical (R249). -/
def Cpy.packedRow (y : Cpy) (row sc : Nat) : List Byte :=
  let f := y.d.fmt
  leBytes (y.d.rowLen y.cols) (joinElems f.bits ((List.range y.cols).map fun j =>
    if y.s.fmt = f then canon f (rawAt row f.bits j) else convertVal f y.rnd (y.val row sc j)))

/-- One element applied to d (R250). -/
def Cpy.apply (y : Cpy) (d : Nat) (x : Val) (raw : Nat) : Nat :=
  let f := y.d.fmt
  let r := if y.s.fmt = f then canon f raw else convertVal f y.rnd x
  match y.dar with
  | .add => convertVal f y.rnd ((valOf f d).add x)
  | .max => rankMax f d r
  | .min => rankMin f d r
  | _ => r

/-- Elements lo to hi − 1 of a row hold poisoned data. -/
def anyBad (bad : Nat → Bool) (lo hi : Nat) : Bool := (List.range (hi - lo)).any fun i => bad (lo + i)

/-- Whether poisoned elements of a source row contribute to byte `i` of the values, or of the scales, of the row it becomes (R249, R256):
a value's own bits, its block's where the block has one scale, its group's in plane form. -/
def Cpy.valBad (y : Cpy) (bad : Nat → Bool) (i : Nat) : Bool :=
  let bits := y.d.fmt.bits
  let k := blkSize y.d.blk
  if y.d.form then let g := i % 32 / 2; anyBad bad (16 * g) (min y.cols (16 * g + 16))
  else if y.d.fmt = .q4 && !y.same then let b := 2 * i / k; anyBad bad (k * b) (min y.cols (k * b + k))
  else anyBad bad (8 * i / bits) (min y.cols ((8 * i + 7) / bits + 1))
def Cpy.scaleBad (y : Cpy) (bad : Nat → Bool) (i : Nat) : Bool :=
  let k := blkSize y.d.blk
  if y.d.fmt = .q4 then anyBad bad (k * i) (min y.cols (k * i + k))
  else let g := i / 2; anyBad bad (16 * g) (min y.cols (16 * g + 16))

/-- One row of a copy put over its destination: `a` is where it goes, `bad` names its elements with poisoned data. -/
def Cpy.place (y : Cpy) (base : Nat → Row × Bool) (o : Overlay) (a : Nat × Nat) (row sc : Nat) (bad : Nat → Bool) : Overlay × Nat :=
  let f := y.d.fmt
  match y.dar with
  | .none =>
    let r := if y.d.form then y.planeRow row sc else if f = .q4 then y.q4Row row sc else (y.packedRow row sc, [], 0)
    (ovPut base (ovPut base o a.1 r.1 (y.valBad bad)) a.2 r.2.1 (y.scaleBad bad), r.2.2)
  | .wadd =>
    let old := ovNat base o a.1 (16 * y.cols)
    let st := ovNat base o a.2 y.cols
    let ws := (List.range y.cols).map fun j =>
      Wfx.add ⟨BitVec.ofNat 128 (rawAt old 128 j), BitVec.ofNat 4 (rawAt st 8 j)⟩ (wfxOf y.b y.rnd (y.val row sc j))
    (ovPut base (ovPut base o a.1 (leBytes (16 * y.cols) (joinElems 128 (ws.map fun w => w.val.toNat))) fun i => bad (i / 16)) a.2
      (leBytes y.cols (joinElems 8 (ws.map fun w => w.status.toNat))) bad, 0)
  | _ =>
    let n := y.d.rowLen y.cols
    let old := ovNat base o a.1 n
    (ovPut base o a.1 (leBytes n (joinElems f.bits ((List.range y.cols).map fun j =>
      y.apply (rawAt old f.bits j) (y.val row sc j) (rawAt row y.s.fmt.bits j)))) fun i => bad (8 * i / f.bits), 0)

/-! ## The start of a command -/

/-- Bytes of a source as an engine reads them: number and poison. -/
structure Reader where
  nat : Nat → Nat → Nat
  bad : Nat → Nat → Bool

def State.reader (s : State) (n : Nat) (m : Cmd) (side : Side) : Reader :=
  let c := s.core n
  match side with
  | .sp => ⟨c.spNat, fun o k => (rowsOf o k).any c.rowPoison⟩
  | .ws => ⟨s.wsNat (dieOf n), s.wsPoisoned (dieOf n)⟩
  | .glb => ⟨lineNat m.got, fun o k => (rowsOf o k).any fun v => SMap.get false m.gotPoison v⟩

/-- Engine reads of the weight store under way on a die, and x.ldw under way (R135). -/
def State.wsReads (s : State) (die : Nat) : Bool :=
  s.cores.any fun e => dieOf e.1 == die && ((e.2.arr0.ldw.any LdwOp.ws) || (e.2.arr1.ldw.any LdwOp.ws) ||
    e.2.cmds.any fun m => (match m.st with | .running _ | .fabric _ => true | _ => false) &&
      (match m.cpy with | some y => y.ss == .ws | none => false))

/-- A command begins to run: with rows to fetch it waits for them, else it completes after a number of cycles. -/
def State.beginCmd (s : State) (n : Nat) (m : Cmd) (eng cycles : Nat) (far : List (Nat × Nat × Nat)) : State :=
  let c := s.core n
  let st := if far.isEmpty then CmdState.running (c.tick + 7 + cycles) else .fabric far.length
  (s.setCore n (c.modCmd m.id fun k => { k with st := st, eng := eng })).askLines n m far

/-- A copy starts on an engine (R135, R254, R255). -/
def State.startCopy (s : State) (n : Nat) (m : Cmd) (y : Cpy) (eng : Nat) : State :=
  let c := (s.core n).seen m
  let src := c.cpySource y
  let dst := c.cpyDest y
  let gl := linesOf (if y.ss = .glb then src else [])
  let gd := linesOf (if y.ds = .glb then dst else [])
  let s := s.walkFor m.lid ((gl ++ gd).map (64 * ·))
  match (s.linesFault m.lid false gl).orElse (fun _ => s.linesFault m.lid true gd) with
  | some (k, a) => s.modCore n fun c => c.abandon m k (BitVec.ofNat 64 a)
  | none =>
    if y.ds = .ws ∧ s.wsReads (dieOf n) then s.modCore n fun c => c.modCmd m.id fun k => { k with st := .held, eng := eng }
    else
      let w := max (if y.ss = .sp then (linesOf src).length else 0) (if y.ds = .sp then (linesOf dst).length else 0)
      s.beginCmd n m eng (w + (if y.dar = .none then 0 else (linesOf dst).length)) (s.farLines m.lid false gl)

/-- Index j of the list, and the address of element j. -/
def Core.gathAddr (c : Core) (y : Gath) (j : Nat) : Nat :=
  (y.sb + c.spNat ((c.streamRow y.idx true 0) + 4 * j) 4 * 2 ^ y.xsh) % 2 ^ 64

/-- What abandons a gather or scatter at run time, of its elements in order: MISALIGN, HANDLE, BANK, or a translation fault (R252, R255). -/
def State.gathFault (s : State) (c : Core) (lid : Nat) (y : Gath) : List Nat → Option (Nat × Nat)
  | [] => none
  | j :: l =>
    let a := c.gathAddr y j
    let b := y.bytes
    let r := firstTrap [
      trapIf (a % b != 0) cMISALIGN a,
      trapIf (!y.glb && y.scat && !(c.handle y.h).covers [(a, b)]) cHANDLE y.h,
      if y.glb then none else (c.spFail [(a, b)]).map fun o => (cBANK, BitVec.ofNat 64 o),
      if y.glb then (s.linesFault lid y.scat [a / 64]).map fun e => (e.1, BitVec.ofNat 64 a) else none]
    match r with
    | some (k, fa) => some (k, fa.toNat)
    | none => s.gathFault c lid y l

/-- A gather or scatter starts (R252). -/
def State.startGath (s : State) (n : Nat) (m : Cmd) (y : Gath) : State :=
  let c := (s.core n).seen m
  let s := if y.glb then s.walkFor m.lid ((List.range y.count).map (c.gathAddr y)) else s
  match s.gathFault c m.lid y (List.range y.count) with
  | some (k, a) => s.modCore n fun c => c.abandon m k (BitVec.ofNat 64 a)
  | none =>
    let gl := if y.glb && !y.scat then ((List.range y.count).map fun j => c.gathAddr y j / 64).eraseDups else []
    s.beginCmd n m 2 y.count (s.farLines m.lid false gl)

/-! ## The data of a command -/

/-- NFC of a handle (R237, R249). -/
def Core.addNfc (c : Core) (h k : Nat) : Core := if k = 0 then c else c.setHandle h { c.handle h with nfc := min ((c.handle h).nfc + k) 65535 }

/-- Whether element j of a source row, or the scale or status byte it is read with, is poisoned. -/
def Cpy.elemBad (y : Cpy) (rd : Reader) (a : Nat × Nat) (j : Nat) : Bool :=
  let bits := y.s.fmt.bits
  rd.bad (a.1 + bits * j / 8) (max 1 (bits / 8)) ||
    (match y.s.fmt with
     | .q4 => rd.bad (a.2 + j / blkSize y.s.blk) 1
     | .wfx128 => rd.bad (a.2 + j) 1
     | _ => false)

/-- The rows a copy writes, and the elements it zeroed. -/
def State.copyRows (s : State) (n : Nat) (m : Cmd) (y : Cpy) : Overlay × Nat :=
  let c := (s.core n).seen m
  let rd := s.reader n m y.ss
  let base : Nat → Row × Bool := fun k => if y.dar = .none then (0, false) else (c.row k, c.rowPoison k)
  (List.range y.rows).foldl (fun (acc : Overlay × Nat) r =>
    let a := c.sideRow y.s y.ss y.sg true r
    let sl := y.s.scaleLen y.cols
    let p := y.place base acc.1 (c.sideRow y.d y.ds y.sg false r) (rd.nat a.1 (y.s.rowLen y.cols)) (rd.nat a.2 sl) (y.elemBad rd a)
    (p.1, acc.2 + p.2)) ([], 0)

/-- Spans of lines written to global memory for a command: this package's at their home slices, the rest as requests; how many wait. -/
def State.putSpansGlobal (s : State) (n : Nat) (m : Cmd) : List SpanWrite → State × Nat
  | [] => (s, 0)
  | w :: l =>
    match s.lineLoc m.lid (w.off / 64) true with
    | .ok (.mem pa _) => (s.putGlobal m.lid (pa / 64 * 64 + w.off % 64) w.bytes w.poison (s.lineComp m.lid (w.off / 64))).putSpansGlobal n m l
    | .ok (.fab p pa) =>
      let r := (s.request (s.worldOf m.lid) p m.lid (.cmd n m.id w.off) (writeReq (pa / 64 * 64 + w.off % 64) w.bytes w.poison)).putSpansGlobal n m l
      (r.1, r.2 + 1)
    | _ => s.putSpansGlobal n m l

/-- The rows of an overlay as row writes and as spans. -/
def ovRows (o : Overlay) : List RowWrite := o.filterMap fun e => e.2.map fun v => ⟨e.1, v.1, v.2⟩
def ovSpans (o : Overlay) : List SpanWrite := o.filterMap fun e => e.2.map fun v => ⟨64 * e.1, bytesOf v.1, v.2⟩

/-- The engine's part of a paired launch's signature: row address, contents, issue number (R287). -/
def Core.signRows (c : Core) (num : Nat) (l : List SpanWrite) : Core :=
  { c with pairSum := l.foldl (fun acc w =>
      acc + (crcEnd (crcBytes 0xFFFFFFFF (leBytes 8 w.off ++ w.bytes ++ leBytes 8 num))).setWidth 64) c.pairSum }

/-- One answer has come: rows fetched begin the command's run when the last is here, sent ones end it (R400). -/
def Core.answered (c : Core) (m : Cmd) (row : Nat) : Core :=
  c.modCmd m.id fun k =>
    let k := { k with acked := row :: k.acked }
    match k.st with
    | .fabric left => if left ≤ 1 && (k.cpy.isSome || k.gath.isSome) then { k with st := .running c.tick } else { k with st := .fabric (left - 1) }
    | .posting left => { k with st := .posting (left - 1) }
    | _ => k

/-- Data of a command in place: it completes now, or when what it sent is acknowledged. -/
def State.placeCmd (s : State) (n : Nat) (m : Cmd) (left : Nat) : State :=
  s.modCore n fun c =>
    if left = 0 then (match c.cmd m.id with | some m' => c.endCmd m' | none => c)
    else c.modCmd m.id fun k => { k with st := .posting left }

/-- Rows of the weight store of a die (R134, R135). -/
def State.putWs (s : State) (die : Nat) (l : List RowWrite) : State :=
  { s with
    ws := l.foldl (fun t w => SMap.put 0 t (die * 2 ^ 22 + w.row) w.val) s.ws
    wsPoison := l.foldl (fun t w => (List.range 8).foldl (fun t k => SMap.put false t (die * 2 ^ 25 + 8 * w.row + k) w.poison) t) s.wsPoison }

/-- The 64-byte rows that spans of single elements make up, a byte none of them writes taken as zero (R287; log entry 88). -/
def spanRows (l : List SpanWrite) : List SpanWrite :=
  ovSpans (l.foldl (fun o w => ovPut (fun _ => (0, false)) o w.off w.bytes fun _ => w.poison) [])

/-- The global spans of a command in a paired launch: signed by rows, and in the shadow run discarded (R287). -/
def State.pairSpans (s : State) (n : Nat) (m : Cmd) (l : List SpanWrite) : State × List SpanWrite :=
  if s.paired n then (s.modCore n fun c => c.signRows m.num (spanRows l), if (s.core n).run_ = 1 then [] else l) else (s, l)

/-- A copy completes (R249 to R251, R255). -/
def State.finishCopy (s : State) (n : Nat) (m : Cmd) (y : Cpy) : State :=
  let c := (s.core n).seen m
  let gl := linesOf (if y.ss = .glb then c.cpySource y else [])
  let gd := linesOf (if y.ds = .glb then c.cpyDest y else [])
  match (s.linesFault m.lid false gl).orElse (fun _ => s.linesFault m.lid true gd) with
  | some (k, a) => s.modCore n fun c => c.abandon m k (BitVec.ofNat 64 a)
  | none =>
    let r := s.gatherLines n m gl
    let s := r.1
    let o := s.copyRows n r.2 y
    let s := if o.2 = 0 then s else s.modCore n fun c => c.onView m fun v => v.addNfc y.h o.2
    match y.ds with
    | .sp => (s.modCore n fun c => c.writeRows (ovRows o.1)).placeCmd n m 0
    | .ws => (s.putWs (dieOf n) (ovRows o.1)).placeCmd n m 0
    | .glb =>
      let p := s.pairSpans n m (ovSpans o.1)
      let w := p.1.putSpansGlobal n m p.2
      w.1.placeCmd n m w.2

/-- Element j of a scatter applied in order (R250, R252). -/
def Gath.apply (y : Gath) (d x : Nat) : Nat :=
  let f := y.fmt
  match y.dar with
  | .add => convertVal f .rne ((valOf f d).add (valOf f x))
  | .max => rankMax f d (canon f x)
  | .min => rankMin f d (canon f x)
  | _ => x

/-- A gather or scatter completes (R252). -/
def State.finishGath (s : State) (n : Nat) (m : Cmd) (y : Gath) : State :=
  let c := (s.core n).seen m
  let b := y.bytes
  let js := List.range y.count
  match s.gathFault c m.lid y js with
  | some (k, a) => s.modCore n fun c => c.abandon m k (BitVec.ofNat 64 a)
  | none =>
    let here : Nat → Row × Bool := fun k => (c.row k, c.rowPoison k)
    let dat := (c.streamRow y.dat y.scat 0)
    let ibad := fun j => c.rowPoison ((c.streamRow y.idx true 0 + 4 * j) / 64)
    if y.scat then
      let x := fun j => c.spNat (dat + b * j) b
      let bad := fun j => ibad j || c.rowPoison ((dat + b * j) / 64)
      if y.glb then
        let p := s.pairSpans n m (js.map fun j => ⟨c.gathAddr y j, leBytes b (x j), bad j⟩)
        let w := p.1.putSpansGlobal n m p.2
        w.1.placeCmd n m w.2
      else
        let o := js.foldl (fun o j =>
          let a := c.gathAddr y j
          ovPut here o a (leBytes b (y.apply (ovNat here o a b) (x j))) fun _ => bad j) []
        (s.modCore n fun c => c.writeRows (ovRows o)).placeCmd n m 0
    else
      let gl := if y.glb then (js.map fun j => c.gathAddr y j / 64).eraseDups else []
      let r := s.gatherLines n m gl
      let rd := r.1.reader n r.2 (if y.glb then .glb else .sp)
      let o := js.foldl (fun o j =>
        let a := c.gathAddr y j
        ovPut here o (dat + b * j) (leBytes b (rd.nat a b)) fun _ => ibad j || rd.bad a b) []
      (r.1.modCore n fun c => c.writeRows (ovRows o)).placeCmd n m 0

end Sys2Proof.Machine
end

