-- ==== Sys2Proof/Machine/C.lean ====
section
/-! DEFINITION. The C slot but for launches, barriers and translation: transfers, loops, traps, waits, bank ownership, the scribe check,
cluster flags, scrubs (R102 to R115, R274, R276 to R282). -/
namespace Sys2Proof.Machine

def illegalAt (x : Ctx) : SlotOut := .trap cILLEGAL (BitVec.ofNat 64 x.word) 0
def bankAt (e : Word) : SlotOut := .trap cBANK e 0

/-! ## Transfers (R108) -/

/-- c.nop. -/
def slotCNop : SlotFn := fun _ s => .ok s .fall
def execCNop (g : Guard) (s : State) : Out := issueSolo (.cNop g) slotCNop s

/-- c.br: the target was checked before issue. -/
def slotCBr (line : BitVec 16) : SlotFn := fun x s => .ok s (.jump (lineTarget x.off line).toNat false)
def execCBr (g : Guard) (line : BitVec 16) (s : State) : Out := issueSolo (.cBr g line) (slotCBr line) s

/-- c.jmp: the target was checked before issue. -/
def slotCJmp (a : Reg) : SlotFn := fun x s => .ok s (.jump (srcS x a).toNat false)
def execCJmp (g : Guard) (a : Reg) (s : State) : Out := issueSolo (.cJmp g a) (slotCJmp a) s

/-- c.call: the link is the first byte after the group. -/
def slotCCall (d : Reg) (line : BitVec 16) : SlotFn := fun x s =>
  .ok (s.modCore x.n fun c => c.push 1 (.s d.toNat (BitVec.ofNat 64 x.next) false)) (.jump (lineTarget x.off line).toNat true)
def execCCall (g : Guard) (d : Reg) (line : BitVec 16) (s : State) : Out := issueSolo (.cCall g d line) (slotCCall d line) s

/-- c.ret: the target was checked before issue. -/
def slotCRet (a : Reg) : SlotFn := fun x s => .ok s (.jump (srcS x a).toNat true)
def execCRet (g : Guard) (a : Reg) (s : State) : Out := issueSolo (.cRet g a) (slotCRet a) s

/-- The trip count of c.loop (R102). -/
def Core.loopCount (c : Core) : LoopCount → Nat
  | .imm n => n.toNat
  | .sreg a => (c.regs.rs a.toNat).toNat % 2 ^ 32
  | .spr n => (c.readSpr n.toNat).toNat % 2 ^ 32

/-- Levels of the loop stack of a mode (R92, R102). -/
def Core.loopLevels (c : Core) : Nat := if c.handler then 2 else 4

/-- c.loop (R102). The level is pushed before the loop end test of its own group (log entry 106). -/
def slotCLoop (count : LoopCount) (last : BitVec 11) : SlotFn := fun x s =>
  let c := x.core
  let k := c.loopCount count
  let first := c.groupAt x.next
  let l := first + last.toNat
  if k = 0 then .ok s (.skip (c.groupAt (l + c.groupBytes l)))
  else if c.loopLevels ≤ c.stack.length then .trap cSCHED (BitVec.ofNat 64 x.word) 0
  else .ok (s.modCore x.n fun c => c.setStack (⟨k, first, l⟩ :: c.stack)) .fall
def execCLoop (g : Guard) (count : LoopCount) (last : BitVec 11) (s : State) : Out :=
  issueSolo (.cLoop g count last) (slotCLoop count last) s

/-! ## Traps (R109 to R111) -/

/-- c.brk. -/
def slotCBrk (code : BitVec 16) : SlotFn := fun _ _ => .trap cBREAK 0 code.toNat
def execCBrk (g : Guard) (code : BitVec 16) (s : State) : Out := issueSolo (.cBrk g code) (slotCBrk code) s

/-- c.trap: the group commits, then TRAPI. -/
def slotCTrap (code : BitVec 16) : SlotFn := fun _ s => .ok s (.trapi code.toNat)
def execCTrap (g : Guard) (code : BitVec 16) (s : State) : Out := issueSolo (.cTrap g code) (slotCTrap code) s

/-- What handler mode still has under way (R97): its loads, its witness form, results whose latency has not run in cycles, passes that have
not run their last beat. -/
def Core.handlerBusy (c : Core) : Bool :=
  (c.accs.any fun a => a.handler && a.dst != .none) || (match c.wit with | some w => w.handler | none => false) ||
    (c.pend.any fun p => p.handler && decide (c.tick < p.ready)) ||
    [c.arr0, c.arr1].any fun a => a.passHandler && decide (c.tick < a.passStart + a.passBeats)

/-- c.tret (R110): it returns to EPC as it stands at issue. -/
def slotCTret : SlotFn := fun x s =>
  if x.core.handlerBusy then .stall none
  else if 0x3FFFF < x.core.spr.epc.toNat then illegalAt x
  else .ok s (.tret x.core.spr.epc.toNat)
def execCTret (g : Guard) (s : State) : Out := issueSolo (.cTret g) slotCTret s

/-- c.end (R111). -/
def slotCEnd : SlotFn := fun _ s => .ok s .finish
def execCEnd (g : Guard) (s : State) : Out := issueSolo (.cEnd g) slotCEnd s

/-! ## Waits (R112 to R114) -/

/-- A count within a wait's immediate; 15 places no condition. -/
def waitMet (n : Nat) (imm : BitVec 4) : Bool := imm == 15#4 || n ≤ imm.toNat

/-- c.wait (R112). -/
def slotCWait (l st k t : BitVec 4) : SlotFn := fun x s =>
  let c := x.core
  if waitMet c.ocl l && waitMet c.ocs st && waitMet c.occ k && waitMet c.oct t then .ok s .fall else .stall none
def execCWait (g : Guard) (l st k t : BitVec 4) (s : State) : Out := issueSolo (.cWait g l st k t) (slotCWait l st k t) s

/-- Whether a handle meets a condition of c.waith, none where the table of R113 has no such wait. -/
def Handle.meets (h : Handle) : HCond → Option Bool
  | .free => some (h.st == 0)
  | .full => if h.ring || h.st == 0 then none else some (h.st == 2)
  | .quiet => if h.st == 0 then none else some (h.st == 2)
  | .ready => if !h.ring || h.st == 0 then none else some (1 ≤ h.available)
  | .room => if !h.ring || h.st == 0 then none else some (1 ≤ h.room)

/-- c.waith (R113). -/
def slotCWaith (cond : HCond) (h : BitVec 6) : SlotFn := fun x s =>
  match (x.core.handle h.toNat).meets cond with
  | none => handleFault h.toNat
  | some true => .ok s .fall
  | some false => .stall none
def execCWaith (g : Guard) (cond : HCond) (h : BitVec 6) (s : State) : Out := issueSolo (.cWaith g cond h) (slotCWaith cond h) s

/-- The chunks of tile t of a landing (R259). -/
def Landing.tileChunks (l : Landing) (t : Nat) : List Nat :=
  let rows := (List.range (min l.nr ((t + 1) * l.tr) - t * l.tr)).map (· + t * l.tr)
  rows.flatMap fun r => (List.range l.cpr).map (fun k => r * l.cpr + k) ++ (if l.scales then [l.nr * l.cpr + r] else [])

/-- c.waitt (R113, R262). -/
def slotCWaitt (a : Reg) (h : BitVec 6) : SlotFn := fun x s =>
  let c := x.core
  let t := (srcS x a).toNat
  match c.lands.find? fun l => l.h == h.toNat with
  | none => handleFault h.toNat
  | some l =>
    if (l.nr + l.tr - 1) / l.tr ≤ t then handleFault h.toNat
    else if (l.tileChunks t).all fun k => SMap.get false l.present k then .ok s .fall
    else .stall none
def execCWaitt (g : Guard) (a : Reg) (h : BitVec 6) (s : State) : Out := issueSolo (.cWaitt g a h) (slotCWaitt a h) s

/-- c.waitl (R114): a line the L1 cannot hold is fired at once. -/
def slotCWaitl (a : Reg) : SlotFn := fun x s =>
  globalAt x s (srcS x a) 1 false fun loc =>
    let c := x.core
    let set := fun (m : Option Monitor) => SlotOut.ok (s.modCore x.n fun c => { c with monitor := m }) .fall
    let line := match loc with | .mem pa _ | .dev pa => pa / 64 | .fab p pa => 2 ^ 60 * (p + 1) + pa / 64 | _ => 0
    let fired := match loc with | .mem _ false => c.l1State line == .i | _ => true
    match c.monitor with
    | some m =>
      if m.line ≠ line then set (some ⟨line, fired⟩) else if m.fired then set none else .stall none
    | none => set (some ⟨line, fired⟩)
def execCWaitl (g : Guard) (a : Reg) (s : State) : Out := issueSolo (.cWaitl g a) (slotCWaitl a) s

/-- c.scheck (R106). -/
def slotCScheck (seg : BitVec 11) : SlotFn := fun x s =>
  let c := x.core
  if c.handler then .ok s .fall
  else if SMap.get none c.marks seg.toNat = some (x.count, crcEnd x.crc) then .ok s .restart
  else .trap cSCRIBE (crcEnd x.crc ++ x.count) 0
def execCScheck (g : Guard) (seg : BitVec 11) (s : State) : Out := issueSolo (.cScheck g seg) (slotCScheck seg) s

/-! ## Bank ownership (R115) -/

/-- The scratchpad bytes a command reads and writes. -/
def Core.cmdReads (c : Core) (m : Cmd) : List (Nat × Nat) :=
  let buf := fun h => [((c.handle h).row0 * 64, (c.handle h).rows * 64)]
  match m.i with
  | .eCpy .. | .eCpyWadd .. => (match m.cpy with | some y => if y.ss = .sp then c.cpySource y else [] | none => [])
  | .eGath .. | .eScat .. =>
    (match m.gath with
     | some y => c.gathIdx y ++ (if y.scat then c.gathDat y else if y.glb then [] else
        (List.range y.count).map fun j => (c.gathAddr y j, y.bytes))
     | none => [])
  | .ePut h .. | .ePutLand h .. | .eMcast h .. | .eColl h .. => buf h.toNat
  | _ => []

def Core.cmdWrites (c : Core) (m : Cmd) : List (Nat × Nat) :=
  let buf := fun h => [((c.handle h).row0 * 64, (c.handle h).rows * 64)]
  match m.i with
  | .eCpy .. | .eCpyWadd .. => (match m.cpy with | some y => if y.ds = .sp then c.cpyDest y else [] | none => [])
  | .eGath .. | .eScat .. =>
    (match m.gath with
     | some y => if !y.scat then c.gathDat y else if y.glb then [] else buf y.h
     | none => [])
  | .eColl h .. => buf h.toNat ++ (match collWit m.a with | some w => buf w | none => [])
  | .eGet h .. | .eRatom h .. | .eCtxSave h .. | .eCtxRest h .. => buf h.toNat
  | _ => []

/-- Whether some byte of a list of ranges lies in banks first to first + n − 1. -/
def inBanks (first n : Nat) (l : List (Nat × Nat)) : Bool :=
  l.any fun r => r.2 != 0 && first * 4096 < r.1 + r.2 && r.1 < (first + n) * 4096

/-- Whether a command of an earlier program still touches a bank, or a command of any program reads it (R115, R132). -/
def Core.bankHeld (c : Core) (b : Nat) : Bool :=
  c.cmds.any fun m => inBanks b 1 ((c.seen m).cmdReads m) || (m.old && inBanks b 1 ((c.seen m).cmdWrites m))

/-- The range of a c.relb or c.acqb, none where it passes P − 1 or overflows. -/
def Core.bankRange (c : Core) (a b : Word) : Option (Nat × Nat) :=
  if c.banks < a.toNat + b.toNat then none else some (a.toNat, b.toNat)

/-- c.relb (R115). FADDR of its BANK is the first bank, sA: R263 gives an address and no bank number (log entry 82). Every command that has not
ended counts as writing (log entry 107). -/
def slotCRelb (a b : Reg) : SlotFn := fun x s =>
  let c := x.core
  let va := srcS x a
  let vb := srcS x b
  if vb = 0 then .ok s .fall
  else match c.bankRange va vb with
    | none => bankAt va
    | some (f, n) => if c.cmds.any fun m => inBanks f n ((c.seen m).cmdWrites m) then .stall none else .ok s (.bank false f n)
def execCRelb (g : Guard) (a b : Reg) (s : State) : Out := issueSolo (.cRelb g a b) (slotCRelb a b) s

/-- c.acqb (R115); FADDR of its BANK as for c.relb. -/
def slotCAcqb (a b : Reg) : SlotFn := fun x s =>
  let c := x.core
  let va := srcS x a
  let vb := srcS x b
  if vb = 0 then .ok s .fall
  else match c.bankRange va vb with
    | none => bankAt va
    | some (f, n) => if (List.range n).any fun i => c.bankHeld (f + i) then .stall none else .ok s (.bank true f n)
def execCAcqb (g : Guard) (a b : Reg) (s : State) : Out := issueSolo (.cAcqb g a b) (slotCAcqb a b) s

/-! ## Scrub (R274) -/

/-- Whether an operation that can finish without task groups has still to finish with the named units: results of handler mode, loads, beats,
loads and stores of the arrays, witness forms, engine writes and landings into banks the task owns. A command behind an abandoned one of its
queue waits for c.tret (R255) and is not waited for. -/
def Core.scrubWaits (c : Core) (u : BitVec 5) : Bool :=
  let mine := fun (row : Nat) => SMap.get BankOwner.none c.owner (row / 64) == .task
  let lands := c.lands.any fun l =>
    let h := c.handle l.h
    h.st == 1 && (List.range h.rows).any fun k => mine (h.row0 + k)
  let results := c.pend.any fun p => p.handler && p.w.inUnits u && decide (c.tick < p.ready)
  let dst := fun (f : Res → Bool) => c.accs.any fun a => a.dst.res.any f
  let beats := fun (a : Arr) => decide (c.tick < a.passStart + a.passBeats) || a.ldw.isSome || a.st.isSome
  results || (u.getLsbD 0 && (dst (fun r => match r with | .s _ | .q _ => true | _ => false) || c.wit.isSome)) ||
    (u.getLsbD 1 && dst fun r => match r with | .v _ _ => true | _ => false) ||
    (u.getLsbD 2 && (beats c.arr0 || beats c.arr1)) ||
    (u.getLsbD 4 && (c.wit.isSome || c.arr0.st.isSome || c.arr1.st.isSome ||
      lands || c.cmds.any fun m => m.st != .abandoned && !c.queueHeld m && (c.cmdWrites m).any fun r => r.2 != 0 &&
        (rowsOf r.1 r.2).any mine))

/-- c.scrub (R274): handler mode is checked before issue; the units were zeroed before the group's slots ran (`Core.begun`). -/
def slotCScrub (units : BitVec 5) : SlotFn := fun x s =>
  if units = 0 then .ok s .fall
  else if x.core.scrubWaits units then .stall none
  else .ok s (.scrub units)
def execCScrub (g : Guard) (units : BitVec 5) (s : State) : Out := issueSolo (.cScrub g units) (slotCScrub units) s

/-! ## Cluster flags (R276 to R282) -/

def State.cluster (s : State) (cl : Nat) : Cluster := SMap.get {} s.clusters cl
def State.setCluster (s : State) (cl : Nat) (c : Cluster) : State := { s with clusters := SMap.set s.clusters cl c }

/-- The flag operand (R277). -/
structure FlagOp where
  flag : Nat
  cl : Nat
  rem : Bool
  ent : Nat
  all : Bool
  zero : Bool

def flagOp (a : Word) : FlagOp :=
  ⟨(a.extractLsb' 0 8).toNat, (a.extractLsb' 8 5).toNat, a.getLsbD 13, (a.extractLsb' 16 5).toNat, a.getLsbD 21, a.getLsbD 22⟩

/-- Reserved bits of the flag operand. -/
def flagReserved (a : Word) : Bool := a &&& 0xFFFFFFFFFF80C000#64 != 0#64

/-- The logical cluster of launch-relative cluster k, for the run a core belongs to (R277, R287). -/
def State.launchCluster (s : State) (n k : Nat) : Option Nat :=
  match s.launch (s.core n).lid with
  | some l => (l.clusters.getD (s.core n).run_ [])[k]?
  | none => none

/-- The own flag of an operand that must have REM and CL clear. -/
def ownFlagBad (a : Word) : Bool := flagReserved a || (flagOp a).rem || (flagOp a).cl != 0

/-- c.finc (R279). -/
def slotCFinc (a b : Reg) : SlotFn := fun x s =>
  let va := srcS x a
  let o := flagOp va
  let k := (srcS x b).toNat % 2 ^ 32
  let target := if o.rem then s.launchCluster x.n o.cl else if o.cl = 0 then some (clusterOf x.n) else none
  if flagReserved va then bankAt va
  else match target with
    | none => bankAt va
    | some cl =>
      let sc := if o.rem then (if dieOf (clusterCore cl 0) = dieOf x.n then Scope.die else .pkg) else .clu
      .ok (s.addAcc x.n (.finc k) (.flags cl o.flag) .none va false true false sc) .fall
def execCFinc (g : Guard) (a b : Reg) (s : State) : Out := issueSolo (.cFinc g a b) (slotCFinc a b) s

/-- c.fwait (R280); an acquire, which an earlier acquire or fence holds (R317). -/
def slotCFwait (a b : Reg) : SlotFn := fun x s =>
  let va := srcS x a
  if ownFlagBad va then bankAt va
  else if (srcS x b).toNat % 2 ^ 32 ≤ SMap.get 0 (s.cluster (clusterOf x.n)).flags (flagOp va).flag ∧ x.core.acquireWaits = false then .ok s .fall
  else .stall none
def execCFwait (g : Guard) (a b : Reg) (s : State) : Out := issueSolo (.cFwait g a b) (slotCFwait a b) s

/-- A dropped start action (R281, R446). -/
def State.flagDrop (s : State) (cl : Nat) : State :=
  let t := s.cluster cl
  (s.setCluster cl { t with drops := min (t.drops + 1) 0xFFFFFFFF }).postEvent 0x1D

/-- What an entry does when it fires (R281). -/
def State.fireArm (s : State) (cl : Nat) (e : Arm) : State :=
  match e.act with
  | 1 =>
    (List.range 8).foldl (fun s k =>
      if e.x / 2 ^ k % 2 = 1 then
        s.modCore (clusterCore cl k) fun c => { c with monitor := c.monitor.map fun m => { m with fired := true } }
      else s) s
  | 2 =>
    let c := s.core e.core
    let h := e.x % 64
    let k := e.x / 256 % 64
    let r := c.handle h
    if r.ring && r.st != 0 && k ≤ r.room then s.setCore e.core (c.ringAct h true (.adv (BitVec.ofNat 14 k))).settle
    else s.flagDrop cl
  | _ =>
    match s.launchCluster e.core (e.x / 256 % 32) with
    | some t =>
      if s.flagsFull t then let u := s.cluster cl; s.setCluster cl { u with outbox := u.outbox ++ [(t, e.x % 256, e.x / 65536)] }
      else s.sendFlagOf cl t (e.x % 256) (e.x / 65536)
    | none => s

/-- An entry placed among entries in ascending threshold and stamp. -/
def placeArm (e : Nat × Arm) : List (Nat × Arm) → List (Nat × Arm)
  | [] => [e]
  | f :: l => if e.2.t < f.2.t || (e.2.t == f.2.t && e.2.stamp ≤ f.2.stamp) then e :: f :: l else f :: placeArm e l

/-- The armed entries of a flag that an increment from `old` to `new` crosses, in ascending threshold and stamp (R281). -/
def Cluster.crossed (c : Cluster) (flag old new : Nat) : List (Nat × Arm) :=
  let l := c.arms.filterMap fun e =>
    match e.2 with
    | some a => if a.flag = flag ∧ old < a.t ∧ a.t ≤ new then some (e.1, a) else none
    | none => none
  l.foldr placeArm []

/-- An increment is applied with its firings, and ungates the cores of the cluster (R279 to R281). -/
def State.applyFlag (s : State) (cl flag amount : Nat) : State :=
  let t := s.cluster cl
  let old := SMap.get 0 t.flags flag
  let new := min (old + amount) 0xFFFFFFFF
  let l := t.crossed flag old new
  let arms := l.foldl (fun m e => SMap.put none m e.1 none) t.arms
  let s := s.setCluster cl { t with flags := SMap.put 0 t.flags flag new, arms := arms }
  let s := (List.range 8).foldl (fun s k => s.modCore (clusterCore cl k) fun c => { c with gated := false, fwait := 0 }) s
  l.foldl (fun s e => s.fireArm cl e.2) s

/-- The increment of an access, or of an e.sig of core n, is done (R405). -/
def State.flagDone (s : State) (n id : Nat) : State :=
  match (s.core n).cmd id with
  | some m => s.modCore n fun c => c.answered m 0
  | none => s.endAcc n id

/-- FLAG_INCREMENT_APPLY (R279, R283): the oldest increment of a flag that has arrived is applied, unless the cluster is switched out. -/
def execFlagIncrementApply (cl idx : Nat) (s : State) : Out :=
  let t := s.cluster cl
  .next (match t.arrived.find? fun i => i.flag == idx with
    | some i =>
      if t.out then s
      else
        let s := s.setCluster cl { t with arrived := t.arrived.erase i }
        let s := s.applyFlag cl idx i.amount
        (match i.src with
         | some (n, id) => s.flagDone n id
         | none => s)
    | none => s)

/-- X of c.farm has bits the action does not use, or a cluster outside the launch (R281). -/
def State.farmBad (s : State) (n : Nat) (act : FAction) (x : Nat) : Bool :=
  match act with
  | .wake => 256 ≤ x
  | .start => x / 64 % 4 != 0 || 2 ^ 14 ≤ x
  | .signal => x / 2 ^ 13 % 8 != 0 || (s.launchCluster n (x / 256 % 32)).isNone

def FAction.num : FAction → Nat
  | .wake => 1 | .start => 2 | .signal => 3

/-- c.farm (R281): an entry whose threshold the flag has already reached fires at once. -/
def slotCFarm (a b : Reg) (act : FAction) : SlotFn := fun x s =>
  let va := srcS x a
  let vb := srcS x b
  let o := flagOp va
  let p := vb.toNat / 2 ^ 32
  let cl := clusterOf x.n
  let t := s.cluster cl
  let e : Arm := ⟨o.flag, vb.toNat % 2 ^ 32, FAction.num act, p, t.stamp, x.n⟩
  if ownFlagBad va then bankAt va
  else if s.farmBad x.n act p then bankAt vb
  else if e.t ≤ SMap.get 0 t.flags o.flag then
    .ok ((s.setCluster cl { t with stamp := (t.stamp + 1) % 2 ^ 32, arms := SMap.put none t.arms o.ent none }).fireArm cl e) .fall
  else .ok (s.setCluster cl { t with stamp := (t.stamp + 1) % 2 ^ 32, arms := SMap.put none t.arms o.ent (some e) }) .fall
def execCFarm (g : Guard) (a b : Reg) (act : FAction) (s : State) : Out := issueSolo (.cFarm g a b act) (slotCFarm a b act) s

/-- c.fdis (R282). -/
def slotCFdis (a : Reg) : SlotFn := fun x s =>
  let va := srcS x a
  let o := flagOp va
  let cl := clusterOf x.n
  let t := s.cluster cl
  let t := { t with arms := if o.all then [] else SMap.put none t.arms o.ent none }
  if ownFlagBad va then bankAt va
  else .ok (s.setCluster cl (if o.zero then { t with flags := SMap.put 0 t.flags o.flag 0 } else t)) .fall
def execCFdis (g : Guard) (a : Reg) (s : State) : Out := issueSolo (.cFdis g a) (slotCFdis a) s

/-- CLOCK_GATE_ENTRY (R280): a core whose c.fwait has stalled for 64 cycles, with no increment in its cluster since, is clock-gated. -/
def execClockGateEntry (core : Nat) (s : State) : Out :=
  .next (s.modCore core fun c => if 64 ≤ c.fwait && c.run == .running then { c with gated := true } else c)

end Sys2Proof.Machine
end

