-- ==== Sys2Proof/Machine/Barrier.lean ====
section
/-! DEFINITION. Superstep barriers (R347, R357 to R363). -/
namespace Sys2Proof.Machine

def State.barrier (s : State) (b : Nat) : Barrier := SMap.get {} s.barriers b
def State.setBarrier (s : State) (b : Nat) (x : Barrier) : State := { s with barriers := SMap.set s.barriers b x }

/-! ## Subgroups (R347) -/

/-- The tiles a subgroup word names in a launch of w × h tiles, as TY * w + TX; none for an illegal word. -/
def subgroupTiles (w h sg : Nat) : Option (List Nat) :=
  if sg = 0x3FFF then some (List.range (w * h))
  else
    let x0 := sg % 16
    let y0 := sg / 16 % 16
    let lw := sg / 256 % 8
    let lh := sg / 2048 % 8
    if lw ≤ 4 ∧ lh ≤ 4 ∧ x0 % 2 ^ lw = 0 ∧ y0 % 2 ^ lh = 0 ∧ x0 + 2 ^ lw ≤ w ∧ y0 + 2 ^ lh ≤ h then
      some ((List.range (2 ^ lh)).flatMap fun j => (List.range (2 ^ lw)).map fun i => (y0 + j) * w + x0 + i)
    else none

/-! ## The barrier operand (R358) -/

def barOf (a : Word) : Nat := (a.extractLsb' 0 6).toNat
def barSubg (a : Word) : Nat := (a.extractLsb' 8 14).toNat
def barScope (a : Word) : Nat := (a.extractLsb' 24 3).toNat

/-- Reserved bits of the operand; c.bpost and c.bwait leave SUBG and SCOPE zero too. -/
def barReserved (a : Word) (arrive : Bool) : Bool :=
  a &&& (if arrive then 0xFFFFFFFFF8C000C0#64 else 0xFFFFFFFFFFFFFFC0#64) != 0#64

def syncovf (b : Nat) : SlotOut := .trap cSYNCOVF (BitVec.ofNat 64 b) 0

/-- Whether a generation is under way in whose subgroup the task of a core does not stand (R358). -/
def State.outsideSub (s : State) (c : Core) (t : Barrier) : Bool :=
  t.bscope != 0 && match s.launch c.lid with
    | some l => (match subgroupTiles l.w l.h t.subg with | some ts => !ts.contains (c.tile l.w) | none => true)
    | none => false

/-- The checks common to the three instructions: PRIV in a paired launch, BANK on the operand and the binding, SYNCOVF while ERR is set. -/
def barrierAt (x : Ctx) (s : State) (va : Word) (arrive : Bool) (k : Barrier → SlotOut) : SlotOut :=
  let c := s.core x.n
  let b := s.barrier (barOf va)
  if s.paired x.n then .trap cPRIV (BitVec.ofNat 64 x.word) 0
  else if barReserved va arrive ∨ (b.bound ∧ b.lidb ≠ c.lid) ∨ s.outsideSub c b then bankAt va
  else if b.err then syncovf (barOf va)
  else k b

/-- A barrier bound to the launch of a core (R357). -/
def Barrier.bind (b : Barrier) (lid : Nat) : Barrier := { b with bound := true, lidb := lid }

def Acc.isPost (a : Acc) : Bool :=
  match a.op with
  | .post _ => true
  | _ => false

/-- c.bpost (R360). -/
def slotCBpost (a b : Reg) : SlotFn := fun x s =>
  let va := srcS x a
  let vb := (srcS x b).toNat
  let c := s.core x.n
  barrierAt x s va false fun t =>
    if c.accs.any Acc.isPost then .stall none
    else if 2 ^ 40 ≤ vb ∨ 2 ^ 40 - 1 < t.pend + vb then syncovf (barOf va)
    else .ok ((s.setBarrier (barOf va) (t.bind c.lid)).addAcc x.n (.post vb) (.barrier (barOf va)) .none va false false false .pkg) .fall
def execCBpost (g : Guard) (a b : Reg) (s : State) : Out := issueSolo (.cBpost g a b) (slotCBpost a b) s

/-- c.barr (R361): the first arrival of a generation fixes SUBG and BSCOPE. -/
def slotCBarr (a : Reg) : SlotFn := fun x s =>
  let va := srcS x a
  let c := s.core x.n
  let sc := barScope va
  let n := barOf va
  barrierAt x s va true fun t =>
    match s.launch c.lid with
    | none => bankAt va
    | some l =>
      match subgroupTiles l.w l.h (barSubg va) with
      | none => bankAt va
      | some ts =>
        if (sc ≠ 3 ∧ sc ≠ 4) ∨ (t.bscope ≠ 0 ∧ (t.bscope ≠ sc ∨ t.subg ≠ barSubg va)) ∨ !ts.contains (c.tile l.w) ∨
            SMap.get none c.arrGen n = some t.gen then bankAt va
        else
          let s := s.setBarrier n { t.bind c.lid with bscope := sc, subg := barSubg va }
          let s := s.modCore x.n fun c => { c with arrGen := SMap.put none c.arrGen n (some t.gen) }
          .ok (s.addAcc x.n .arrive (.barrier n) .none va false true false (if sc = 4 then .fab else .pkg)) .fall
def execCBarr (g : Guard) (a : Reg) (s : State) : Out := issueSolo (.cBarr g a) (slotCBarr a) s

/-- c.bwait (R362); where it waits for a release it is an acquire, which an earlier acquire or fence holds (R317, R318). -/
def slotCBwait (a : Reg) : SlotFn := fun x s =>
  let va := srcS x a
  barrierAt x s va false fun t =>
    match SMap.get none (s.core x.n).arrGen (barOf va) with
    | none => .ok s .fall
    | some g => if t.gen = g ∨ x.core.acquireWaits then .stall none else .ok s .fall
def execCBwait (g : Guard) (a : Reg) (s : State) : Out := issueSolo (.cBwait g a) (slotCBwait a) s

/-! ## What the package applies -/

/-- The barrier releases once every task of its subgroup has arrived and nothing is posted (R361). -/
def State.barrierRelease (s : State) (b : Nat) : State :=
  let t := s.barrier b
  match s.launch t.lidb with
  | none => s
  | some l =>
    match subgroupTiles l.w l.h t.subg with
    | none => s
    | some ts =>
      if t.bscope ≠ 0 ∧ t.arrived.length = ts.length ∧ t.pend = 0 then
        s.setBarrier b { t with gen := t.gen + 1, arrived := [], subg := 0, bscope := 0 }
      else s

/-- An access of a core that may be applied now. -/
def State.readyAcc (s : State) (core id : Nat) : Option Acc :=
  let c := s.core core
  (c.accs.find? fun a => a.id == id).filter fun a => !c.blocked a

/-- BARRIER_POST_APPLY (R360). -/
def execBarrierPostApply (core id : Nat) (s : State) : Out :=
  .next (match s.readyAcc core id with
    | some a =>
      (match a.op, a.loc with
       | .post k, .barrier b =>
         let t := s.barrier b
         (s.setBarrier b { t with pend := t.pend + k }).endAcc core id
       | _, _ => s)
    | none => s)

/-- BARRIER_ARRIVAL_APPLY (R361): after every earlier engine command of the task, one abandoned and to be replayed among them. -/
def execBarrierArrivalApply (core id : Nat) (s : State) : Out :=
  .next (match (s.readyAcc core id).filter fun a => !(s.core core).cmds.any fun m => m.id < a.id && !m.old with
    | some a =>
      (match a.op, a.loc with
       | .arrive, .barrier b =>
         let t := s.barrier b
         let w := match s.launch t.lidb with | some l => l.w | none => 0
         ((s.setBarrier b { t with arrived := t.arrived ++ [(s.core core).tile w] }).barrierRelease b).endAcc core id
       | _, _ => s)
    | none => s)

/-- Whether the halt line of a launch is raised (R267). -/
def State.lineOf (s : State) (lid : Nat) : Bool := match s.launch lid with | some l => l.line | none => false

/-- PEND falls by the bytes of an arrival; where it is too small it is 0 and ERR is set. The barrier may release then (R361, R363). -/
def State.takeBytes (s : State) (bar bytes lid : Nat) : State :=
  let t := s.barrier bar
  (s.setBarrier bar (if t.pend < bytes then { t with pend := 0, err := true, errLid := if t.bound then t.errLid else lid }
    else { t with pend := t.pend - bytes })).barrierRelease bar

/-- BARRIER_BYTE_ARRIVAL (R363): bytes named by a write have performed; arrivals into a halted launch are held. -/
def execBarrierByteArrival (bar bytes : Nat) (s : State) : Out :=
  .next (match s.barIn.find? fun e => e.1 == bar && e.2.1 == bytes with
    | some e => if s.lineOf (s.barrier bar).lidb then s else { s with barIn := s.barIn.erase e }.takeBytes bar bytes e.2.2
    | none => s)

end Sys2Proof.Machine
end

