-- ==== Sys2Proof/Machine/Device.lean ====
section
/-! DEFINITION. The device-control range: the registers of the launch port (R348) and the management window (R365), by offset. A word with no
register reads 0 and ignores a write (R5, log entry 23). -/
namespace Sys2Proof.Machine

def State.queue (s : State) (q : Nat) : Queue := SMap.get {} s.queues q
def State.setQueue (s : State) (q : Nat) (x : Queue) : State := { s with queues := SMap.set s.queues q x }
def State.sweep (s : State) (k : Nat) : Sweep := SMap.get {} s.sweeps k
def State.grant (s : State) (n : Nat) : BitVec 128 := SMap.get 0 s.fab.grants n

/-- A bit as a number. -/
def b2n (b : Bool) : Nat := if b then 1 else 0

/-- Word k of a queue's registers (R348). -/
def Queue.word (x : Queue) (k : Nat) : Nat :=
  match k with
  | 0 => b2n x.qen + 2 * x.qworld
  | 1 => 64 - x.items.length + 128 * b2n x.qdrop
  | 2 => x.qsave
  | _ => x.qstk

/-- The image of a sister table (R285). -/
def Sister.word (t : Sister) : Nat :=
  (List.range 8).foldl (fun acc n => acc + t.phys.getD n 15 * 16 ^ n) 0 + 2 ^ 32 * t.spare + 2 ^ 36 * t.off.toNat

/-- Word k of a sweep's registers (R303); their places within the 64 bytes: log entry 23. -/
def Sweep.word (w : Sweep) (k : Nat) : Nat :=
  match k with
  | 0 => w.wid + 16 * b2n w.go + 32 * b2n w.pause
  | 1 => 512 * w.base
  | 2 => 512 * w.end_
  | 3 => 512 * w.ptr
  | 4 => b2n w.done + 65536 * w.pblk
  | _ => 0

/-- The image of a barrier (R357). -/
def Barrier.image (b : Barrier) : Nat :=
  b.pend + 2 ^ 40 * b2n b.bound + 2 ^ 41 * b2n b.err + 2 ^ 42 * b.bscope + 2 ^ 47 * b.subg + 2 ^ 64 * b.lidb +
    2 ^ 96 * b.arrived.length + 2 ^ 112 * b.gen.toNat

/-- The word at an offset that is a multiple of 8, as it reads. -/
def State.devWord (s : State) (o : Nat) : Nat :=
  if o = 0x80 then s.nextLid + 2 ^ 32 * s.lbad
  else if 0x1000 ≤ o ∧ o < 0x1400 then (s.queue ((o - 0x1000) / 32)).word (o % 32 / 8)
  else if o = 0x10000 then s.sec.sparg
  else if o = 0x10010 then b2n s.sec.cmd.isSome + 256 * s.sec.res
  else if 0x11000 ≤ o ∧ o < 0x11020 then (s.sister ((o - 0x11000) / 8)).word
  else if 0x12000 ≤ o ∧ o < 0x12400 then (s.sweep ((o - 0x12000) / 64)).word (o % 64 / 8)
  else if 0x13000 ≤ o ∧ o < 0x13400 then (s.barrier ((o - 0x13000) / 16)).image / 2 ^ (8 * (o % 16)) % 2 ^ 64
  else if 0x13400 ≤ o ∧ o < 0x13800 then (s.grant ((o - 0x13400) / 16)).toNat / 2 ^ (8 * (o % 16)) % 2 ^ 64
  else if o = 0x14000 then s.sec.evHead
  else if o = 0x14008 then s.sec.evTail + 4096 * b2n s.sec.evLost
  else if 0x14100 ≤ o ∧ o < 0x24100 then
    (SMap.get 0 s.sec.evRing ((o - 0x14100) / 16)).toNat / 2 ^ (8 * (o % 16)) % 2 ^ 64
  else 0

/-- A write of a word (R348, R365, R386): read-only and reserved bits keep their values; bits that a one clears are cleared. -/
def State.devPut (s : State) (o v : Nat) : State :=
  if 0x1000 ≤ o ∧ o < 0x1400 then
    let q := (o - 0x1000) / 32
    let x := s.queue q
    match o % 32 / 8 with
    | 0 => s.setQueue q { x with qen := v % 2 == 1, qworld := v / 2 % 16 }
    | 1 => s.setQueue q { x with qdrop := x.qdrop && v / 128 % 2 == 0 }
    | 2 => s.setQueue q { x with qsave := v % 2 ^ 49 / 4096 * 4096 }
    | _ => s.setQueue q { x with qstk := v % 2 ^ 56 / 4096 * 4096 }
  else if o = 0x10000 then { s with sec := { s.sec with sparg := v % 2 ^ 49 / 4096 * 4096 } }
  else if o = 0x10008 then
    if s.sec.cmd.isSome then s
    else { s.secFetch s.sec.sparg 4096 with sec := { (s.secFetch s.sec.sparg 4096).sec with cmd := some (v % 256, v / 256 % 16) } }
  else if 0x13400 ≤ o ∧ o < 0x13800 then
    let n := (o - 0x13400) / 16
    let keep := if o % 16 = 0 then 0x1FFFFFFFFF03F else 0x1FFFFFFFFF000
    let old := (s.grant n).toNat
    let w := v &&& keep
    let new := if o % 16 = 0 then old / 2 ^ 64 * 2 ^ 64 + w else old % 2 ^ 64 + 2 ^ 64 * w
    { s with fab := { s.fab with grants := SMap.put 0 s.fab.grants n (BitVec.ofNat 128 new) } }
  else if o = 0x14008 then
    { s with sec := { s.sec with evTail := v % 4096, evFull := s.sec.evFull && v % 4096 == s.sec.evTail, evLost := s.sec.evLost && v / 4096 % 2 == 0 } }
  else s

/-- n bytes read from an offset. -/
def State.devRead (s : State) (o n : Nat) : Nat :=
  leNat ((List.range n).map fun i => BitVec.ofNat 8 (s.devWord ((o + i) / 8 * 8) / 2 ^ (8 * ((o + i) % 8))))

/-- A write counted against the launch port (R348). -/
def State.lbadWrite (s : State) : State := { s with lbad := min (s.lbad + 1) 0xFFFF }

/-- The bits of a word that keep their value where a write does not reach their byte; bits a one clears count as zeros. -/
def State.devKeep (s : State) (o : Nat) : Nat :=
  if 0x1000 ≤ o ∧ o < 0x1400 ∧ o % 32 = 8 then 0 else if o = 0x14008 then s.sec.evTail else s.devWord o

/-- Bytes written from an offset: word by word, the bytes not written as they read. A write that touches LPORT is not a record. -/
def State.devWrite (s : State) (o : Nat) (bytes : List Byte) : State :=
  if o < 0x80 then s.lbadWrite
  else
    let words := (List.range ((o + bytes.length + 7) / 8 - o / 8)).map fun k => 8 * (o / 8 + k)
    words.foldl (fun s w =>
      let old := s.devKeep w
      let v := leNat ((List.range 8).map fun i =>
        if o ≤ w + i ∧ w + i < o + bytes.length then bytes.getD (w + i - o) 0 else BitVec.ofNat 8 (old / 2 ^ (8 * i)))
      s.devPut w v) s

/-- REGISTER_WRITE (R365): the host writes one register of the device-control range. -/
def execRegisterWrite (off : Nat) (value : Word) (s : State) : Out := .next (s.devWrite off (leBytes 8 value.toNat))

end Sys2Proof.Machine
end

