-- ==== Sys2Proof/Machine/Perform.lean ====
section
/-! DEFINITION. Accesses perform: loads and stores of the L slot at their targets, their results and acknowledgements (R143, R148 to R161),
packets at their destination core (R151, R337). -/
namespace Sys2Proof.Machine

/-! ## Accesses to memory of this package -/

/-- Whether an access is served at the home slice of its line: with S set, and an atomic in host memory (R155, R296). -/
def Acc.atHome (a : Acc) (pa : Nat) (sbit : Bool) : Bool :=
  sbit || (match a.op with | .aop .. | .cas .. => isHost pa | _ => false)

/-- Whether an access writes the line it names (R294). -/
def AccOp.writes : AccOp → Bool
  | .store .. | .czero | .aop .. | .cas .. => true
  | _ => false

/-- Whether an access must wait for the host first (R297): at the home slice for a grant, through the L1 for a grant or a line asked back. -/
def State.accWaits (s : State) (n : Nat) (a : Acc) (pa : Nat) (sbit : Bool) : Bool :=
  match a.op with
  | .cwb | .cinv => false
  | _ => if a.atHome pa sbit then s.lacksGrant (pa / 64) a.op.writes else s.waitsHost n (pa / 64) a.op.writes

/-- k bytes read where the access is served, with the mark of their line: at the home slice, or through the L1 (R148, R296, R301). -/
def State.readMem (s : State) (n pa k : Nat) (home : Bool) : State × Nat × Bool :=
  let w := (s.core n).spr.world.toNat
  if home then s.homeRead pa k w
  else
    let s := s.l1Load n (pa / 64) w
    let po := match (s.core n).l1Line (pa / 64) with | some l => l.poison | none => false
    let r := s.delivered pa k po
    (r.1, r.2, po)

/-- The line taken for a write where the access is served. -/
def State.ownLine (s : State) (n pa : Nat) (home whole comp : Bool) : State :=
  let w := (s.core n).spr.world.toNat
  if home then s.homeStore (pa / 64) w whole false comp else s.l1Store n (pa / 64) w whole comp

/-- What an atomic of n bytes makes of the old value (R153, R154). -/
def AccOp.atomicNew (op : AccOp) (old : Nat) : Nat :=
  match op with
  | .aop o n z b => atomic o (8 * n) z old (b.toNat % 2 ^ (8 * n))
  | .cas _ e v => if old = e.toNat then v.toNat else old
  | _ => old

/-- The answer of an access that brings no data. -/
def Reply.done : Reply := ⟨0, 0, none⟩

/-- The answer that brings data, of one row, with its mark. -/
def Reply.data1 (v : Nat) (poison : Bool) : Reply := ⟨BitVec.ofNat 1024 v, if poison then 1 else 0, none⟩

/-- An access performs on memory of this package; what it answers (R143, R148, R153, R159). An atomic obtains its line in M before it reads
it (R155). -/
def State.performMem (s : State) (n : Nat) (a : Acc) (pa : Nat) (sbit : Bool) : State × Reply :=
  match a.op with
  | .load k =>
    let r := s.readMem n pa k sbit
    (r.1, .data1 r.2.1 r.2.2)
  | .store k d => if s.shadow n then (s, .done) else ((s.ownLine n pa sbit (k == 64) a.comp).storeNat pa k d.toNat, .done)
  | .czero => if s.shadow n then (s, .done) else ((s.ownLine n pa sbit true a.comp).storeNat (pa / 64 * 64) 64 0, .done)
  | .aop _ k _ _ | .cas k _ _ =>
    let s := if a.atHome pa sbit then s else s.l1Own n (pa / 64) (s.core n).spr.world.toNat false
    let r := s.readMem n pa k (a.atHome pa sbit)
    if r.2.2 then (r.1, .data1 r.2.1 true)
    else ((r.1.ownLine n pa (a.atHome pa sbit) false a.comp).storeNat pa k (a.op.atomicNew r.2.1), .data1 r.2.1 false)
  | .cwb =>
    (match sbit, (s.core n).l1Line (pa / 64) with
     | false, some l => if l.st = .m then ((s.takeData (pa / 64) l).modCore n fun c => c.l1Set (pa / 64) .e, .done) else (s, .done)
     | _, _ => (s, .done))
  | .cinv => (if sbit then s else s.l1Evict n (pa / 64), .done)
  | _ => (s, .done)

/-- An access of the device-control range (R348, R365): its bytes are read or written whole; an atomic reads and writes. The shadow's
writes are discarded (R287). -/
def State.performDev (s : State) (n : Nat) (a : Acc) (o : Nat) : State × Reply :=
  let k := a.op.bytes
  match a.op with
  | .load _ => (s, .data1 (s.devRead o k) false)
  | .store _ d => (if s.shadow n then s else s.devWrite o (leBytes k d.toNat), .done)
  | .czero => (if s.shadow n then s else s.devWrite (o / 64 * 64) (leBytes 64 0), .done)
  | .aop .. | .cas .. =>
    let old := s.devRead o k
    (s.devWrite o (leBytes k (a.op.atomicNew old)), .data1 old false)
  | _ => (s, .done)

/-- An access performs, where it has not already at a remote target; none while it must wait. -/
def State.perform (s : State) (n : Nat) (a : Acc) : Option (State × Reply) :=
  match a.reply with
  | some r => some (s, r)
  | none =>
    if (s.core n).blocked a then none
    else match a.op with
      | .tlbp v => some (s, ⟨v.setWidth 1024, 0, none⟩)
      | _ =>
        match a.loc with
        | .mem pa sbit => some (s.performMem n a pa sbit)
        | .dev pa => some (s.performDev n a (pa - 2 ^ 48))
        | .fab .. => (match a.op with | .cwb | .cinv => some (s, .done) | _ => none)
        | _ => none

/-! ## Results (R101, R143, R151) -/

/-- The register writes of a result: a poisoned row marks the lane groups that take it, of a pair each row its own (R143; log entry 89). -/
def LDst.writes (d : LDst) (v : BitVec 1024) (poison : BitVec 2) : List RegWrite :=
  let one := poison.getLsbD 0
  let lanes := fun (l : BitVec 4) => if one then l else 0#4
  match d with
  | .none => []
  | .s n => [.s n (v.extractLsb' 0 64) one]
  | .half r hi =>
    let l := halfLanes hi
    [.v r (lanesMask l) (if hi then v <<< 512 else v) l (lanes l)]
  | .low16 r hi =>
    let l : BitVec 4 := if hi then 0b0100 else 0b0001
    let x : VReg := (v.extractLsb' 0 128).setWidth 1024
    [.v r (lanesMask l) (if hi then x <<< 512 else x) l (lanes l)]
  | .pair r => [.v r (lanesMask 0b1111) v 0b1111 (lanes 0b0011 ||| (if poison.getLsbD 1 then 0b1100 else 0))]
  | .s2 n => [.s n (v.extractLsb' 0 64) one, .s (n + 1) (v.extractLsb' 64 64) one]

/-- A result reaches its register, or, of a task whose handler runs, its replay register (R97, R162). A task that has ended takes none. -/
def Core.arrive (c : Core) (handler : Bool) (l : List RegWrite) : Core :=
  if c.run == .ended then c
  else if handler == c.handler then l.foldl Core.deliver c
  else { c with pend := c.pend ++ l.map fun w => { handler := handler, delay := 0, w := w } }

/-- An access has its answer: its result is delivered, a refused one raises its cause at the next task boundary, and it leaves. -/
def State.answer (s : State) (n : Nat) (a : Acc) (r : Reply) : State :=
  let s := s.modCore n fun c =>
    let c := c.arrive a.handler (a.dst.writes r.data r.poison)
    match r.cause with
    | some k => { c with async := c.async ++ [⟨k, 7, a.e⟩] }
    | none => c
  s.endAcc n a.id

/-- Accesses whose end LOAD_RESULT_ARRIVAL is; of the others, those whose end STORE_ACK_ARRIVAL is (R101, R158). -/
def Acc.acked (a : Acc) : Bool :=
  match a.op with
  | .store .. | .cwb | .cinv | .czero => true
  | _ => false

/-- One of the two arrivals: the access performs if it may, waiting first for the host where R297 says so. -/
def State.arrival (s : State) (n id : Nat) (sel : Acc → Bool) : State :=
  match (s.core n).accs.find? fun a => a.id == id && sel a with
  | none => s
  | some a =>
    let line := match a.loc with
      | .mem pa sbit => if a.reply.isNone && s.accWaits n a pa sbit then some (pa / 64) else none
      | _ => none
    match line with
    | some k => if (s.core n).blocked a then s else s.askHost k a.op.writes
    | none =>
      match s.perform n a with
      | some (s', r) => s'.answer n a r
      | none => s

/-- LOAD_RESULT_ARRIVAL (R101). -/
def execLoadResultArrival (core id : Nat) (s : State) : Out := .next (s.arrival core id Acc.countsOCL)

/-- STORE_ACK_ARRIVAL (R101). -/
def execStoreAckArrival (core id : Nat) (s : State) : Out := .next (s.arrival core id Acc.acked)

/-- ASYNC_CAUSE_TAKE (R264). -/
def execAsyncCauseTake (core : Nat) (s : State) : Out :=
  let c := s.core core
  .next (if c.run == .running && !c.handler then s.takeAsync core else s)

/-- PAGE_WALK_COMPLETE (R309). -/
def execPageWalkComplete (core : Nat) (s : State) : Out := .next (s.completeWalk core)

/-! ## Packets at their destination (R150 to R152, R336, R337, R401, R402) -/

def State.pkt (s : State) (k : Nat) : Option Pkt := SMap.get none s.pkts k
def Pkt.dst (p : Pkt) : Nat := (p.hdr.extractLsb' 0 9).toNat
def Pkt.kind (p : Pkt) : Nat := (p.hdr.extractLsb' 18 4).toNat
def Pkt.pcls (p : Pkt) : Nat := (p.hdr.extractLsb' 25 2).toNat
def Pkt.counts (p : Pkt) : List Nat := (List.range 4).map fun i => (p.hdr.extractLsb' (64 + 16 * i) 16).toNat

def State.dropPkt (s : State) (k : Nat) : State := { s with pkts := SMap.put none s.pkts k none }

/-- The answer to an access waits at its source. -/
def State.setReply (s : State) (n id : Nat) (r : Reply) : State :=
  s.modCore n fun c => { c with accs := c.accs.map fun a => if a.id = id then { a with reply := some r } else a }

/-- One row of a remote access performs on core m: what it reads, and the target after it. A pair is one operation (R218). -/
def State.remoteRow (s : State) (m : Nat) (a : Acc) (row : Nat) (second : Bool) : State × (Row × Bool) :=
  let c := s.core m
  match a.op with
  | .load _ => (s, c.row row, c.rowPoison row)
  | .store _ d => (s.setCore m (c.writeMore ⟨row, halfOf d second, false⟩ (if second then c.holders [row - 1] else [])), 0, false)
  | _ => (s, 0, false)

/-- A remote access performs at core m, or is refused with BANK where the target task does not own the bank (R151). The rows of a pair
are two units (R122, R142; log entry 8): the first performs and is kept in the access, which has no answer yet. -/
def State.performRemote (s : State) (m : Nat) (a : Acc) (o : Nat) : State × Except (Row × Bool) Reply :=
  let rows := rowsNamed (a.op.bytes == 128) o
  if !(s.core m).owns o then (s, .ok ⟨0, 0, some cBANK⟩)
  else match rows, a.first with
    | [_, r1], some x =>
      let y := s.remoteRow m a r1 true
      (y.1, .ok ⟨y.2.1 ++ x.1, bit y.2.2 ++ bit x.2, none⟩)
    | [r0, _], none => let y := s.remoteRow m a r0 false; (y.1, .error y.2)
    | r0 :: _, _ => let y := s.remoteRow m a r0 false; (y.1, .ok ⟨y.2.1.setWidth 1024, (bit y.2.2).setWidth 2, none⟩)
    | [], _ => (s, .ok .done)

/-- A store of core n has performed at core m on a path (R337). -/
def State.countPerformed (s : State) (m n pcls : Nat) : State :=
  s.modCore m fun c => { c with performed := SMap.put 0 c.performed (4 * n + pcls) ((SMap.get 0 c.performed (4 * n + pcls) + 1) % 65536) }

/-- The access a packet carries. -/
def State.pktAcc (s : State) (p : Pkt) : Option (Nat × Acc × Nat) :=
  match p.body with
  | .access n id =>
    (match (s.core n).accs.find? fun a => a.id == id with
     | some a => (match a.loc with | .core _ o => some (n, a, o) | _ => none)
     | none => none)
  | _ => none

/-- An outstanding access changed. -/
def State.modAcc (s : State) (n id : Nat) (f : Acc → Acc) : State :=
  s.modCore n fun c => { c with accs := c.accs.map fun a => if a.id = id then f a else a }

/-- Data flits of the reply to an access. -/
def Acc.replyFlits (a : Acc) : Nat := match a.op with | .load n => (n + 63) / 64 | _ => 0

/-- The access of a packet performs at its target, or the first row of its pair does and the packet stays; the answer goes back as a
packet. A store counts once it has performed, which a refused one has not (R151, R337). -/
def State.deliverAccess (s : State) (k : Nat) (p : Pkt) : State :=
  match s.pktAcc p with
  | none => s.dropPkt k
  | some (n, a, o) =>
    match s.performRemote p.core a o with
    | (t, .error x) => t.modAcc n a.id fun a => { a with first := some x }
    | (t, .ok r) =>
      let t := t.dropPkt k
      let t := match a.op with | .store .. => if r.cause.isNone then t.countPerformed p.core n p.pcls else t | _ => t
      t.sendReply p.core n (if r.cause.isNone then a.replyFlits else 0) (.reply n a.id r)

/-- ORDERED_FLAG_ARRIVAL (R337): the flag is held at its target, which holds up to 16. -/
def execOrderedFlagArrival (pkt : Nat) (s : State) : Out :=
  .next (match s.pkt pkt with
    | some p =>
      if p.at_ = p.dst ∧ p.kind = 3 then
        (match s.pktAcc p with
         | some (n, _, _) => s.modCore p.core fun c =>
            if c.held.any (fun h => h.acc == pkt) || (if p.hdr.getLsbD 28 then 17 else 16) ≤ c.held.length then c else { c with held := c.held ++ [⟨n, pkt, p.counts⟩] }
         | none => s)
      else s
    | none => s)

/-- Whether the stores a flag follows have all performed: by path, modulo 2^16 (R337). -/
def Core.flagReady (c : Core) (n : Nat) (counts : List Nat) : Bool :=
  (List.range 4).all fun i => (SMap.get 0 c.performed (4 * n + i) + 65536 - counts.getD i 0) % 65536 < 32768

/-- ORDERED_FLAG_PERFORM (R337). -/
def execOrderedFlagPerform (core pkt : Nat) (s : State) : Out :=
  let c := s.core core
  .next (match c.held.find? fun h => h.acc == pkt, s.pkt pkt with
    | some h, some p =>
      if c.flagReady h.src h.counts then
        let t := s.deliverAccess pkt p
        if (t.pkt pkt).isSome then t else t.modCore core fun c => { c with held := c.held.filter fun g => g.acc != pkt }
      else s
    | _, _ => s)

end Sys2Proof.Machine
end

