-- ==== Sys2Proof/Machine/MemEvents.lean ====
section
/-! DEFINITION. c.tlbi and what the memory system does between instructions: invalidations (R310, R311), the directory and the L1s (R293 to
R296), the host (R297), HBM blocks and sweeps (R298 to R304), the weight store (R135, R136, R305). -/
namespace Sys2Proof.Machine

/-! ## c.tlbi (R310, R311) -/

/-- The operand: its page as first virtual page and pages, none for ALL; no value where R310 raises ILLEGAL. -/
def tlbiPage (a : Word) : Option (Option (Nat × Nat)) :=
  let all := a.getLsbD 4
  if a.extractLsb' 5 7 ≠ 0 ∨ a.extractLsb' 56 8 ≠ 0 then none
  else if all then some none
  else (szBits (a.extractLsb' 0 4).toNat).map fun b => some (a.toNat / 2 ^ b * 2 ^ (b - 12), 2 ^ (b - 12))

/-- The cores a scope reaches (R311). -/
def scopeCores (n : Nat) : Scope → List Nat
  | .task => [n]
  | .clu => (List.range 256).filter fun k => clusterOf k == clusterOf n
  | .die => (List.range 256).filter fun k => dieOf k == dieOf n
  | _ => List.range 256

/-- c.tlbi (R310): handler mode is checked before issue; the group after it waits. -/
def slotCTlbi (a : Reg) (scope : Scope) : SlotFn := fun x s =>
  let va := srcS x a
  match tlbiPage va with
  | none => .trap cILLEGAL va 0
  | some page =>
    let c := s.core x.n
    let far := match scope with | .fab | .sys => s.npkg - 1 | _ => 0
    let t : Tlbi := { core := x.n, world := c.spr.world.toNat, page := page, left := (scopeCores x.n scope).map fun k => (k, none)
                      outside := far, id := c.seq, operand := va.toNat }
    .ok { s.setCore x.n { c with tlbiWait := true, seq := c.seq + 1 } with tlbis := s.tlbis ++ [t] } .fall
def execCTlbi (g : Guard) (a : Reg) (scope : Scope) (s : State) : Out := issueSolo (.cTlbi g a scope) (slotCTlbi a scope) s

/-- The invalidation may start: every earlier store and engine write of the task has performed (R311). -/
def State.tlbiReady (s : State) (t : Tlbi) : Bool :=
  let c := s.core t.core
  !(c.accs.any fun a => !a.isFence && a.id < t.id && a.classes.any fun x => kept false x .rl) && !c.cmdsBefore t.id

/-- Entries of a world that map a byte of a page are dropped (all of them for ALL). -/
def Core.tlbDrop (c : Core) (world : Nat) (page : Option (Nat × Nat)) : Core :=
  { c with
    walkFault := none
    tlb := c.tlb.filter fun t =>
      t.world != world || (match page with | some (v, n) => t.vpn + t.pages ≤ v || v + n ≤ t.vpn | none => false) }

/-- Other packages are asked once (R311). -/
def State.tlbiAsk (s : State) (t : Tlbi) : State :=
  if t.asked || t.outside = 0 then s
  else
    let c := s.core t.core
    ((List.range s.npkg).filter fun p => p != s.pkg).foldl (fun s p =>
      s.request t.world p c.lid (.tlbi t.core) ⟨0, 0, 0, .tlbi, t.operand, 0, [], 0, 0⟩) s

/-- TLB_INVALIDATE_ARRIVAL (R311): the first invalidation that has not reached the core drops its entries; a walk in flight starts again. -/
def execTlbInvalidateArrival (core : Nat) (s : State) : Out :=
  .next (match s.tlbis.find? fun t => t.left.any fun e => e.1 == core && e.2.isNone with
    | some t =>
      if s.tlbiReady t then
        let s := s.tlbiAsk t
        let q := (s.core core).seq
        { s.modCore core (fun c => c.tlbDrop t.world t.page) with
          tlbis := s.tlbis.map fun u =>
            if u = t then { u with asked := true, left := u.left.map fun e => if e.1 = core then (e.1, some q) else e } else u }
      else s
    | none => s)

/-- A core has reported: its entries are dropped and every access it had translated before is over. -/
def State.tlbiReported (s : State) (e : Nat × Option Nat) : Bool :=
  match e.2 with
  | none => false
  | some q =>
    let c := s.core e.1
    !(c.accs.any fun a => a.id < q && a.loc != .none) && !(c.cmds.any fun m => m.id < q && m.st != .queued && m.st != .abandoned)

/-- The number that stands for another package as the issuer of an invalidation: its connection and request are in `id`. -/
def foreignCore : Nat := 256

/-- TLBI_COMPLETE (R311): every reached unit has reported. The abandoned and queued commands of a core translate afresh. -/
def execTlbiComplete (core : Nat) (s : State) : Out :=
  .next (match s.tlbis.find? fun t => t.core == core with
    | some t =>
      if t.outside = 0 && t.left.all (fun e => s.tlbiReported e) then
        let s := { s with tlbis := s.tlbis.erase t }
        if core = foreignCore then s.connSend (t.id / 2 ^ 32) 0 (.reply (t.id % 2 ^ 32) true false [])
        else s.modCore core fun c => { c with tlbiWait := false }
      else s
    | none => s)

/-! ## The directory (R293 to R296) -/

/-- A line that exists. -/
def lineOk (line : Nat) : Bool := populated (64 * line) || isHost (64 * line)

/-- DIR_READ (R294): a read miss of a core is served. -/
def execDirRead (core line : Nat) (s : State) : Out :=
  .next (if lineOk line && (s.core core).l1State line == .i && !s.waitsHost core line false then
      s.dirRead core line (s.core core).spr.world.toNat
    else s)

/-- Whether a store or an atomic of a core waits to be performed on a line through its L1 (R294). -/
def Core.wantsWrite (c : Core) (line : Nat) : Bool :=
  c.accs.any fun a => a.op.writes && (match a.loc with | .mem pa sbit => pa / 64 == line && !a.atHome pa sbit | _ => false)

/-- DIR_READ_EXCLUSIVE (R294): a core obtains a line it does not hold, in M for a store or an atomic that waits for it, in E for l.pf.ex
(log entry 67). -/
def execDirReadExclusive (core line : Nat) (s : State) : Out :=
  .next (if lineOk line && (s.core core).l1State line == .i && !s.waitsHost core line true then
      s.dirExclusive core line (s.core core).spr.world.toNat (if (s.core core).wantsWrite line then .m else .e)
    else s)

/-- DIR_UPGRADE (R294): a shared copy becomes M. -/
def execDirUpgrade (core line : Nat) (s : State) : Out :=
  .next (if (s.core core).l1State line == .s && !s.waitsHost core line true then
      s.dirExclusive core line (s.core core).spr.world.toNat .m
    else s)

/-- DIR_EVICTION_NOTICE (R293): a core gives up a copy, dirty exactly where it holds it in M. -/
def execDirEvictionNotice (core line : Nat) (dirty : Bool) (s : State) : Out :=
  let st := (s.core core).l1State line
  .next (if st != .i && (st == .m) == dirty then s.l1Evict core line else s)

/-- L1_INVALIDATE (R294): a probe removes a copy; one not held is answered so. -/
def execL1Invalidate (core line : Nat) (s : State) : Out := .next (s.l1Evict core line)

/-- L1_DOWNGRADE (R294): the owner of a line keeps it in S. -/
def execL1Downgrade (core line : Nat) (s : State) : Out :=
  .next (match s.l2Line line with
    | some x => if x.dst == 2 && x.own == core then s.downgradeOwner line else s
    | none => s)

/-! ## The host (R297) -/

/-- HOST_SNOOP: a host line is recalled from the L1s and answered, invalidated or kept shared. -/
def execHostSnoop (line : Nat) (inv : Bool) (s : State) : Out :=
  .next (if isHost (64 * line) then
      if inv then
        let s := s.invalidateOthers 256 line
        { s with l2 := SMap.erase s.l2 line, cxl := SMap.put .i s.cxl line .i }
      else
        let s := s.downgradeOwner line
        { s with cxl := if SMap.get .i s.cxl line = .i then s.cxl else SMap.put .i s.cxl line .s }
    else s)

/-- HOST_HBM_READ: the host may hold the line afterwards; it reads under the key of world 0. -/
def execHostHbmRead (line : Nat) (s : State) : Out :=
  .next (if populated (64 * line) then
      let s := s.homeLoad line 0
      (match s.l2Line line with
       | some x => s.setL2 line { x with host := true }
       | none => s)
    else s)

/-- HOST_HBM_WRITE: every L1 copy is invalidated first; the line is written for world 0. -/
def execHostHbmWrite (line : Nat) (data : Row) (s : State) : Out :=
  .next (if populated (64 * line) then (s.homeStore line 0 true false false).storeNat (64 * line) 64 data.toNat else s)

/-- BACK_INVALIDATION_RESPONSE: the host no longer holds the line. -/
def execBackInvalidationResponse (line : Nat) (s : State) : Out :=
  .next (if s.binv.contains line then
      let s := { s with binv := s.binv.erase line }
      (match s.l2Line line with
       | some x => s.setL2 line { x with host := false }
       | none => s)
    else s)

/-- CXL_CACHE_GRANT: the host grants a host line, with its data where no slice holds it; one held in S it grants in E or M. -/
def execCxlCacheGrant (line : Nat) (state : Mesi) (data : Row) (s : State) : Out :=
  let t := { s with cxl := SMap.put .i s.cxl line state, cxlWant := SMap.erase s.cxlWant line }
  .next (if isHost (64 * line) && state != .i then
      (match SMap.get .i s.cxl line with
       | .i => t.storeNat (64 * line) 64 data.toNat
       | .s => if state = .s then s else t
       | _ => s)
    else s)

/-! ## HBM (R298 to R304) -/

/-- MEMORY_READ (R301): the block's lines come into the L2; those of a block whose tag fails are poisoned. -/
def execMemoryRead (block world : Nat) (s : State) : Out :=
  .next (if populated (512 * block) then s.readBlock block world else s)

/-- MEMORY_WRITE (R299): lines of a block that stand dirty in the L2 for that world are stored. -/
def execMemoryWrite (block world : Nat) (lines : BitVec 8) (compress : Bool) (shape : BitVec 2) (s : State) : Out :=
  let have_ := (List.range 8).foldl (fun (m : BitVec 8) i =>
    match s.l2Line (8 * block + i) with
    | some x => if x.dirty && x.world == world then m ||| (1#8 <<< i) else m
    | none => m) 0
  .next (if populated (512 * block) && (lines &&& have_) != 0 then s.writeBlock block world (lines &&& have_) compress shape else s)

def State.setSweep (s : State) (k : Nat) (w : Sweep) : State := { s with sweeps := SMap.put {} s.sweeps k w }

/-- SWEEP_START (R303): GO is written; the sweep begins at SWBASE. -/
def execSweepStart (die ctl : Nat) (s : State) : Out :=
  let w := s.sweep (4 * die + ctl)
  .next (if w.go || w.end_ ≤ w.base then s else s.setSweep (4 * die + ctl) { w with go := true, ptr := w.base, live := true })

/-- SWEEP_PAUSE (R303): the pointer is held or released. -/
def execSweepPause (die ctl : Nat) (hold : Bool) (s : State) : Out :=
  .next (s.setSweep (4 * die + ctl) { s.sweep (4 * die + ctl) with pause := hold })

/-- The old key of a world is retired once no sweep of it runs: blocks still under it no longer check, for world 0 those nothing has written
among them (R304). -/
def State.retireKey (s : State) (wid : Nat) : State :=
  let r := SMap.get {} s.sec.worlds wid
  match r.newKey with
  | some k =>
    if s.sweeps.any fun e => e.2.go && e.2.wid == wid then s
    else
      { s with
        freshBad := s.freshBad || wid == 0
        blocks := s.blocks.map fun e => (e.1, e.2.map fun b => if b.world = wid then { b with bad := b.bad || !b.newKey, newKey := false } else b)
        sweeps := s.sweeps.map fun e => if e.2.wid = wid then (e.1, { e.2 with live := false }) else e
        sec := { s.sec with worlds := SMap.set s.sec.worlds wid { r with oldKey := k, newKey := none } } }
  | none => s

/-- SWEEP_BLOCK (R304): a block of the world is rewritten under the new key, one whose tag fails poisoned; SWPTR advances. -/
def execSweepBlock (die ctl : Nat) (s : State) : Out :=
  let k := 4 * die + ctl
  let w := s.sweep k
  .next (if !w.go || w.pause then s
    else
      let b := s.block w.ptr
      let mine := b.world == w.wid
      let b' := if mine then { b with newKey := true, bad := false, poison := if b.bad then BitVec.allOnes 8 else b.poison } else b
      let fin := w.ptr + 1 == w.end_
      let w' := { w with ptr := w.ptr + 1, go := !fin, done := w.done || fin
                         pblk := if mine && b.bad then min (w.pblk + 1) 65535 else w.pblk }
      let s := (s.setSweep k w').setBlock w.ptr b'
      if fin then s.retireKey w.wid else s)

/-! ## The weight store (R135, R136, R305) -/

/-- Cycles between refresh windows and of one window. -/
def refreshPeriod : Nat := 4096
def refreshLength : Nat := 16

/-- The refresh window due: CYC has reached what WREF names. -/
def Core.windowDue (c : Core) : Bool := !c.refresh && c.run == .running && c.spr.wref.toNat % 2 ^ 48 ≤ c.spr.cyc.toNat

/-- A running copy that reads the weight store pauses its reads for a window (R136). -/
def Cmd.paused (m : Cmd) : Cmd :=
  match m.st, m.cpy with
  | .running due, some y => if y.ss = .ws then { m with st := .running (due + refreshLength) } else m
  | _, _ => m

/-- REFRESH_WINDOW_OPEN (R136): running reads of the weight store take 16 cycles longer; WREF names the next window, 4,096 cycles on. -/
def execRefreshWindowOpen (core : Nat) (s : State) : Out :=
  .next (s.modCore core fun c =>
    if c.windowDue then
      let later := fun (a : Arr) => { a with ldw := a.ldw.map fun o => if o.ws then { o with due := o.due + refreshLength } else o }
      { c with
        refresh := true, arr0 := later c.arr0, arr1 := later c.arr1, cmds := c.cmds.map Cmd.paused
        spr := { c.spr with wref := BitVec.ofNat 64 ((c.spr.wref.toNat % 2 ^ 48 + refreshPeriod) % 2 ^ 48 + 2 ^ 48 * refreshLength) } }
    else c)

/-- REFRESH_WINDOW_CLOSE (R136). -/
def execRefreshWindowClose (core : Nat) (s : State) : Out :=
  .next (s.modCore core fun c =>
    if c.refresh && (c.run != .running || c.spr.wref.toNat % 2 ^ 48 + refreshLength ≤ c.spr.cyc.toNat + refreshPeriod) then
      { c with refresh := false }
    else c)

/-- The held writes of a core start as any copy does, those that read the store too not in a refresh window (R136). -/
def State.startHeld (s : State) (n : Nat) : State :=
  (s.core n).cmds.foldl (fun s m => match m.st, m.cpy with
    | .held, some y => if y.ss == .ws && (s.core n).refresh then s else s.startCopy n m y m.eng
    | _, _ => s) s

/-- WEIGHT_STORE_WRITE_START (R135): the held writes of a die start once nothing reads the store. -/
def execWeightStoreWriteStart (die : Nat) (s : State) : Out :=
  .next (if s.wsReads die then s
    else ((s.cores.map Prod.fst).filter fun n => dieOf n == die).foldl State.startHeld s)

/-- WEIGHT_STORE_GRANULE_ASSIGN (R134, R305): the granule is zeroed, then it passes to the world; no load of it is under way. -/
def execWeightStoreGranuleAssign (die granule world : Nat) (s : State) : Out :=
  .next (if die < 4 ∧ granule < 256 ∧ world < 16 ∧ !s.wsReads die ∧ !s.wsWriteHeld die then
      let out := fun (k per : Nat) => !(k / per == die * 2 ^ 8 + granule)
      { s with
        ws := s.ws.filter fun e => out e.1 (2 ^ 14)
        wsPoison := s.wsPoison.filter fun e => out e.1 (2 ^ 17)
        wsWorld := SMap.put 0 s.wsWorld (256 * die + granule) world }
    else s)

end Sys2Proof.Machine
end

