-- ==== Sys2Proof/Machine/Launch.lean ====
section
/-! DEFINITION. Launch records, placement, the completion block and its stop records, circuits and slot tables
(R268, R328 to R331, R342 to R353). -/
namespace Sys2Proof.Machine

/-! ## The launch record (R342) -/

/-- A launch record with its fields read. -/
structure Rcd where
  img : Nat
  task : Nat
  flags : Nat
  shape : Nat
  org : Nat
  prio : Nat
  queue : Nat
  world : Nat
  sp : Nat
  root : Nat
  w0 : Nat
  q0 : Nat
  w1 : Nat
  q1 : Nat
  done : Nat
  dseq : Nat
  deriving DecidableEq, Repr

/-- n bytes of a record from offset o. -/
def recNat (r : BitVec 1024) (o n : Nat) : Nat := r.toNat / 2 ^ (8 * o) % 2 ^ (8 * n)

def parseRcd (r : BitVec 1024) : Rcd :=
  let f := recNat r
  ⟨f 0 2, f 2 1, f 3 1, f 4 1, f 5 1, f 6 1 % 8, f 6 1 / 8, f 7 1, f 8 3, f 11 5 % 2 ^ 37 * 4096, f 16 8, f 24 8, f 32 8, f 40 8,
    f 48 8, f 56 8⟩

def recMb (r : BitVec 1024) (i : Nat) : Word := BitVec.ofNat 64 (recNat r (64 + 8 * i) 8)

def Rcd.pair (r : Rcd) : Bool := r.flags % 2 == 1
def Rcd.fix (r : Rcd) : Bool := r.flags / 2 % 2 == 1
def Rcd.dscope (r : Rcd) : Nat := r.flags / 4 % 8
def Rcd.w (r : Rcd) : Nat := 4 * (r.shape % 4 + 1)
def Rcd.h (r : Rcd) : Nat := 2 * (r.shape / 4 % 8 + 1)
/-- The rectangle in clusters. -/
def Rcd.cw (r : Rcd) : Nat := r.shape % 4 + 1
def Rcd.ch (r : Rcd) : Nat := r.shape / 4 % 8 + 1
/-- The partition in banks (R124, R346). -/
def Rcd.p (r : Rcd) : Nat := (r.sp + 4095) / 4096
/-- Lines of the completion block (R345). -/
def Rcd.blockLines (r : Rcd) : Nat := 1 + r.w * r.h + 3 * (r.cw * r.ch) + 8

/-! ## Placement (R346, R353) -/

/-- Whether a logical cluster has no physical cluster (R285). -/
def State.clusterOff (s : State) (cl : Nat) : Bool :=
  (s.sister (dieOf (clusterCore cl 0))).off.getLsbD (dieCluster (clusterCore cl 0))

/-- The runs a launch has still to end: of a paired one its third run once it has begun (R287). -/
def Launch.runs (l : Launch) : List Nat := if l.clusters.length = 3 then [2] else List.range l.clusters.length

/-- The logical clusters a launch holds: not those switched out. -/
def Launch.holds (l : Launch) : List Nat :=
  if l.released || l.third then []
  else ((l.runs.flatMap fun r => l.clusters.getD r []).filter fun c => c < 32) ++ l.incoming.map fun e => e.2.2

/-- A free cluster: no launch holds it and its OFF bit is clear. -/
def State.clusterFree (s : State) (cl : Nat) : Bool :=
  !s.clusterOff cl && !s.launches.any fun e => match e.2 with | some l => l.holds.contains cl | none => false

/-- The clusters of a rectangle at an origin in clusters, by launch-relative number; none where it does not fit. -/
def Rcd.rect (r : Rcd) (ox oy : Nat) : Option (List Nat) :=
  if ox + r.cw ≤ 4 ∧ oy + r.ch ≤ 8 then
    some ((List.range (r.cw * r.ch)).map fun c => ox + c % r.cw + 4 * (oy + c / r.cw))
  else none

/-- The candidate origins in the order of R353, in clusters. -/
def Rcd.origins (r : Rcd) : List (Nat × Nat) :=
  if r.fix then [(r.org % 4, r.org / 4 % 8)] else (List.range 32).map fun i => (i % 4, i / 4)

/-- The first rectangle all of whose clusters satisfy a test. -/
def Rcd.place (r : Rcd) (ok : Nat → Bool) : Option (List Nat) :=
  (r.origins.filterMap fun o => r.rect o.1 o.2).find? fun l => l.all ok

/-- Whether a record can be placed at all, a paired one twice on disjoint clusters (R350, check 6). -/
def Rcd.placeable (r : Rcd) (ok : Nat → Bool) : Bool :=
  (r.origins.filterMap fun o => r.rect o.1 o.2).any fun a => a.all ok && (!r.pair || (r.place fun c => ok c && !a.contains c).isSome)

/-- The clusters of every run of a record: a primary, and a shadow on others (R287). -/
def Rcd.places (r : Rcd) (ok : Nat → Bool) : Option (List (List Nat)) :=
  match r.place ok with
  | none => none
  | some a => if r.pair then (r.place fun c => ok c && !a.contains c).map fun b => [a, b] else some [a]

/-! ## Accesses of the scheduler (R342 to R344) -/

/-- Where the scheduler finds an address of a record, translated through its root in its world; device control is no memory. -/
def State.schedLoc (s : State) (world root va : Nat) (store : Bool) : Option Loc :=
  match s.xlate world root va store with
  | .error _ => none
  | .ok leaf => (match s.leafLoc leaf va with | .dev _ => none | l => some l)

/-- The C bit of the leaf the scheduler writes an address through (R299). -/
def State.schedComp (s : State) (world root va : Nat) : Bool :=
  match s.xlate world root va true with
  | .ok leaf => leafC leaf
  | .error _ => false

/-- Bytes written by the scheduler within one line; a page that no longer translates takes none. -/
def State.schedWrite (s : State) (world root lid va : Nat) (bytes : List Byte) : State :=
  let s := s.walkReads world root [va]
  match s.schedLoc world root va true with
  | some (.mem pa _) => (s.homeStore (pa / 64) world (bytes.length == 64) false (s.schedComp world root va)).storeBytes pa bytes
  | some (.fab p pa) => s.request world p lid .none (writeReq pa bytes false)
  | _ => s

/-- STATUS of a completion block (R344). -/
def statusWord (endc code pair lid : Nat) : Nat := endc + 256 * code + 65536 * pair + 2 ^ 32 * lid

/-- The header row of a completion block: STATUS and the zero bytes behind it, then SEQ as the release, which in another package waits for
their acknowledgement (R344). -/
def State.release (s : State) (r : Rcd) (lid status : Nat) : State :=
  if r.done = 0 then s
  else
    let body := leBytes 8 status ++ leBytes 48 0
    match s.schedLoc r.world r.root r.done true with
    | some (.fab p pa) => s.request r.world p lid (.release r.world lid pa r.dseq) (writeReq (pa + 8) body false)
    | _ => (s.schedWrite r.world r.root lid (r.done + 8) body).schedWrite r.world r.root lid r.done (leBytes 8 r.dseq)

/-- A stop record written into its slot of the launch's block (R268, R345). -/
def State.stopRecord (s : State) (l : Launch) (slot : Nat) (bytes : List Byte) : State :=
  let r := parseRcd l.rcd
  if r.done = 0 then s else s.schedWrite l.world l.root l.lid (r.done + 64 + 64 * slot) bytes

/-! ## Stop records (R268) -/

/-- Parts of n in time: of n units of an operation that runs from `start` to `due`, those run when it stops after the one in progress. -/
def partsRun (n start due tick : Nat) : Nat :=
  if due ≤ start then 0 else min n ((n * (min tick due - start) + (due - start) - 1) / (due - start))

/-- Beats run of a pass that has not committed, the row in progress among them (R213). -/
def Core.beatsRun (c : Core) (arr : Bool) : Nat :=
  let a := c.arr arr
  if c.passes.any fun p => p.lead && (p.tile / 4 == 1) == arr then
    min a.passBeats ((c.tick - a.passStart + a.passUnit - 1) / a.passUnit * a.passUnit)
  else 0

/-- Columns of the shadow plane loaded, the one in progress among them. -/
def Arr.columnsLoaded (a : Arr) (tick : Nat) : Nat :=
  match a.ldw with
  | some o => partsRun o.plane.cols o.start o.due tick
  | none => 0

/-- Rows of a tile stored, the one in progress among them; of all 16 the field of PIDX holds 15 (R213). -/
def Arr.rowsStored (a : Arr) (tick : Nat) : Nat :=
  match a.st with
  | some o => min 15 (partsRun 16 o.start o.due tick)
  | none => 0

/-- Outputs a witness form or v.adjb has finished when it stops after the one in progress (R236). -/
def WitOp.finished (w : WitOp) (tick : Nat) : Nat := max w.done (partsRun w.nout w.start w.due tick)

/-- OP, bits 31:25 of the word of the V slot instruction in flight (R236). -/
def witOp (i : Instr) : Nat :=
  match encode i with
  | .w32 _ w => w.toNat / 2 ^ 25
  | _ => 0

/-- PIDX as a stop records it (R213, R236). -/
def Core.progress (c : Core) : Word :=
  let f := fun (arr : Bool) =>
    c.beatsRun arr % 2 ^ 12 + 2 ^ 12 * ((c.arr arr).columnsLoaded c.tick % 2 ^ 12) + 2 ^ 24 * (c.arr arr).rowsStored c.tick
  let w := match c.wit with | some w => 2 ^ 63 + 2 ^ 56 * (witOp w.i % 128) | none => 0
  BitVec.ofNat 64 (f false + 2 ^ 28 * f true + w)

/-- What a stop at a group boundary records in the core: PIDX and the outputs a witness form has finished (R213, R236). -/
def Core.recordStop (c : Core) : Core :=
  { c with spr := { c.spr with pidx := c.progress }, wit := c.wit.map fun w => { w with done := w.finished c.tick } }

/-- The physical number of a core within the package (R268). -/
def State.unitOf (s : State) (n : Nat) : Nat := 72 * dieOf n + s.routerOf n % 128

/-- A core's stop record. -/
def State.coreRecord (s : State) (n stop : Nat) (saved : Bool) : List Byte :=
  let c := s.core n
  let nested := stop == cNESTED
  let replay := c.pend.any (fun p => !p.handler) || c.passes.any (fun p => !p.handler) || c.accs.any fun a => a.dst != .none && !a.handler
  let flags := b2n c.handler + 2 * b2n replay + 4 * b2n saved
  leBytes 1 1 ++ leBytes 1 stop ++ leBytes 2 (s.unitOf n) ++ leBytes 4 0 ++ leBytes 8 c.spr.cyc.toNat ++
    leBytes 8 (if c.handler then c.spr.epc.toNat else c.pc) ++ leBytes 4 c.spr.cause.toNat ++ leBytes 4 c.spr.xcause.toNat ++
    leBytes 8 c.spr.faddr.toNat ++ leBytes 8 (if nested then c.faddr2.toNat else 0) ++ leBytes 8 c.spr.pidx.toNat ++
    leBytes 4 (if nested then c.hoff else 0) ++ leBytes 4 flags

/-- The slot of a core's record. -/
def Launch.coreSlot (l : Launch) (c : Core) : Nat := c.tile l.w

def Launch.engineSlot (l : Launch) (rel e : Nat) : Nat := l.w * l.h + 3 * rel + e
def Launch.mcoreSlot (l : Launch) (m : Nat) : Nat := l.w * l.h + 3 * (l.w * l.h / 8) + m

/-! ## Slot tables and circuits (R328 to R331) -/

/-- A router's place in the package's 24 × 12 physical grid. -/
def gridX (r : Nat) : Nat := 12 * (r / 128 % 2) + r % 128 % 12
def gridY (r : Nat) : Nat := 6 * (r / 256) + r % 128 / 12
def gridRouter (x y : Nat) : Nat := 128 * (x / 12 + 2 * (y / 6)) + 12 * (y % 6) + x % 12

/-- A step of an x-then-y path: the next place, the port towards it and the port it is entered by; none at the end. -/
def xyStep (x y dx dy : Nat) : Option (Nat × Nat × Nat × Nat) :=
  if x < dx then some (x + 1, y, 1, 2)
  else if dx < x then some (x - 1, y, 2, 1)
  else if y < dy then some (x, y + 1, 3, 4)
  else if dy < y then some (x, y - 1, 4, 3)
  else none

/-- The x-then-y path from one place of the grid to another; crossing a die's edge goes by the bridges, port 6. -/
def pathFrom (x y dx dy inp : Nat) : Nat → List Hop
  | 0 => []
  | fuel + 1 =>
    let r := gridRouter x y
    match xyStep x y dx dy with
    | some (nx, ny, out, back) =>
      let cross := gridRouter nx ny / 128 != r / 128
      ⟨r, inp, if cross then 6 else out⟩ :: pathFrom nx ny dx dy (if cross then 6 else back) fuel
    | none => [⟨r, inp, 0⟩]

/-- The path between two routers. -/
def circuitPath (a b : Nat) : List Hop := pathFrom (gridX a) (gridY a) (gridX b) (gridY b) 0 64

/-- The x-then-y path of a circuit over the tiles of a launch, as ports of tiles. -/
def tilePath (x y dx dy inp : Nat) : Nat → List (Nat × Nat × Nat × Nat)
  | 0 => []
  | fuel + 1 =>
    match xyStep x y dx dy with
    | some (nx, ny, out, back) => (x, y, inp, out) :: tilePath nx ny dx dy back fuel
    | none => [(x, y, inp, 0)]

/-- The port by which a router's mesh neighbour lies: none where they are no neighbours of one die (R326). -/
def meshPort (a b : Nat) : Option Nat :=
  if a / 128 ≠ b / 128 ∨ 72 ≤ a % 128 ∨ 72 ≤ b % 128 then none
  else
    let ax := a % 128 % 12
    let ay := a % 128 / 12
    let bx := b % 128 % 12
    let by_ := b % 128 / 12
    if bx = ax + 1 ∧ by_ = ay then some 1
    else if bx + 1 = ax ∧ by_ = ay then some 2
    else if by_ = ay + 1 ∧ bx = ax then some 3
    else if by_ + 1 = ay ∧ bx = ax then some 4
    else none

/-- Whether each hop of a path of one die joins two physical neighbours in the hop's own direction (R331). -/
def neighbourly : List Hop → Bool
  | a :: b :: l => meshPort a.router b.router == some a.out && neighbourly (b :: l)
  | _ => true

/-- Field INi of an entry, as it is written. -/
def setSlotField (e : BitVec 32) (i o : Nat) : BitVec 32 :=
  BitVec.ofNat 32 (e.toNat - slotField e i * 2 ^ (3 * i) + o * 2 ^ (3 * i))

/-- Whether a circuit may use source slot t on its whole path (R329, R330). -/
def State.slotFits (s : State) (path : List Hop) (t : Nat) : Bool :=
  (List.range path.length).all fun k =>
    match path[k]? with
    | some h =>
      let e := s.slotEntry h.router ((t + 2 * k) % 256)
      h.inp != h.out && slotField e h.inp == 7 && (List.range 7).all fun i => slotField e i != h.out
    | none => true

/-- An entry of a router is written: the one before it acts until the next slot 0 (R328), and the reserved slots passed are counted first. -/
def State.writeSlot (s : State) (router slot : Nat) (e : BitVec 32) : State :=
  let key := 256 * router + slot
  let s := { s with reserved := SMap.put (0, 0) s.reserved router (s.reservedUpTo router, s.clock) }
  { s with
    slotOld := SMap.set s.slotOld key (some (s.actingEntry router slot s.clock, s.clock)), slotTab := SMap.put slotEmpty s.slotTab key e }

/-- The entries of a circuit for source slot t set to its outputs, or cleared. -/
def State.putSlot (s : State) (path : List Hop) (t : Nat) (clear : Bool) : State :=
  (List.range path.length).foldl (fun s k =>
    match path[k]? with
    | some h =>
      let slot := (t + 2 * k) % 256
      s.writeSlot h.router slot (setSlotField (s.slotEntry h.router slot) h.inp (if clear then 7 else h.out))
    | none => s) s

/-- The number of a mesh link by the router it leaves and its port; of bridge k from one die to another. -/
def meshLink (router port : Nat) : Nat := 8 * router + port
def bridgeLink (a b k : Nat) : Nat := 4096 + 16 * a + 4 * b + k

/-- Slots a bridge carries in a period at its rate of 500 bytes a cycle (R327). -/
def bridgeSlots : Nat := 2000

/-- Slots of a period that circuits reserve on a bridge. -/
def State.bridgeLoad (s : State) (k : Nat) : Nat :=
  (s.launches.flatMap fun e => match e.2 with
    | some l => (l.circs.filter fun c => c.bridges.contains k).map fun c => c.slots.length
    | none => []).sum

/-- The dies a path passes between. -/
def crossings : List Hop → List (Nat × Nat)
  | a :: b :: l => if a.out = 6 then (a.router / 128, b.router / 128) :: crossings (b :: l) else crossings (b :: l)
  | _ => []

/-- A bridge with room for n more slots at each crossing of a path, the lowest first (R330). -/
def State.bridgesFor (s : State) (n : Nat) : List (Nat × Nat) → Option (List Nat)
  | [] => some []
  | (a, b) :: l =>
    match ((List.range 4).map (bridgeLink a b)).find? (fun k => s.bridgeLoad k + n ≤ bridgeSlots), s.bridgesFor n l with
    | some k, some r => some (k :: r)
    | _, _ => none

/-- A circuit put in place on a path at given slots, or, where they do not suffice or a bridge has no room, dropped (R331). -/
def State.setCircuit (s : State) (lid id a b n : Nat) (path : List Hop) (slots : List Nat) : State :=
  match (if slots.length = n then s.bridgesFor n (crossings path) else none) with
  | some br =>
    (slots.foldl (fun s t => s.putSlot path t false) s).modLaunch lid fun l => { l with circs := l.circs ++ [⟨id, a, b, slots, path, br, n⟩] }
  | none => (s.countAt (s.routerOf a) 0x13).modLaunch lid fun l => { l with circs := l.circs ++ [⟨id, a, b, [], [], [], n⟩] }

/-- A circuit rebuilt whole over physical routers, in the first free slots from slot 0 (R331). -/
def State.rebuildCircuit (s : State) (lid id a b n : Nat) : State :=
  let path := circuitPath (s.routerOf a) (s.routerOf b)
  s.setCircuit lid id a b n path (((List.range 256).filter fun t => s.slotFits path t).take n)

/-- Field INi of a compiled entry of a tile, 7 past the section's end; its layout is log entry 42. -/
def compiledField (tab : List Byte) (x y slot i : Nat) : Nat :=
  let o := 1024 * (16 * y + x) + 4 * slot
  if o + 4 ≤ tab.length then slotField (BitVec.ofNat 32 (leNat ((tab.drop o).take 4))) i else 7

/-- The source slots at which the compiled tables carry a circuit along its tiles. -/
def compiledSlots (tab : List Byte) (tiles : List (Nat × Nat × Nat × Nat)) : List Nat :=
  (List.range 256).filter fun t => (List.range tiles.length).all fun k =>
    match tiles[k]? with
    | some (x, y, i, o) => compiledField tab x y ((t + 2 * k) % 256) i == o
    | none => true

/-- A circuit of a run: its compiled entries where they name the right neighbours, else rebuilt (R331). -/
def State.placeCircuit (s : State) (l : Launch) (run : Nat) (tab : List Byte) (c : Circuit) : State :=
  let a := l.coreAt run c.fx c.fy
  let b := l.coreAt run c.tx c.ty
  let tiles := tilePath c.fx c.fy c.tx c.ty 0 32
  let path := tiles.map fun t => (⟨s.routerOf (l.coreAt run t.1 t.2.1), t.2.2.1, t.2.2.2⟩ : Hop)
  let slots := ((compiledSlots tab tiles).filter fun t => s.slotFits path t).take c.slots
  if neighbourly path && slots.length == c.slots then s.setCircuit l.lid c.id a b c.slots path slots
  else s.rebuildCircuit l.lid c.id a b c.slots

/-- The entries of a circuit are cleared. -/
def State.clearCirc (s : State) (c : Circ) : State := c.slots.foldl (fun s t => s.putSlot c.hops t true) s

/-- The entries of a launch's circuits are cleared (R328, R356). -/
def State.clearCircuits (s : State) (lid : Nat) : State :=
  match s.launch lid with
  | none => s
  | some l => (l.circs.foldl State.clearCirc s).modLaunch lid fun l => { l with circs := [] }

/-- The circuits of every launch that hop at certain routers or, dropped before, end there, with their launches: each is taken out of place. -/
def State.circuitsAt (s : State) (at_ : Nat → Bool) : List (Nat × Circ) :=
  s.launches.flatMap fun e => match e.2 with
    | some l => (l.circs.filter fun c => at_ (s.routerOf c.src) || at_ (s.routerOf c.dst) || c.hops.any fun h => at_ h.router).map fun c => (l.lid, c)
    | none => []

def State.takeCircuits (s : State) (l : List (Nat × Circ)) : State :=
  l.foldl (fun s e => (s.clearCirc e.2).modLaunch e.1 fun x => { x with circs := x.circs.filter fun c => c != e.2 }) s

/-- Circuits taken out of place are rebuilt on the routers their ends have now (R331). -/
def State.rebuildCircuits (s : State) (l : List (Nat × Circ)) : State :=
  l.foldl (fun s e => s.rebuildCircuit e.1 e.2.id e.2.src e.2.dst e.2.want) s

/-- The image and task of a launch. -/
def State.taskOf (s : State) (img task : Nat) : Option TaskImage :=
  match SMap.get none s.sec.images img with
  | some i => i.tasks[task]?
  | none => none

/-- The circuits of a launch placed on its clusters, in the order of its list, for each run (R331, R354). -/
def State.loadCircuits (s : State) (lid : Nat) : State :=
  match s.launch lid with
  | none => s
  | some l =>
    match s.taskOf l.img l.task with
    | none => s
    | some t => l.runs.foldl (fun s r => t.circuits.foldl (fun s c => s.placeCircuit l r t.slottab c) s) s

end Sys2Proof.Machine
end

