-- ==== Sys2Proof/Machine/Start.lean ====
section
/-! DEFINITION. The start of a launch on its cores: scrubs on a change of world, the task's memories, the partition, the scratchpad image,
the special registers, the communication-core programs (R43, R90, R131 to R133, R275, R349, R354, R409, R410). -/
namespace Sys2Proof.Machine

/-- Fetch, constant-table, mark memories of a task placed; beyond them zero bytes (R43). -/
def Core.loadTask (c : Core) (t : TaskImage) : Core := { c with text := t.text, ctab := t.ctab, marks := t.marks }

/-- The array operations of an ended program write what they still have to write; planes and tiles are gone (R111). -/
def Core.finishOps (c : Core) : Core :=
  let one := fun (a : Bool) (c : Core) =>
    match (c.arr a).st with
    | some op => (c.writeSpans op.writes).setArr a { c.arr a with st := none }
    | none => c
  let c := one true (one false c)
  match c.wit with
  | some w => c.finishWit w
  | none => c

/-- The lines of a core's L1 that stand in given ways are given up (R131, R133). -/
def State.l1Empty (s : State) (n : Nat) (ways : Nat → Bool) : State :=
  ((s.core n).l1.filterMap fun e => if ways (e.1 % 96) then e.2.map L1Line.line else none).foldl (fun s line => s.l1Evict n line) s

/-- Rows of the scratchpad from bank `p` on are gone (R131). -/
def Core.dropRows (c : Core) (p : Nat) : Core :=
  { c with sp := c.sp.filter fun e => e.1 / 64 < p, spPoison := c.spPoison.filter fun e => e.1 / 64 < p }

/-- The partition moves to P banks: banks that leave L1 are written back, every bank that changes its role is zeroed (R131). -/
def State.movePart (s : State) (n p : Nat) : State :=
  (s.l1Empty n fun w => w < p).modCore n fun c => { c.dropRows (min p c.banks) with banks := p }

/-- The array is scrubbed where the world changes (R133). -/
def State.scrubArray (s : State) (n : Nat) : State :=
  (s.l1Empty n fun _ => true).modCore n fun c => { c.dropRows 0 with banks := 0, owner := [], tlb := [], sealKey := none, text := [], ctab := [], marks := [] }

/-- Whether the start of a task of P banks with an image of bytes o to k - 1 may go on at a core: with a change of world no earlier program holds
anything, else none holds a bank that moves or that the image covers (R131 to R133); its accesses are over (log entry 38). -/
def Core.startReady (c : Core) (world p o k : Nat) : Bool :=
  if !c.accsOver then false
  else if c.lastWorld ≠ world then c.cmds.isEmpty
  else (List.range (max c.banks p)).all fun b => !((o / 4096 ≤ b && b < (k + 4095) / 4096) || min c.banks p ≤ b) || !c.bankHeld b

/-- The next refresh window of a core as WREF names it (R136); its place and length are log entry 10. -/
def firstWindow : Word := BitVec.ofNat 64 (refreshPeriod + 2 ^ 48 * refreshLength)

/-- The task of one tile starts on its core, in the order of R354; every register as R90 and R163 say; text and constant tables stand
under a fresh key of the task (R43, R367). -/
def State.startCore (s : State) (l : Launch) (run tx ty : Nat) (t : TaskImage) (tstack : Nat) : State :=
  let n := l.coreAt run tx ty
  let s := s.modCore n Core.finishOps
  let s := if (s.core n).lastWorld ≠ l.world then s.scrubArray n else s
  let s := s.movePart n l.p
  { s with freeCtr := s.freeCtr + 1 }.modCore n fun c =>
    let owner := (List.range l.p).map fun b => (b, if c.bankHeld b then BankOwner.earlier else .task)
    let spr : Sprs := { tx := BitVec.ofNat 4 tx, ty := BitVec.ofNat 4 ty, lid := BitVec.ofNat 37 (l.lid + 2 ^ 32 * l.queue)
                        mb := (List.range 8).foldl (fun m i => SMap.put 0 m i (recMb l.rcd i)) []
                        tvec := BitVec.ofNat 64 t.tvec, tstack := BitVec.ofNat 64 tstack, world := BitVec.ofNat 4 l.world, wref := firstWindow }
    let c : Core := { run := .running, spr := spr, pc := t.entry, seq := c.seq, banks := c.banks, sp := c.sp, spPoison := c.spPoison, owner := owner
                      l1 := c.l1, l1ptr := c.l1ptr, tlb := c.tlb, cmds := c.cmds, oldTabs := c.oldTabs, rowMap := c.rowMap, tick := c.tick, run_ := run
                      sealKey := some (Config.freshKey s.freeCtr), lastWorld := l.world }
    (c.loadTask t).putSpans (spansFrom t.spoff false t.spimg (t.spimg.length / 64 + 2))

/-- The tiles of a launch. -/
def Launch.tiles (l : Launch) : List (Nat × Nat) := (List.range (l.w * l.h)).map fun i => (i % l.w, i / l.w)

/-- The cores of the runs a launch has still to end. -/
def Launch.cores (l : Launch) : List Nat := l.runs.flatMap fun r => l.tiles.map fun t => l.coreAt r t.1 t.2

/-- The program slots of a launch run (R412). -/
def State.startMartens (s : State) (lid : Nat) : State :=
  { s with martens := s.martens.map fun e => if e.2.lid = lid ∧ e.2.run = .stopped then (e.1, { e.2 with run := .running }) else e }

/-- Flags and arm tables of a launch's clusters are cleared, their engines begin their round robin at core 0 (R276, R284, R354). -/
def State.clearFlags (s : State) (l : Launch) : State :=
  l.runs.foldl (fun s r => (l.clusters.getD r []).foldl (fun s cl => s.setCluster cl { drops := (s.cluster cl).drops }) s) s

/-- A placed launch starts on all its cores at once as soon as each of them may: scrubs, memories, partitions and images of all, then flag files and
slot tables, in the order of R354; the registers of a core take their values with its memories. -/
def State.tryStart (s : State) (lid : Nat) : State :=
  match s.launch lid with
  | none => s
  | some l =>
    match s.taskOf l.img l.task with
    | none => s
    | some t =>
      let ready := l.cores.all fun n => (s.core n).run == .waiting && (s.core n).lid == lid &&
        (s.core n).startReady l.world l.p t.spoff (t.spoff + t.spimg.length)
      if !ready || l.finished then s
      else
        let base := (s.queue l.queue).qstk
        let s := l.runs.foldl (fun s r => l.tiles.foldl (fun s p =>
          s.startCore l r p.1 p.2 t ((base + 4096 * (p.2 * l.w + p.1)) % 2 ^ 64)) s) s
        (((s.clearFlags l).loadCircuits lid).startMartens lid)

/-- A core waits for its task to start. -/
def Core.await (c : Core) (lid queue run tx ty : Nat) : Core :=
  { c with
    run := .waiting, run_ := run, gated := false, retention := false, powerOff := false, handler := false
    spr := { c.spr with lid := BitVec.ofNat 37 (lid + 2 ^ 32 * queue), tx := BitVec.ofNat 4 tx, ty := BitVec.ofNat 4 ty } }

/-- A launch's runs are placed: its cores wait. -/
def State.awaitAll (s : State) (l : Launch) : State :=
  l.runs.foldl (fun s r => l.tiles.foldl (fun s p => s.modCore (l.coreAt r p.1 p.2) fun c => c.await l.lid l.queue r p.1 p.2) s) s

/-! ## Communication-core programs (R409, R410) -/

def State.marten (s : State) (m slot : Nat) : MSlot := SMap.get {} s.martens (4 * m + slot)
def State.setMarten (s : State) (m slot : Nat) (x : MSlot) : State := { s with martens := SMap.set s.martens (4 * m + slot) x }

/-- Whether a launch has ended (R356): every task has, or it has ended early; of a pair, once its runs are compared. -/
def Launch.over (l : Launch) : Bool := l.finished && (!l.rcd.getLsbD 24 || l.released || l.endc != 0)

/-- Whether the launch of a program has ended: the program is over, and its slot free (R409, R412). -/
def State.programOver (s : State) (x : MSlot) : Bool :=
  x.run != .free && (match s.launch x.lid with | some l => l.over | none => false)

/-- The free launch slot of lowest number of a unit. -/
def State.freeSlot (s : State) (m : Nat) : Option Nat := [1, 2, 3].find? fun k => (s.marten m k).run == .free

/-- Whether every communication core has a free launch slot. -/
def State.slotsFree (s : State) : Bool := (List.range 8).all fun m => (s.freeSlot m).isSome

/-- A program as its slot holds it before its first instruction. -/
def MSlot.load (m lid world : Nat) (words : List (BitVec 32)) (mb : SMap Word) : MSlot :=
  { run := .stopped, lid := lid, k := SMap.put 0 [] 1 (BitVec.ofNat 64 m), mb := mb, world := world
    prog := (List.range words.length).foldl (fun t i => SMap.put 0 t i (words.getD i 0)) [] }

/-- The MCORE section written into one free slot of every unit. -/
def State.loadMartens (s : State) (l : Launch) : State :=
  match SMap.get none s.sec.images l.img with
  | some i =>
    if i.hasMcore then
      (List.range 8).foldl (fun s m =>
        match s.freeSlot m with
        | some k => s.setMarten m k (MSlot.load m l.lid l.world i.mcore
            ((List.range 8).foldl (fun t j => SMap.put 0 t j (recMb l.rcd j)) []))
        | none => s) s
    else s
  | none => s

end Sys2Proof.Machine
end

