-- ==== Sys2Proof/Machine/Events.lean ====
section
/-! DEFINITION. Events of the communication cores: their words, where they go, merging, queues (R422 to R424). -/
namespace Sys2Proof.Machine

/-- E0 of an event (R422). -/
def Ev.e0 (e : Ev) : Word := BitVec.ofNat 64 (e.type + 65536 * e.conn + 2 ^ 32 * e.psn)

/-- No connection. -/
def noConn : Nat := 0xFFFF

/-- Two occurrences of one event of types 1 to 5 (R424): newest PSN and bitmap of types 1, 2 and 5, counts of types 3 and 4 added. -/
def Ev.merge (old new : Ev) : Ev :=
  match new.type with
  | 3 => { new with e1 := BitVec.ofNat 64 (new.e1.toNat % 2 ^ 32 + 2 ^ 32 * min (old.e1.toNat / 2 ^ 32 + new.e1.toNat / 2 ^ 32) (2 ^ 32 - 1)) }
  | 4 => { new with e1 := old.e1 + new.e1 }
  | _ => new

def Ev.merges (e : Ev) : Bool := 1 ≤ e.type && e.type ≤ 5
def Ev.same (a b : Ev) : Bool := a.type == b.type && a.conn == b.conn

/-- Entries of a queue. -/
def queueRoom : Nat := 256

/-- An event put at the end of a slot's queue, or held by its source while the queue is full. -/
def MSlot.enqueue (x : MSlot) (e : Ev) : MSlot :=
  if x.queue.length < queueRoom && x.held.isEmpty then { x with queue := x.queue ++ [e] } else { x with held := x.held ++ [e] }

/-- Events held are posted as entries free. -/
def MSlot.refill (x : MSlot) : MSlot :=
  let k := queueRoom - x.queue.length
  { x with queue := x.queue ++ x.held.take k, held := x.held.drop k }

/-- An event is posted to a slot (R424): merged into a queued one of its kind, kept fresh behind a delivered one, or queued. -/
def MSlot.post (x : MSlot) (e : Ev) : MSlot :=
  if !e.merges then x.enqueue e
  else if x.queue.any e.same then { x with queue := x.queue.map fun q => if e.same q then q.merge e else q }
  else if x.held.any e.same then { x with held := x.held.map fun q => if e.same q then q.merge e else q }
  else if x.locks.any fun l => e.same l.1 then
    { x with locks := x.locks.map fun l => if e.same l.1 then (l.1, some (match l.2 with | some f => f.merge e | none => e)) else l }
  else x.enqueue e

def State.modMarten (s : State) (m k : Nat) (f : MSlot → MSlot) : State := s.setMarten m k (f (s.marten m k))

/-- The slot of a unit an event of a launch goes to: the launch's, where its program claims the type, else the firmware's (R423). -/
def State.eventSlot (s : State) (unit lid type : Nat) : Nat :=
  match [1, 2, 3].find? (fun k => let x := s.marten unit k; x.lid == lid && lid != 0 && (x.run == .running || x.run == .stopped)) with
  | some k => if (s.marten unit k).emask.getLsbD type then k else 0
  | none => 0

/-- The package at the far end of a connection: of a port's hop the one its cable leads to. -/
def Conn.remote (c : Conn) : Nat := if 8192 ≤ c.peer then Config.portPeer (c.peer - 8192) else c.peer

/-- An event of a connection: to the unit its peer selects, for the launch that issued the packet concerned (R423). -/
def State.connEvent (s : State) (conn type psn : Nat) (e1 : Word) (lid : Nat) : State :=
  match s.conn conn with
  | none => s
  | some c =>
    let unit := c.remote % 8
    s.modMarten unit (if type = 4 then 0 else s.eventSlot unit lid type) fun x => x.post ⟨type, conn, psn, e1, lid⟩

/-- RETIRE goes to every program on every unit (R423). -/
def State.retireEvent (s : State) (port : Nat) : State :=
  let e : Ev := ⟨6, noConn, 0, BitVec.ofNat 64 port, 0⟩
  (List.range 8).foldl (fun s m => [0, 1, 2, 3].foldl (fun s k =>
    let x := s.marten m k
    if k = 0 || ((x.run == .running || x.run == .stopped) && x.emask.getLsbD 6) then s.modMarten m k fun x => x.post e else s) s) s

/-- SLOTLOST goes to the unit its RID selects, with the package of the lost slot (R422, R423). -/
def State.slotLostEvent (s : State) (r : RSlot) (pkg : Nat) : State :=
  let unit := r.rid % 8
  let e1 := r.rid + 2 ^ 16 * r.chunk + 2 ^ 28 * r.epoch + 2 ^ 36 * pkg
  s.modMarten unit (s.eventSlot unit r.lid 7) fun x => x.post ⟨7, noConn, 0, BitVec.ofNat 64 e1, r.lid⟩

end Sys2Proof.Machine
end

