-- ==== Sys2Proof/Machine/F.lean ====
section
/-! DEFINITION. The F slot (R185 to R190): results reach their registers 12 groups after issue. -/
namespace Sys2Proof.Machine

/-! ## Tables (R188, R189) -/

/-- Whether the table at offset `o` of the constant tables passes the checks of f.tsel (R188). -/
def tableOk (c : Core) (o : Nat) : Bool :=
  let nf := (lineByte c.ctab o).toNat
  let n := lineNat c.ctab (o + 2) 2
  let x0 := lineNat c.ctab (o + 8) 4
  let reserved := (List.range 3).map (· + 5) ++ (List.range 52).map (· + 12)
  (nf == 8 || nf == 9 || nf == 10) && 2 ≤ n && n ≤ 256 && x0 / 2 ^ 23 % 256 != 255 &&
    (reserved.all fun i => lineByte c.ctab (o + i) == 0) && o + 64 + n * (if nf == 10 then 4 else 2) ≤ 65536

/-- The table at offset `o` of the constant tables, on its way into slot TS. -/
def tableAt (c : Core) (ts : Bool) (o : Nat) : RegWrite :=
  let nf := (lineByte c.ctab o).toNat
  let n := lineNat c.ctab (o + 2) 2
  let k := if nf = 10 then 4 else 2
  .tab ts nf ((lineByte c.ctab (o + 1)).toNat % 16) n (lineByte c.ctab (o + 4)).toNat (lineNat c.ctab (o + 8) 4)
    ((List.range n).map fun i => lineNat c.ctab (o + 64 + k * i) k)

/-- f.tsel (R188): the table is checked at issue and stands in its slot 12 groups later. A mark on a line of it is not looked at (log entry 109). -/
def slotFTsel (ts : Bool) (a : Reg) : SlotFn := fun x s =>
  let c := s.core x.n
  let o := ((srcV x a).extractLsb' 6 10).toNat * 64
  if !tableOk c o then .trap cILLEGAL (BitVec.ofNat 64 o) 0 else retire x s 12 (tableAt c ts o)
def execFTsel (g : Guard) (ts : Bool) (a : Reg) (s : State) : Out := issueSolo (.fTsel g ts a) (slotFTsel ts a) s

/-- Node i of a table. -/
def FTable.node (t : FTable) (i : Nat) : Val := floatVal (Fmt.ofCode (BitVec.ofNat 4 t.nf)) (t.nodes.getD i 0)

/-- An extrapolated value: `y` at the end, `slope`, `d` the distance, of input x (R189). -/
def extrap (x y slope d : Val) : Val :=
  if x.isInf then
    if slope.isZero then y
    else match slope with
      | .nan => .nan
      | _ => .inf (slope.isNeg != x.isNeg)
  else (y.add (d.mul slope)).rne64

/-- What a mode gives outside the nodes (R189). -/
def outside (mode : Nat) (x y slope d : Val) : Val :=
  match mode with
  | 0 => y
  | 1 => .fin false 0 0
  | 2 => x
  | _ => extrap x y slope d

/-- f.eval on one value (R189). -/
def FTable.eval (t : FTable) (x : Val) : Val :=
  match x with
  | .nan => .nan
  | _ =>
    let last := t.n - 1
    let u := (x.sub (floatVal .fp32 t.x0)).rne64.scale (-(signedOf 8 t.se))
    let top := Val.ofInt last 0
    if u.lt (.fin false 0 0) then
      outside (t.modes % 4) x (t.node 0) ((t.node 1).sub (t.node 0)).rne64 u
    else if top.lt u then
      outside (t.modes / 4) x (t.node last) ((t.node last).sub (t.node (last - 1))).rne64 (u.sub top).rne64
    else
      match u with
      | .fin _ m e =>
        let i := (roundInt .rtz false m e).toNat
        if i = last then t.node last
        else ((t.node i).add ((u.sub (Val.ofInt i 0)).mul ((t.node (i + 1)).sub (t.node i)).rne64)).rne64
      | v => v

/-- One result of the special-function unit for every element of a range, 12 groups after issue (R187). -/
def funElems (x : Ctx) (s : State) (fmt : FFmt) (rg : BitVec 3) (d a : Reg) (f : Val → Val) : SlotOut :=
  let r := rgRange rg
  let t := fmt.fmt
  putRange x s 12 d r (rangeOf r t.bits ((elems (srcV x a) r t.bits).map fun e => roundFloat t .rne (f (floatVal t e))))

/-- f.eval (R189): an empty slot gives the canonical NaN (R188). -/
def slotFEval (fmt : FFmt) (rg : BitVec 3) (ts : Bool) (d a : Reg) : SlotFn := fun x s =>
  match (if ts then x.core.ftab1 else x.core.ftab0) with
  | none => funElems x s fmt rg d a fun _ => .nan
  | some t => funElems x s fmt rg d a t.eval
def execFEval (g : Guard) (fmt : FFmt) (rg : BitVec 3) (ts : Bool) (d a : Reg) (s : State) : Out :=
  issueSolo (.fEval g fmt rg ts d a) (slotFEval fmt rg ts d a) s

/-- 1/x (R190). -/
def slotFRcp (fmt : FFmt) (rg : BitVec 3) (d a : Reg) : SlotFn := fun x s => funElems x s fmt rg d a Val.rcp
def execFRcp (g : Guard) (fmt : FFmt) (rg : BitVec 3) (d a : Reg) (s : State) : Out :=
  issueSolo (.fRcp g fmt rg d a) (slotFRcp fmt rg d a) s

/-- 1/√x (R190). -/
def slotFRsq (fmt : FFmt) (rg : BitVec 3) (d a : Reg) : SlotFn := fun x s => funElems x s fmt rg d a Val.rsq
def execFRsq (g : Guard) (fmt : FFmt) (rg : BitVec 3) (d a : Reg) (s : State) : Out :=
  issueSolo (.fRsq g fmt rg d a) (slotFRsq fmt rg d a) s

/-- 2^x (R190). -/
def slotFExp2 (fmt : FFmt) (rg : BitVec 3) (d a : Reg) : SlotFn := fun x s => funElems x s fmt rg d a Val.exp2
def execFExp2 (g : Guard) (fmt : FFmt) (rg : BitVec 3) (d a : Reg) (s : State) : Out :=
  issueSolo (.fExp2 g fmt rg d a) (slotFExp2 fmt rg d a) s

/-- log2 x (R190). -/
def slotFLog2 (fmt : FFmt) (rg : BitVec 3) (d a : Reg) : SlotFn := fun x s => funElems x s fmt rg d a Val.log2
def execFLog2 (g : Guard) (fmt : FFmt) (rg : BitVec 3) (d a : Reg) (s : State) : Out :=
  issueSolo (.fLog2 g fmt rg d a) (slotFLog2 fmt rg d a) s

/-- F_TABLE_LOAD_COMPLETE (R188). -/
def execFTableLoadComplete (core : Nat) (ts : Bool) (s : State) : Out :=
  .next (s.modCore core fun c => c.deliverTable c.handler ts)

/-- PENDING_RESULT_DELIVERY (R86). -/
def execPendingResultDelivery (core : Nat) (s : State) : Out := .next (s.modCore core fun c => c.deliverResults c.handler)

end Sys2Proof.Machine
end

