-- ==== Sys2Proof/Machine/Image.lean ====
section
/-! DEFINITION. The bytes of a context image and of a gang image (R191, R213, R214, R236, R237, R268 to R271, R283). The places of fields that
R271 gives to a page without a layout are the model's: log entry 15. -/
namespace Sys2Proof.Machine

/-! ## Fields of bytes -/

/-- Fields as bytes: sizes and values, in order. -/
def fields (l : List (Nat × Nat)) : List Byte := l.flatMap fun f => leBytes f.1 f.2

/-- k fields of one size. -/
def many (k n : Nat) (f : Nat → Nat) : List (Nat × Nat) := (List.range k).map fun i => (n, f i)

/-- The values of fields of given sizes, and the bytes after them. -/
def readFields : List Nat → List Byte → List Nat × List Byte
  | [], l => ([], l)
  | n :: k, l =>
    let r := readFields k (l.drop n)
    (leNat (l.take n) :: r.1, r.2)

/-- k items read one after the other, and the bytes after them. -/
def readMany {α : Type} (f : List Byte → α × List Byte) : Nat → List Byte → List α × List Byte
  | 0, l => ([], l)
  | k + 1, l =>
    let a := f l
    let r := readMany f k a.2
    (a.1 :: r.1, r.2)

/-- Bytes as n rows, zero after their end. -/
def rowsIn (n : Nat) (b : List Byte) : List Row := (List.range n).map fun i => rowOf ((b.drop (64 * i)).take 64)

/-- The bytes of n rows from row i on. -/
def bytesFrom (row : Nat → Row) (i n : Nat) : List Byte := (List.range n).flatMap fun k => bytesOf (row (i + k))

/-- A table of the values given by number, without those that are the default. -/
def tableOf {α : Type} [DecidableEq α] (d : α) (n : Nat) (f : Nat → α) : SMap α :=
  ((List.range n).map fun i => (i, f i)).filter fun e => decide (e.2 ≠ d)

/-- n flags as a number. -/
def flagsOf (n : Nat) (f : Nat → Bool) : Nat := joinElems 1 ((List.range n).map fun i => b2n (f i))

/-- Row i of fields of w bits, k to a row. -/
def fieldRow (w k : Nat) (f : Nat → Nat) (i : Nat) : Row := BitVec.ofNat 512 (joinElems w ((List.range k).map fun j => f (k * i + j)))

/-- Field n of rows of fields of w bits, k to a row. -/
def rowField (w k : Nat) (row : Nat → Row) (n : Nat) : Nat := ((row (n / k)).extractLsb' (w * (n % k)) w).toNat

/-- The banks of rows. -/
def banksOf (rows : List Nat) : Nat := flagsOf 88 fun b => rows.any fun r => r / 64 == b

/-- A slot word as a number. -/
def wordNat (i : Instr) : Nat :=
  match encode i with
  | .w32 _ w => w.toNat
  | .w64 _ w => w.toNat
  | _ => 0

/-! ## Header (0x0_0000) -/

/-- The 64-byte rows of a scratchpad partition, the most there can be. -/
def maxRows : Nat := 5632

/-- A command whose acknowledged rows the header lists: the first e.get of tiles with some (R407; log entry 15). -/
def Core.ackedCmd (c : Core) : Option Nat :=
  c.cmds.findIdx? fun m => !m.old && !m.acked.isEmpty && match m.i with | .eGet _ _ _ _ _ true => true | _ => false

/-- Bit r for each row that it has had acknowledged. -/
def Core.ackedRows (c : Core) : Nat :=
  match c.ackedCmd.bind fun i => c.cmds[i]? with
  | some m => flagsOf maxRows fun r => m.acked.contains r
  | none => 0

/-- The header of an image: `arms` names the arm-table entries the core has armed. -/
def Core.headerBytes (c : Core) (stop arms : Nat) : List Byte :=
  let loop := fun (k : Nat) (l : List Loop) => (List.range k).flatMap fun i =>
    match l[i]? with | some v => [(8, v.lc), (8, v.first), (8, v.last)] | none => [(8, 0), (8, 0), (8, 0)]
  fields ([(4, 1), (1, c.spr.world.toNat), (1, c.banks), (2, stop)] ++ many 32 8 (fun i => (c.regs.rs i).toNat) ++ [(1, flagsOf 8 c.regs.rp)] ++
    many 16 32 (fun i => (c.regs.rq i).toNat) ++ many 32 8 (fun i => (c.readSpr i).toNat) ++ loop 4 c.loops ++ loop 2 c.hloops ++
    [(1, c.loops.length), (1, c.hloops.length), (4, c.segCount.toNat), (4, (crcEnd c.segCrc).toNat)] ++
    many 64 2 (fun b => match SMap.get none c.arrGen b with | some g => g.toNat | none => 0) ++
    [(8, flagsOf 64 fun b => (SMap.get none c.arrGen b).isSome), (4, flagsOf 32 fun i => SMap.get false c.regs.sPoison i),
     (2, flagsOf 16 fun i => SMap.get false c.regs.qPoison i),
     (16, joinElems 4 ((List.range 32).map fun i => (SMap.get 0 c.regs.vPoison i).toNat)),
     (11, flagsOf 88 fun b => SMap.get BankOwner.none c.owner b == .task), (704, flagsOf maxRows c.rowPoison), (704, c.ackedRows), (4, c.pc),
     (4, c.pairCrc.toNat), (8, c.pairSum.toNat), (4, c.ncmd), (1, if c.run == .ended then 1 else if c.run == .idle then 2 else 0),
     (1, match c.drain with | some k => 1 + k.code.toNat | none => 0), (4, arms),
     (1, c.async.length)] ++
    c.async.flatMap fun a => [(1, a.cause), (1, a.cls), (8, a.faddr.toNat)])

/-- The special registers of an image; LID is that of the launch the core serves. -/
def sprsOf (lid : BitVec 37) (v : Nat → Nat) : Sprs :=
  let w := fun k => BitVec.ofNat 64 (v k)
  { tx := BitVec.ofNat 4 (v 0), ty := BitVec.ofNat 4 (v 1), lid := lid, mb := tableOf 0 8 fun i => w (8 + i), cause := w 16, xcause := w 17
    faddr := w 18, epc := w 19, tvec := w 20, tstack := w 21, pidx := w 22, cyc := w 23, stall := w 24, world := BitVec.ofNat 4 (v 25), wref := w 26 }

/-- What a header says, put into a core, with the rows acknowledged and the arm-table entries it names. -/
def Core.readHeader (c : Core) (b : List Byte) : Core × Nat × Nat :=
  let group := fun (k n : Nat) (l : List Byte) => readFields (List.replicate k n) l
  let r0 := readFields [4, 1, 1, 2] b
  let s := group 32 8 r0.2
  let p := readFields [1] s.2
  let q := group 16 32 p.2
  let x := group 32 8 q.2
  let lv := readMany (readFields [8, 8, 8]) 6 x.2
  let r1 := readFields [1, 1, 4, 4] lv.2
  let g := group 64 2 r1.2
  let r2 := readFields [8, 4, 2, 16, 11, 704, 704, 4, 4, 8, 4, 1, 1, 4, 1] g.2
  let at_ := fun k => r2.1.getD k 0
  let asy := readMany (readFields [1, 1, 8]) (at_ 14) r2.2
  let level := fun (k : Nat) => let v := lv.1.getD k []; (⟨v.getD 0 0, v.getD 1 0, v.getD 2 0⟩ : Loop)
  let regs : Regs := { c.regs with
    s := tableOf 0 32 fun i => BitVec.ofNat 64 (s.1.getD i 0), p := tableOf false 8 fun i => i != 0 && (p.1.getD 0 0).testBit i
    q := tableOf 0 16 fun i => BitVec.ofNat 256 (q.1.getD i 0) &&& descHeld, sPoison := tableOf false 32 fun i => (at_ 1).testBit i
    qPoison := tableOf false 16 fun i => (at_ 2).testBit i, vPoison := tableOf 0 32 fun i => BitVec.ofNat 4 (at_ 3 / 16 ^ i) }
  ({ c with
     regs := regs, spr := sprsOf c.spr.lid fun k => x.1.getD k 0, banks := r0.1.getD 2 0
     loops := (List.range (r1.1.getD 0 0)).map level, hloops := (List.range (r1.1.getD 1 0)).map fun k => level (4 + k)
     segCount := BitVec.ofNat 32 (r1.1.getD 2 0), segCrc := crcEnd (BitVec.ofNat 32 (r1.1.getD 3 0))
     arrGen := tableOf none 64 fun i => if (at_ 0).testBit i then some (BitVec.ofNat 16 (g.1.getD i 0)) else none
     owner := tableOf BankOwner.none 88 fun i => if (at_ 4).testBit i then .task else .none
     spPoison := tableOf false maxRows fun i => (at_ 5).testBit i, pc := at_ 7, pairCrc := BitVec.ofNat 32 (at_ 8)
     pairSum := BitVec.ofNat 64 (at_ 9), ncmd := at_ 10, run := if at_ 11 = 1 then .ended else if at_ 11 = 2 then .idle else .stopped
     drain := if at_ 12 = 0 then none else Scope.ofCode (BitVec.ofNat 3 (at_ 12 - 1))
     async := asy.1.map fun a => ⟨a.getD 0 0, a.getD 1 0, BitVec.ofNat 64 (a.getD 2 0)⟩ }, at_ 6, at_ 13)

/-! ## Replay registers (0x0_2000) -/

/-- A mask of a vector register by nibbles: every element has at least four bits (R164). -/
def nibbles (m : VReg) : Nat := flagsOf 256 fun i => m.getLsbD (4 * i)
def ofNibbles (x : Nat) : VReg := BitVec.ofNat 1024 (joinElems 4 ((List.range 256).map fun i => if x.testBit i then 15 else 0))

/-- A result on its way: kind, number, a flag or lanes, contents; a table is named by its offset in the constant tables. -/
def Core.writeBytes (c : Core) : RegWrite → List (Nat × Nat)
  | .s n v po => [(1, 0), (1, n), (1, b2n po), (8, v.toNat)]
  | .p n b => [(1, 1), (1, n), (1, b2n b)]
  | .q n v po => [(1, 2), (1, n), (1, b2n po), (32, v.toNat)]
  | .qw n wn v => [(1, 3), (1, n), (1, wn.toNat), (8, v.toNat)]
  | .v n mask val lanes po => [(1, 4), (1, n), (1, lanes.toNat + 16 * po.toNat), (32, nibbles mask), (128, val.toNat)]
  | .w n v => [(1, 5), (1, n), (1, 0), (16, v.toNat)]
  | .spr n v => [(1, 6), (1, n), (1, 0), (8, v.toNat)]
  | .tab ts nf modes n se x0 nodes =>
    [(1, 7), (1, b2n ts), (1, 0),
     (2, ((List.range 1024).find? fun k => tableAt c ts (64 * k) == .tab ts nf modes n se x0 nodes).getD 0)]

def Core.readWrite (c : Core) (b : List Byte) : RegWrite × List Byte :=
  let r := readFields [1, 1, 1] b
  let n := r.1.getD 1 0
  let f := r.1.getD 2 0
  let one := fun (size : Nat) => let x := readFields [size] r.2; (x.1.getD 0 0, x.2)
  match r.1.getD 0 0 with
  | 0 => (.s n (BitVec.ofNat 64 (one 8).1) (f == 1), (one 8).2)
  | 1 => (.p n (f == 1), r.2)
  | 2 => (.q n (BitVec.ofNat 256 (one 32).1) (f == 1), (one 32).2)
  | 3 => (.qw n (BitVec.ofNat 2 f) (BitVec.ofNat 64 (one 8).1), (one 8).2)
  | 4 =>
    let x := readFields [32, 128] r.2
    (.v n (ofNibbles (x.1.getD 0 0)) (BitVec.ofNat 1024 (x.1.getD 1 0)) (BitVec.ofNat 4 f) (BitVec.ofNat 4 (f / 16)), x.2)
  | 5 => (.w n (BitVec.ofNat 128 (one 16).1), (one 16).2)
  | 6 => (.spr n (BitVec.ofNat 64 (one 8).1), (one 8).2)
  | _ => (tableAt c (n == 1) (64 * (one 2).1), (one 2).2)

/-- The results of task mode on their way, each with its remaining delay (R269). -/
def Core.replayBytes (c : Core) : List Byte :=
  let l := c.pend.filter fun p => !p.handler
  fields ((2, l.length) :: l.flatMap fun p => (2, p.delay) :: c.writeBytes p.w)

def Core.readReplay (c : Core) (b : List Byte) : List Pend :=
  let n := readFields [2] b
  (readMany (fun l => let d := readFields [2] l; let w := c.readWrite d.2; ((⟨false, d.1.getD 0 0, w.1, 0⟩ : Pend), w.2)) (n.1.getD 0 0) n.2).1

/-! ## Masks, tables, array registers, operations (0x0_4000) -/

def tableFields : Option FTable → List (Nat × Nat)
  | some t => [(1, 1), (1, t.nf), (1, t.modes), (2, t.n), (1, t.se), (4, t.x0)] ++ many 256 4 fun i => t.nodes.getD i 0
  | none => [(10, 0), (1024, 0)]

def readTable (b : List Byte) : Option FTable × List Byte :=
  let r := readFields ([1, 1, 1, 2, 1, 4] ++ List.replicate 256 4) b
  let v := fun k => r.1.getD k 0
  (if v 0 = 1 then some ⟨v 1, v 2, v 3, v 4, v 5, (r.1.drop 6).take (v 3)⟩ else none, r.2)

/-- Cycles an operation has run, of those it takes. -/
def elapsed (tick start total : Nat) : Nat := min (tick - start) total

/-- The pass image on a tile. -/
def Core.passOn (c : Core) (t : Nat) : Option Pass := c.passes.find? fun p => p.tile == t && !p.handler

/-- Where an image keeps the rows that an x.st has captured: 0 the tile, which still holds them; 1 + t the place of the pass image on tile t, on
which no pass is pending; none where there is no place (log entry 15). -/
def Core.stHolds (c : Core) (o : StOp) : Bool := o.rows == c.wholeTile o.mt && o.poison == c.wholeMarks o.mt
def Core.stPlace (c : Core) (arr : Bool) : Option Nat :=
  let free := (List.range 8).filter fun t => (c.passOn t).isNone
  let apart := fun (a : Bool) => (c.arr a).st.any fun o => !c.stHolds o
  if apart arr then (free[if arr && apart false then 1 else 0]?).map (· + 1) else some 0

/-- The registers of an array and what it has in flight, with the descriptors captured at issue; `place` is that of the rows of an x.st. -/
def Arr.opFields (a : Arr) (tick place : Nat) : List (Nat × Nat) :=
  [(1, a.rdrow), (1, a.rdcol), (2, (a.oscale % 4096).toNat), (2, a.occT.left), (1, b2n a.occT.dw), (1, b2n a.passDw + 2 * b2n a.passMul),
   (4, elapsed tick a.passStart a.passBeats), (4, a.passBeats), (2, a.passUnit), (32, a.passQ.toNat)] ++
  (match a.ldw with
   | some o => [(1, 1), (4, elapsed tick o.start (o.due - o.start)), (4, o.due - o.start), (1, b2n o.ws), (11, banksOf o.rows),
      (32, o.q.toNat)]
   | none => [(53, 0)]) ++
  (match a.st with
   | some o => [(1, 1), (4, elapsed tick o.start (o.due - o.start)), (4, o.due - o.start), (1, o.mt), (1, o.fmt.code.toNat), (1, o.rnd.code.toNat),
      (2, (o.osc % 4096).toNat), (32, o.q.toNat), (1, place)]
   | none => [(47, 0)])

/-- An array from those fields at a tick, with its planes; `held` gives the rows and marks a place holds, for a tile. -/
def readArr (tick seq : Nat) (active shadow : Plane) (held : Nat → Nat → SMap TileRow × SMap (BitVec 256)) (b : List Byte) : Arr × List Byte :=
  let r := readFields [1, 1, 2, 2, 1, 1, 4, 4, 2, 32, 1, 4, 4, 1, 11, 32, 1, 4, 4, 1, 1, 1, 2, 32, 1] b
  let v := fun k => r.1.getD k 0
  let h := held (v 24) (v 19)
  ({ active := active, shadow := shadow, rdrow := v 0, rdcol := v 1, oscale := signedOf 12 (v 2), occT := ⟨v 3, v 4 == 1⟩
     passDw := v 5 % 2 == 1, passMul := v 5 / 2 == 1, passStart := tick - v 6, passBeats := v 7, passUnit := v 8, passQ := BitVec.ofNat 256 (v 9)
     ldw := if v 10 = 1 then
       some ⟨shadow, tick - v 11, tick - v 11 + v 12, ((List.range 88).filter (v 14).testBit).map (· * 64), v 13 == 1, BitVec.ofNat 256 (v 15)⟩ else none
     st := if v 16 = 1 then
       some ⟨v 19, Fmt.ofCode (BitVec.ofNat 4 (v 20)), (Rnd.ofCode (BitVec.ofNat 3 (v 21))).getD .rne, signedOf 12 (v 22), BitVec.ofNat 256 (v 23), h.1, h.2,
         tick - v 17, tick - v 17 + v 18, seq⟩ else none }, r.2)

def Core.opsBytes (c : Core) : List Byte :=
  fields (((List.range 3).map fun i => (16, (c.regs.rw (i + 1)).toNat)) ++ tableFields c.ftab0 ++ tableFields c.ftab1 ++
    c.arr0.opFields c.tick ((c.stPlace false).getD 0) ++ c.arr1.opFields c.tick ((c.stPlace true).getD 0) ++ (List.range 8).flatMap fun t =>
      match c.passes.find? fun p => p.tile == t && !p.handler with
      | some p => [(1, 1 + 2 * b2n p.lead), (2, p.delay)]
      | none => [(3, 0)])

/-! ## Buffer table and landings (0x0_5000) -/

/-- An entry of the buffer table in the layout of R237. -/
def Handle.entry (h : Handle) : BitVec 128 :=
  let bound := fun (q : Option Nat) => match q with | some k => 16 + k | none => 0
  BitVec.ofNat 128 (h.row0 + 2 ^ 13 * h.rows + 2 ^ 26 * b2n h.ring + 2 ^ 27 * h.st + 2 ^ 29 * b2n h.wb + 2 ^ 30 * b2n h.land +
    2 ^ 32 * h.gen.toNat + 2 ^ 48 * h.isz + 2 ^ 64 * h.prod + 2 ^ 78 * h.cons + 2 ^ 92 * bound h.pq + 2 ^ 97 * bound h.cq + 2 ^ 102 * h.nfc)

def handleOf (x : BitVec 128) : Handle :=
  let f := fun lo n => (x.extractLsb' lo n).toNat
  let bound := fun (k : Nat) => if 16 ≤ k then some (k - 16) else none
  { row0 := f 0 13, rows := f 13 13, ring := x.getLsbD 26, st := f 27 2, wb := x.getLsbD 29, land := x.getLsbD 30, gen := x.extractLsb' 32 16
    isz := f 48 3, prod := f 64 14, cons := f 78 14, pq := bound (f 92 5), cq := bound (f 97 5), nfc := f 102 16 }

/-- A landing with the bitmap of its chunks. -/
def Landing.entry (l : Landing) : List (Nat × Nat) :=
  [(2, l.tag), (1, l.h), (1, b2n l.plane + 2 * b2n l.scales), (2, l.nr), (2, l.cpr), (2, l.chb), (4, l.doff), (4, l.soff), (2, l.scb), (2, l.tr),
   (512, flagsOf 4096 fun k => SMap.get false l.present k)]

def readLanding (b : List Byte) : Landing × List Byte :=
  let r := readFields [2, 1, 1, 2, 2, 2, 4, 4, 2, 2, 512] b
  let v := fun k => r.1.getD k 0
  (⟨v 0, v 1, (v 2).testBit 0, (v 2).testBit 1, v 3, v 4, v 5, v 6, v 7, v 8, v 9, tableOf false 4096 fun k => (v 10).testBit k, []⟩, r.2)

/-- The chunks of which some rows have come and not all: landing, chunk, rows. -/
def Core.partials (c : Core) : List (Nat × Nat × List Nat) :=
  (List.range c.lands.length).flatMap fun i => ((c.lands[i]?).map fun l => l.arrived.map fun e => (i, e.1, e.2)).getD []

/-- Chunks in part arrived that an image has room for: in the page of the tables, behind each plane, and in all. -/
def pagePartials : Nat := 64
def planePartials : Nat := 111
def partialRoom : Nat := pagePartials + 4 * planePartials

def partialFields (l : List (Nat × Nat × List Nat)) : List (Nat × Nat) :=
  (1, l.length) :: l.flatMap fun e => [(1, e.1), (2, e.2.1), (32, flagsOf 256 fun r => e.2.2.contains r)]
def readPartials (b : List Byte) : List (List Nat) :=
  let k := readFields [1] b
  (readMany (readFields [1, 2, 32]) (k.1.getD 0 0) k.2).1

def Core.tableBytes (c : Core) : List Byte :=
  fields (many 64 16 (fun h => (c.handle h).entry.toNat) ++ (1, c.lands.length) :: c.lands.flatMap Landing.entry ++
    partialFields (c.partials.take pagePartials))

/-- Those behind plane k. -/
def Core.partialRows (c : Core) (k : Nat) : List Row :=
  rowsIn 61 (fields (partialFields ((c.partials.drop (pagePartials + planePartials * k)).take planePartials)))

/-- The tables from their page, with the chunks in part arrived that stand elsewhere. -/
def Core.readTables (c : Core) (b : List Byte) (more : List (List Nat)) : Core :=
  let h := readFields (List.replicate 64 16) b
  let n := readFields [1] h.2
  let l := readMany readLanding (n.1.getD 0 0) n.2
  let parts := readPartials l.2 ++ more
  let lands := (List.range l.1.length).filterMap fun i => l.1[i]?.map fun x =>
    { x with arrived := (parts.filter fun e => e.getD 0 0 == i).map fun e => (e.getD 1 0, (List.range 256).filter (e.getD 2 0).testBit) }
  { c with handles := tableOf {} 64 fun i => handleOf (BitVec.ofNat 128 (h.1.getD i 0)), lands := lands }

/-! ## Engine queue and witness operation (0x0_7000) -/

/-- What marks, among the packets an e.coll has had, a reduction that has failed. -/
def collFailed : Nat := 48

/-- A reduction that waits for results (R407). -/
def Cmd.reduces (m : Cmd) : Bool :=
  match m.i, m.st with
  | .eColl .., .fabric _ => true
  | _, _ => false

/-- A command of the queue (R257), a reduction with the results it has had (R407). -/
def Cmd.entry (m : Cmd) : List (Nat × Nat) :=
  [(8, wordNat m.i), (32, m.qs.toNat), (32, m.qd.toNat), (8, m.a.toNat), (8, m.b.toNat), (8, m.c.toNat), (4, m.num),
   (1, b2n (m.st == .abandoned) + 2 * b2n m.handler + 4 * b2n m.poison + 8 * b2n m.told + 16 * b2n m.reduces + 32 * b2n (m.acked.contains collFailed)), (1, m.eng),
   (6, if m.reduces then flagsOf 48 m.acked.contains else 0), (1, m.taken.length)] ++ m.taken.map fun h => (1, h)

/-- A command read back: a reduction waits on for the results it has not had. -/
def readCmd (lid clock : Nat) (b : List Byte) : Cmd × List Byte :=
  let r := readFields [8, 32, 32, 8, 8, 8, 4, 1, 1, 6, 1] b
  let v := fun k => r.1.getD k 0
  let t := readFields (List.replicate (v 10) 1) r.2
  let w := fun k => BitVec.ofNat 64 (v k)
  let had := (List.range 48).filter (v 9).testBit ++ if (v 7).testBit 5 then [collFailed] else []
  let i := (decode (.w64 .e (w 0))).getD .nopGroup
  ({ id := 0, i := i, qs := BitVec.ofNat 256 (v 1), qd := BitVec.ofNat 256 (v 2), a := w 3, b := w 4, c := w 5
     handler := (v 7).testBit 1, taken := t.1, acked := had
     st := if (v 7).testBit 0 then .abandoned else if (v 7).testBit 4 then .fabric 0 else .queued, poison := (v 7).testBit 2, lid := lid
     num := v 6, eng := v 8, at_ := clock, told := (v 7).testBit 3 }, t.2)

/-- A witness form or v.adjb in flight (R236). -/
def WitOp.entry (w : WitOp) (tick : Nat) : List (Nat × Nat) :=
  [(4, wordNat w.i), (1, b2n w.handler), (1, match w.setWb with | some h => h + 1 | none => 0), (1, match w.free with | some h => h + 1 | none => 0),
   (1, w.sd), (8, w.sum.toNat), (4, elapsed tick w.start (w.due - w.start)), (4, w.due - w.start), (4, w.nout), (4, w.done),
   (8, w.a.toNat), (8, w.b.toNat), (8, w.lo.toNat), (8, w.hi.toNat), (1, w.back.length)] ++
    w.back.flatMap fun e => [(1, e.1), (1, e.2)]

/-- A witness form read back; its rows are computed again from its operand words (`Core.workOf`). -/
def readWit (tick : Nat) (b : List Byte) : WitOp :=
  let r := readFields [4, 1, 1, 1, 1, 8, 4, 4, 4, 4, 8, 8, 8, 8, 1] b
  let v := fun k => r.1.getD k 0
  let named := fun (k : Nat) => if k = 0 then none else some (k - 1)
  { i := (decode (.w32 .v (BitVec.ofNat 32 (v 0)))).getD .nopGroup, handler := v 1 == 1, setWb := named (v 2), free := named (v 3), writes := [], sd := v 4
    sum := BitVec.ofNat 64 (v 5), due := tick - v 6 + v 7, nout := v 8, done := v 9, start := tick - v 6
    a := BitVec.ofNat 64 (v 10), b := BitVec.ofNat 64 (v 11), lo := BitVec.ofNat 64 (v 12), hi := BitVec.ofNat 64 (v 13)
    back := (readMany (readFields [1, 1]) (v 14) r.2).1.map fun e => (e.getD 0 0, e.getD 1 0) }

/-- A fence that waits, at a place in program order. -/
def fenceAcc (id : Nat) (kind : FenceKind) (scope : Scope) (lid : Nat) : Acc :=
  { id := id, op := .fence kind, loc := .none, dst := .none, e := 0, acq := false, rel := false, ofl := false, scope := scope, ownL1 := false
    handler := false, sent := false, vaLine := 0, lid := lid }

/-- The fences that wait, each with the commands of the queue it stands behind: once every access is over it waits for these (R157). -/
def Core.fenceFields (c : Core) (l : List Cmd) : List (Nat × Nat) :=
  let f := c.accs.filterMap fun a => match a.op with | .fence k => some (a, k) | _ => none
  (1, f.length) :: f.flatMap fun e => [(1, (l.filter fun m => m.id < e.1.id).length), (1, e.2.code.toNat), (1, e.1.scope.code.toNat)]

def Core.queueBytes (c : Core) : List Byte :=
  let l := c.cmds.filter fun m => !m.old
  fields ((match c.wit with | some w => (1, 1) :: w.entry c.tick | none => [(1, 0)]) ++ (1, l.length) :: l.flatMap Cmd.entry ++ c.fenceFields l)

/-! ## Tiles, pass images, planes (0x0_8000) -/

/-- Row r of a tile as 32 rows of the image. -/
def tileRows (v : TileRow) : List Row := (List.range 32).map fun j => v.extractLsb' (512 * j) 512
def tileOfRows (row : Nat → Row) (i : Nat) : TileRow := BitVec.ofNat 16384 (leNat (bytesFrom row i 32))

/-- Value n of a plane, nine bits with its K index above: columns, groups, held values. -/
def Plane.cell (p : Plane) (n : Nat) : Nat :=
  let h := p.sp.held
  match ((SMap.get {} p.col (n / (16 * h))).groups[n / h % 16]?).bind fun g => g.vals[n % h]? with
  | some (k, x) => (x % 512).toNat + 512 * k
  | none => 0

/-- log2 v of group n of a plane, in twelve bits. -/
def Plane.unit (p : Plane) (n : Nat) : Nat :=
  match (SMap.get {} p.col (n / 16)).groups[n % 16]? with
  | some g => (g.lv % 4096).toNat
  | none => 0

/-- Poison marks of tile rows from row 16 t on, two to a row. -/
def markRows (get : Nat → BitVec 256) (t : Nat) : List Row := (List.range 16).map fun i => get (16 * t + 2 * i + 1) ++ get (16 * t + 2 * i)

/-- What stands in the place of the pass image on a tile: the image, or the rows an x.st has captured. -/
def Core.slotRows (c : Core) (t : Nat) : SMap TileRow × SMap (BitVec 256) :=
  match c.passOn t with
  | some p => (p.rows, p.poison)
  | none =>
    match [false, true].find? fun arr => (c.arr arr).st.isSome && c.stPlace arr == some (t + 1) with
    | some arr => (match (c.arr arr).st with | some o => (o.rows, o.poison) | none => ([], []))
    | none => ([], [])

/-- The plane an image holds: what a running x.ldw has loaded stands in the shadow plane. -/
def Arr.plane (a : Arr) (shadow : Bool) : Plane := if shadow then (match a.ldw with | some o => o.plane | none => a.shadow) else a.active

/-- The 160 KiB of a plane; with the marks of two tiles. -/
def Core.planeRows (c : Core) (arr shadow : Bool) : List Row :=
  let p := (c.arr arr).plane shadow
  let t := 4 * b2n arr + 2 * b2n shadow
  (List.range 1681).map (fieldRow 13 39 p.cell) ++ (List.range 781).map (fieldRow 12 42 p.unit) ++
    (List.range 4).map (fieldRow 1 512 fun k => b2n (SMap.get {} p.col k).poison) ++
    [rowOf (fields [(1, p.wid.code.toNat), (1, p.sp.code.toNat), (2, p.cols)])] ++ markRows (fun k => SMap.get 0 c.tilePoison k) t ++
    markRows (fun k => SMap.get 0 (c.slotRows (k / 16)).2 (k % 16)) t ++ c.partialRows (2 * b2n arr + b2n shadow)

/-- The first row of a plane in an image, of its marks of tiles and of passes. -/
def planeRow (arr shadow : Bool) : Nat := 8704 + 2560 * (2 * b2n arr + b2n shadow)

def planeOf (row : Nat → Row) : Plane :=
  let tag := readFields [1, 1, 2] (bytesOf (row 2466))
  let sp := Sparsity.ofCode (BitVec.ofNat 2 (tag.1.getD 1 0))
  let column := fun (k : Nat) => columnOf ((List.range 16).map fun g =>
    ⟨(List.range sp.held).map fun j => let x := rowField 13 39 row ((16 * k + g) * sp.held + j); (x / 512, signedOf 9 (x % 512)),
      signedOf 12 (rowField 12 42 (fun i => row (1681 + i)) (16 * k + g))⟩) (rowField 1 512 (fun i => row (2462 + i)) k == 1)
  { wid := (Wid.ofCode (BitVec.ofNat 2 (tag.1.getD 0 0))).getD .sw, sp := sp, cols := tag.1.getD 2 0
    col := tableOf {} (tag.1.getD 2 0) column }

/-- Mark k of tile rows, from the marks `at_` rows into the planes. -/
def markOf (row : Nat → Row) (at_ k : Nat) : BitVec 256 :=
  (row (planeRow (64 ≤ k) (32 ≤ k % 64) + at_ + k % 32 / 2)).extractLsb' (256 * (k % 2)) 256

/-! ## The image -/

/-- An x.st for whose rows the image has no place is finished first (log entry 15). -/
def Core.placed (c : Core) : Core :=
  [false, true].foldl (fun c arr =>
    match (c.arr arr).st with
    | some o => if (c.stPlace arr).isNone then (c.writeSpans o.writes).setArr arr { c.arr arr with st := none } else c
    | none => c) c

/-- The rows of a context image (R271). -/
def Core.imageRows (c : Core) (stop arms : Nat) : List Row :=
  let c := c.placed
  rowsIn 64 (c.headerBytes stop arms) ++ ((List.range 64).map fun i => halfOf (c.regs.rv (i / 2)) (i % 2 == 1)) ++ rowsIn 128 c.replayBytes ++
    rowsIn 64 c.opsBytes ++ rowsIn 128 c.tableBytes ++ rowsIn 64 c.queueBytes ++
    ((List.range 128).flatMap fun k => tileRows (SMap.get 0 c.tiles k)) ++
    ((List.range 128).flatMap fun k => tileRows (SMap.get 0 (c.slotRows (k / 16)).1 (k % 16))) ++
    c.planeRows false false ++ c.planeRows false true ++ c.planeRows true false ++ c.planeRows true true ++
    (List.range (64 * c.banks)).map c.row

/-- Units of 4 KiB an image of P banks takes (R271). -/
def ctxUnits (p : Nat) : Nat := 296 + p

/-- The cycles an operation of an image has run, the most of all: a core that takes it stands at least so far. -/
def imageAge (row : Nat → Row) : Nat :=
  let ops := bytesFrom row 256 64
  let arr := fun (o : Nat) =>
    let r := readFields [8, 4, 4, 2, 32, 1, 4, 48, 1, 4] (ops.drop (48 + 2068 + o))
    max (r.1.getD 1 0) (max (r.1.getD 6 0) (r.1.getD 9 0))
  max (max (arr 0) (arr 150)) ((readFields [9, 8, 4] (bytesFrom row 448 1)).1.getD 2 0)

/-- What a core keeps of itself when a context comes to it: its tick, its launch, its L1 and what it has of earlier programs. Its TLB is empty, the
counts of R337 are zero (R309, R338). -/
def Core.host (t : Core) (tick : Nat) : Core :=
  { run := .idle, spr := { lid := t.spr.lid }, seq := t.seq, l1 := t.l1, l1ptr := t.l1ptr, tick := tick, run_ := t.run_, lastWorld := t.lastWorld
    rowMap := t.rowMap, refresh := t.refresh, cmds := t.cmds, oldTabs := t.oldTabs }

/-- The context in an image, on a core (R269, R271, R273), with the arm-table entries it armed. -/
def Core.ofImage (t : Core) (clock : Nat) (k : TaskImage) (row : Nat → Row) : Core × Nat :=
  let tick := t.tick + imageAge row
  let r := ((t.host tick).loadTask k).readHeader (bytesFrom row 0 64)
  let c := r.1
  let ops := bytesFrom row 256 64
  let w := readFields [16, 16, 16] ops
  let f0 := readTable w.2
  let f1 := readTable f0.2
  let plane := fun (arr shadow : Bool) => planeOf fun i => row (planeRow arr shadow + i)
  let tiles := fun (base : Nat) => tableOf 0 128 fun k => tileOfRows row (base + 32 * k)
  let slot := fun (k : Nat) => (tableOf 0 16 fun j => tileOfRows row (4608 + 512 * k + 32 * j), tableOf 0 16 fun j => markOf row 2483 (16 * k + j))
  let held := fun (place mt : Nat) =>
    if place = 0 then (tableOf 0 16 fun j => tileOfRows row (512 + 512 * mt + 32 * j), tableOf 0 16 fun j => markOf row 2467 (16 * mt + j))
    else slot (place - 1)
  let a0 := readArr tick t.seq (plane false false) (plane false true) held f1.2
  let a1 := readArr tick t.seq (plane true false) (plane true true) held a0.2
  let ps := (readMany (readFields [1, 2]) 8 a1.2).1
  let passes := (List.range 8).filterMap fun k =>
    let e := ps.getD k []
    if (e.getD 0 0).testBit 0 then
      some ⟨k, (e.getD 0 0).testBit 1, false, e.getD 1 0, (slot k).1, (slot k).2⟩
    else none
  let q := bytesFrom row 448 64
  let has := readFields [1] q
  let wit := if has.1.getD 0 0 = 1 then some (readWit tick has.2) else none
  let rest := match wit with | some w => has.2.drop (65 + 2 * w.back.length) | none => has.2
  let n := readFields [1] rest
  let list := readMany (readCmd c.lid clock) (n.1.getD 0 0) n.2
  let cmds := list.1
  let nf := readFields [1] list.2
  let fences := (readMany (readFields [1, 1, 1]) (nf.1.getD 0 0) nf.2).1.map fun f =>
    fenceAcc (t.seq + 2 * f.getD 0 0) ((FenceKind.ofCode (BitVec.ofNat 2 (f.getD 1 0))).getD .full) ((Scope.ofCode (BitVec.ofNat 3 (f.getD 2 0))).getD .sys) c.lid
  let gets := cmds.findIdx? fun m => match m.i with | .eGet _ _ _ _ _ true => true | _ => false
  let numbered := (List.range cmds.length).filterMap fun i => cmds[i]?.map fun m =>
    { m with id := t.seq + 2 * i + 1, acked := if gets == some i then (List.range maxRows).filter (r.2.1).testBit else m.acked }
  let more := [0, 1, 2, 3].flatMap fun k => readPartials (bytesFrom row (planeRow (1 < k) (k % 2 == 1) + 2499) 61)
  let c := (({ c with
      regs := { c.regs with v := tableOf 0 32 (fun i => row (65 + 2 * i) ++ row (64 + 2 * i)), w := tableOf 0 4 fun i => if i = 0 then 0 else BitVec.ofNat 128 (w.1.getD (i - 1) 0) }
      pend := c.readReplay (bytesFrom row 128 128), ftab0 := f0.1, ftab1 := f1.1, arr0 := a0.1, arr1 := a1.1, passes := passes
      tiles := tiles 512, tilePoison := tableOf 0 128 (markOf row 2467), wit := wit, cmds := t.cmds.filter Cmd.old ++ numbered
      accs := fences, seq := t.seq + 2 * cmds.length + 1, sp := tableOf 0 (64 * c.banks) fun k => row (18944 + k) } : Core).readTables
        (bytesFrom row 320 128) more)
  ({ c with wit := c.wit.map fun w => { w with writes := c.workOf w } }, r.2.2)

/-! ## The gang image (R283) -/

/-- The bytes of a gang image. -/
def Cluster.gangBytes (c : Cluster) : List Byte :=
  fields (many 256 4 (fun f => SMap.get 0 c.flags f) ++
    ((List.range 32).flatMap fun e => match SMap.get none c.arms e with
      | some a => [(1, a.flag), (1, a.act), (1, 1), (1, 0), (4, a.t), (4, a.x), (4, a.stamp)]
      | none => [(16, 0)]) ++ [(4, c.stamp), (4, c.applied), (504, 0)])

/-- The flag file in a gang image; `core` gives the core that armed an entry. -/
def gangOf (core : Nat → Nat) (b : List Byte) : Cluster :=
  let f := readFields (List.replicate 256 4) b
  let a := readMany (readFields [1, 1, 1, 1, 4, 4, 4]) 32 f.2
  { flags := tableOf 0 256 fun i => f.1.getD i 0
    arms := tableOf none 32 fun e =>
      let v := a.1.getD e []
      if v.getD 2 0 = 1 then some ⟨v.getD 0 0, v.getD 4 0, v.getD 1 0, v.getD 5 0, v.getD 6 0, core e⟩ else none
    stamp := (readFields [4] a.2).1.getD 0 0 }

end Sys2Proof.Machine
end

