-- ==== Sys2Proof/Machine/Context.lean ====
section
/-! DEFINITION. Context images and the save engine, gang images, the halt of cores and engines (R213, R236, R257, R267 to R273, R283, R338). The bytes
of an image that R271 places without a layout: log entry 15. -/
namespace Sys2Proof.Machine

/-! ## The halt line at cores and engines -/

/-- The requests a command waits for are forgotten: an answer that still comes is discarded. -/
def State.forget (s : State) (n id : Nat) : State :=
  { s with fab := { s.fab with reqs := s.fab.reqs.filter fun e => match e.2 with
      | some r => (match r.src with | .cmd m i _ => !(m == n && i == id) | _ => true)
      | none => true } }

/-- A command of the copy or gather engines in progress. -/
def Cmd.onEngine (m : Cmd) : Bool :=
  (match m.st with | .running _ | .fabric _ | .held => true | _ => false) && (m.cpy.isSome || m.gath.isSome)

/-- A command goes back to its queue to be replayed whole (R257). -/
def Cmd.requeue (m : Cmd) : Cmd := { m with st := .queued, got := [], gotPoison := [] }

/-- Whether a command with arithmetic has read all it reads and applies its elements, a row a cycle (R250, R257). -/
def Core.inApply (c : Core) (m : Cmd) : Bool :=
  match m.st with
  | .running due =>
    (match m.cpy, m.gath with
     | some y, _ => y.dar != .none && due ≤ c.tick + (linesOf ((c.seen m).cpyDest y)).length
     | none, some y => y.dar != .none && due ≤ c.tick + y.count
     | none, none => false)
  | _ => false

/-- A command in progress stops (R257): in its apply it finishes, else it goes back to its queue to be replayed whole. -/
def State.stopCmd (s : State) (n : Nat) (m : Cmd) : State :=
  if (s.core n).inApply m then
    match m.cpy, m.gath with
    | some y, _ => s.finishCopy n m y
    | none, some y => s.finishGath n m y
    | none, none => s
  else (s.forget n m.id).modCore n fun c => c.modCmd m.id Cmd.requeue

/-- A fabric command that a save stops (R407): one that has sent nothing, a read, a reduction. The others' rows are on their way and are
acknowledged first. -/
def Cmd.parks (m : Cmd) : Bool :=
  engClass m.i == some 2 && match m.i, m.st with
    | .eColl .., .fabric _ | .eGet .., .fabric _ | _, .running _ => true
    | _, _ => false

/-- It goes back to its queue: rows a tile has answered stay written and are not asked for again; a reduction keeps what it has had (R407). -/
def State.parkCmd (s : State) (n : Nat) (m : Cmd) : State :=
  match m.i with
  | .eColl .. => s
  | .eGet _ _ _ _ _ true =>
    let r0 := (parseDesc m.qd).rowBase / 64
    (s.forget n m.id).modCore n fun c =>
      (c.putRows (m.got.map fun e => ⟨r0 + e.1, e.2, SMap.get false m.gotPoison e.1⟩)).modCmd m.id Cmd.requeue
  | _ => (s.forget n m.id).modCore n fun c => c.modCmd m.id fun k => { k.requeue with acked := [] }

/-- Only the first read with rows answered has a place in the image for them; the others ask for theirs again (log entry 15). -/
def Core.keepAcked (c : Core) : Core :=
  { c with cmds := (List.range c.cmds.length).filterMap fun i => c.cmds[i]?.map fun m =>
      if c.ackedCmd == some i || m.old || m.reduces then m else { m with acked := [] } }

/-- The commands in progress of a core that `which` names stop. -/
def State.stopCmds (s : State) (n : Nat) (which : Cmd → Bool) : State :=
  ((s.core n).cmds.filter fun m => m.onEngine && which m).foldl (fun s m => s.stopCmd n m) s

/-- Those of the fabric. -/
def State.parkCmds (s : State) (n : Nat) : State :=
  (((s.core n).cmds.filter fun m => !m.old && m.parks).foldl (fun s m => s.parkCmd n m) s).modCore n Core.keepAcked

/-- A core stops at a group boundary (R100, R213, R267, R270). -/
def State.stopCore (s : State) (n stop : Nat) (run : RunState) : State :=
  let s := s.modCore n fun c => { c.recordStop with run := run }
  match s.launch (s.core n).lid with
  | some l => s.stopRecord l (l.coreSlot (s.core n)) (s.coreRecord n stop false)
  | none => s

/-- CORE_HALT_STOP (R267, R268): a gated core is ungated first (R376); a core whose launch's line is raised stops in task mode; one that stopped by itself writes its record; a task
of a launch that has ended early is discarded (R344), in handler mode with the cause of its trap entry as its stop cause (log entry 90). -/
def execCoreHaltStop (core : Nat) (s : State) : Out :=
  let c := s.core core
  .next (match s.launch c.lid with
    | none => s
    | some l =>
      if c.run == .idle || c.run == .ended then s
      else if c.stopCause ≠ 0 then
        ((s.stopCore core (c.stopCause % 256) c.run).modCore core fun c => { c with stopCause := 0 }).lowerLine c.lid
      else if l.finished then
        (if c.run == .running then s.stopCore core (if c.handler then c.spr.cause.toNat % 256 else cHALT) .stopped else s).modCore core
          Core.endTask
      else if l.line && c.run == .running && !c.handler then
        (s.modCore core fun c => { c with gated := false, fwait := 0 }).stopCore core (l.stopOf c).1 (l.stopOf c).2
      else s)

/-- The physical number of an engine (R268). -/
def State.engineUnit (s : State) (cl e : Nat) : Nat := 3 * (9 * dieOf (clusterCore cl 0) + s.physCluster (clusterCore cl 0)) + e

/-- ENGINE_HALT_STOP (R257, R268): the engine of a halted launch's cluster gives up its command, but for a handler's (log entry 85), and
writes its record, once in a halt. -/
def execEngineHaltStop (cluster e : Nat) (s : State) : Out :=
  let ns := (List.range 8).map (clusterCore cluster)
  let c0 := s.core (clusterCore cluster 0)
  .next (match s.launch c0.lid with
    | none => s
    | some l =>
      if !l.line || 3 ≤ e || l.engRec.contains (l.engineSlot (c0.relCluster l.w) e) then s
      else
        let stops := fun (m : Cmd) => m.onEngine && m.eng == e && m.lid == l.lid && !m.handler
        let busy := ns.findSome? fun n => ((s.core n).cmds.findIdx? stops).map fun i => (n, i)
        let st := match busy with
          | some (n, i) => if ((s.core n).cmds[i]?).any fun m => (s.core n).inApply m then 2 else 1
          | none => 0
        let rec_ := leBytes 1 (if e = 2 then 3 else 2) ++ leBytes 1 (l.stopOf c0).1 ++ leBytes 2 (s.engineUnit cluster e) ++ leBytes 4 0 ++
          leBytes 8 c0.spr.cyc.toNat ++
          (match busy with
           | some (n, i) => leBytes 4 (s.unitOf n) ++ leBytes 4 i ++ leBytes 1 st ++ leBytes 39 0
           | none => leBytes 48 0)
        let slot := l.engineSlot (c0.relCluster l.w) e
        let s := (s.stopRecord l slot rec_).modLaunch l.lid fun l => { l with engRec := l.engRec ++ [slot] }
        ns.foldl (fun s n => s.stopCmds n stops) s)

/-! ## Saving and restoring a core (R271, R338) -/

/-- Whether a core is stopped with a task that can be saved. -/
def Core.halted (c : Core) : Bool := c.run == .stopped || c.run == .preempted

/-- Whether the traffic of a core and of its launch lets it be saved: no access of its own outstanding, nothing between scratchpads, no flag
held, no increment of the launch on its way, no command with rows on their way (R162, R271, R283, R338), and no more chunks in part
arrived than the image has room for. -/
def State.canSave (s : State) (n : Nat) : Bool :=
  let c := s.core n
  c.accsOver && decide (c.partials.length ≤ partialRoom) && !(c.cmds.any fun m => !m.old && match m.st with
      | .posting _ | .placed => true
      | .running _ | .fabric _ => !(m.cpy.isSome || m.gath.isSome || m.parks)
      | _ => false) &&
    s.cores.all fun e => !e.2.serves c.lid || (e.2.held.isEmpty && !e.2.accs.any fun a => match a.loc with
      | .core .. | .flags .. => true
      | _ => false)

/-- Every count of R337 of a launch is zero again (R338). -/
def State.zeroCounts (s : State) (lid : Nat) : State :=
  { s with cores := s.cores.map fun e => if e.2.serves lid then (e.1, { e.2 with sent := [], performed := [], classRR := [] }) else e }

/-- A core without a task whose banks the launch still holds (R273). -/
def Core.emptied (c : Core) : Core :=
  { run := .idle, spr := { tx := c.spr.tx, ty := c.spr.ty, lid := c.spr.lid, world := c.spr.world }, seq := c.seq, banks := c.banks
    owner := c.owner, sp := c.sp, spPoison := c.spPoison, l1ptr := c.l1ptr, tick := c.tick, run_ := c.run_, lastWorld := c.lastWorld
    rowMap := c.rowMap, cmds := c.cmds.filter Cmd.old, oldTabs := c.oldTabs }

/-- A core is made ready for its image: its L1 is written back and empty, its engine commands wait in their queue, the counts of the launch are
zero (R257, R271, R338). -/
def State.quiet (s : State) (n : Nat) : State :=
  ((((s.stopCmds n fun m => !m.old).parkCmds n).l1Empty n fun _ => true).zeroCounts (s.core n).lid).modCore n fun c =>
    { c with monitor := none, tlb := [], walk := none }

/-- The arm-table entries of its cluster that a core has armed, as bits. -/
def State.armsOf (s : State) (n : Nat) : Nat :=
  let t := s.cluster (clusterOf n)
  flagsOf 32 fun e => match SMap.get none t.arms e with | some a => a.core == n | none => false

/-- The context in an image comes to a core: its partition moves, its task's text is placed again from the loaded image under a new key, it
stands stopped (R43, R131, R273, R354, R367). Its value names the arm-table entries the context armed. -/
def State.putContext (s : State) (n : Nat) (row : Nat → Row) : State × Nat :=
  let p := (readFields [5, 1] (bytesOf (row 0))).1.getD 1 0
  let s := s.movePart n p
  let t := s.core n
  let l := s.launch t.lid
  let k := (l.bind fun l => s.taskOf l.img l.task).getD {}
  let r := t.ofImage s.clock k row
  ({ s.setCore n { r.1 with lastWorld := r.1.spr.world.toNat, sealKey := some (Config.freshKey s.freeCtr) } with freeCtr := s.freeCtr + 1 }, r.2)

/-! ## e.ctx (R272, R273) -/

/-- The checks of R272 after those of R88. -/
def ctxIssue (i : Instr) (h : BitVec 6) (es : Reg) (core : BitVec 3) : SlotFn := fun x s =>
  let c := x.core
  let a := c.regs.rs es.toNat
  s.checkedCmd x.n (firstTrap [
    trapIf (clusterCore (clusterOf x.n) core.toNat == x.n) cILLEGAL x.word,
    trapIf (a.toNat % 4096 != 0) cMISALIGN a.toNat,
    (c.usesBad [useWrite h.toNat false]).map fun k => (cHANDLE, BitVec.ofNat 64 k)]) i 0 0 a 0 0

/-- e.ctx.save. -/
def slotECtxSave (h : BitVec 6) (es : Reg) (core : BitVec 3) (units : BitVec 9) : SlotFn := ctxIssue (.eCtxSave h es core units) h es core
def execECtxSave (h : BitVec 6) (es : Reg) (core : BitVec 3) (units : BitVec 9) (s : State) : Out :=
  issueSolo (.eCtxSave h es core units) (slotECtxSave h es core units) s

/-- e.ctx.rest. -/
def slotECtxRest (h : BitVec 6) (es : Reg) (core : BitVec 3) (units : BitVec 9) : SlotFn := ctxIssue (.eCtxRest h es core units) h es core
def execECtxRest (h : BitVec 6) (es : Reg) (core : BitVec 3) (units : BitVec 9) (s : State) : Out :=
  issueSolo (.eCtxRest h es core units) (slotECtxRest h es core units) s

/-- The status word and the fault address in row 0 of the marker's buffer. -/
def State.ctxStatus (s : State) (n h status cause units rows fa : Nat) : State :=
  s.modCore n fun c => c.writeSpans [⟨(c.handle h).row0 * 64,
    leBytes 8 (status + 256 * cause + 65536 * units + 2 ^ 32 * rows) ++ leBytes 8 fa, false⟩]

/-- Virtual lines of an area. -/
def areaLines (va units : Nat) : List Nat := (List.range (64 * units)).map fun i => va / 64 + i

/-- Rows from a virtual address as spans. -/
def spansAt (va : Nat) (rows : List Row) : List SpanWrite := (List.range rows.length).map fun i => ⟨va + 64 * i, bytesOf (rows.getD i 0), false⟩

/-- Rows the save engine writes for a command: performed, or in the shadow of a paired launch signed and discarded (R287); how many wait. -/
def State.saveSpans (s : State) (n : Nat) (m : Cmd) (l : List SpanWrite) : State × Nat :=
  let s := if s.paired n then s.modCore n fun c => c.signRows m.num l else s
  if s.shadow n then (s, 0) else s.putSpansGlobal n m l

/-- The end of a save, once every row it wrote has its answer: a row refused aborts it and leaves the target as it was, else the target has no
task any more (R273). -/
def State.settleSave (s : State) (n : Nat) (m : Cmd) : State :=
  match m.i with
  | .eCtxSave h _ core _ =>
    let t := clusterCore (clusterOf n) core.toNat
    let c := s.core t
    let stop := if c.run == .preempted then cPREEMPT else cHALT
    (match ((s.core n).cmd m.id).bind Cmd.err with
     | some (fa, k) => s.ctxStatus n h.toNat 3 k (ctxUnits c.banks) ((fa - m.a.toNat) / 64) fa
     | none =>
       let s := match s.launch m.lid with
         | some l => s.stopRecord l (l.coreSlot c) (s.coreRecord t stop true)
         | none => s
       (s.modCore t Core.emptied).ctxStatus n h.toNat 0 0 (ctxUnits c.banks) 0 0)
  | _ => s

/-- The save engine on a command of core n that has started; unchanged while the target's traffic must still end. A row of the area that cannot be
written aborts the save, the rows before it being written. -/
def State.finishSave (s : State) (n : Nat) (m : Cmd) (h core units : Nat) : State :=
  let t := clusterCore (clusterOf n) core
  let c := s.core t
  let need := ctxUnits c.banks
  let a := m.a.toNat
  if units < need then (s.ctxStatus n h 1 0 need 0 0).placeCmd n m 0
  else if !c.halted || c.lid ≠ m.lid then (s.ctxStatus n h 2 0 need 0 0).placeCmd n m 0
  else if !s.canSave t then s
  else
    let stop := if c.run == .preempted then cPREEMPT else cHALT
    let bad := s.linesFault m.lid true (areaLines a need)
    let s := if bad.isNone then s.quiet t else s
    let rows := (s.core t).imageRows stop (s.armsOf t)
    let w := s.saveSpans n m (spansAt a (match bad with | some (_, fa) => rows.take ((fa - a) / 64) | none => rows))
    let s := w.1.modCore n fun c => c.modCmd m.id fun k => { k with err := bad.map fun e => (e.2, e.1) }
    (if w.2 = 0 then s.settleSave n m else s).placeCmd n m w.2

/-- Whether the first row of an image is one of this layout and of the world (R273). -/
def imageValid (row : Row) (world : Nat) : Bool :=
  let f := (readFields [4, 1, 1] (bytesOf row)).1
  f.getD 0 0 == 1 && f.getD 1 0 == world && decide (f.getD 2 0 ≤ 88)

/-- The restore of a context. A row that does not translate, is refused by another package, or is poisoned aborts it. -/
def State.finishRest (s : State) (n : Nat) (m : Cmd) (h core units : Nat) : State :=
  let t := clusterCore (clusterOf n) core
  let c := s.core t
  let a := m.a.toNat
  let world := s.worldOf m.lid
  let first := fun (l : List Nat) =>
    match s.linesFault m.lid false l, m.err with
    | some (k, fa), some (va, e) => if va < fa then some (e, va) else some (k, fa)
    | none, some (va, e) => if l.contains (va / 64) then some (e, va) else none
    | x, none => x
  match first [a / 64] with
  | some (k, fa) => (s.ctxStatus n h 3 k 0 0 fa).placeCmd n m 0
  | none =>
    let r := s.gatherLines n m [a / 64]
    let head := SMap.get 0 r.2.got (a / 64)
    let p := (readFields [5, 1] (bytesOf head)).1.getD 1 0
    let need := ctxUnits p
    if SMap.get false r.2.gotPoison (a / 64) then (r.1.ctxStatus n h 4 0 0 0 0).placeCmd n m 0
    else if !imageValid head world then (r.1.ctxStatus n h 5 0 need 0 0).placeCmd n m 0
    else if units < need then (r.1.ctxStatus n h 1 0 need 0 0).placeCmd n m 0
    else if (c.run != .idle && c.run != .ended) || c.lid ≠ m.lid then (r.1.ctxStatus n h 2 0 need 0 0).placeCmd n m 0
    else if !c.startReady world p 0 (4096 * p) then r.1
    else
      let bad := first (areaLines a need)
      let sound := match bad with | some (_, fa) => (fa - a) / 64 | none => 64 * need
      let g := s.gatherLines n m ((areaLines a need).take sound)
      match (List.range sound).find? fun i => SMap.get false g.2.gotPoison (a / 64 + i) with
      | some i => (g.1.ctxStatus n h 4 0 need i 0).placeCmd n m 0
      | none =>
        match bad with
        | some (k, fa) => (g.1.ctxStatus n h 3 k need sound fa).placeCmd n m 0
        | none =>
          let s := (g.1.putContext t fun i => SMap.get 0 g.2.got (a / 64 + i)).1
          let s := s.modCore t fun c => if c.run == .stopped && !s.lineOf m.lid then { c with run := .running } else c
          (s.ctxStatus n h 0 0 need 0 0).placeCmd n m 0

/-! ## Gangs (R283) -/

/-- Bytes one switched-out cluster takes in a pool: eight contexts of 88 banks and a gang image (log entry 15). -/
def gangArea : Nat := 8 * 0x180000 + 0x1000

/-- The first area of a pool that no switched-out cluster takes. -/
def State.freeArea (s : State) (pool : Nat) : Nat :=
  pool + gangArea * ((List.range (s.gangs.length + 1)).find? fun k => !s.gangs.any fun e => e.2 == pool + gangArea * k).getD 0

/-- Bytes written by the save engine for the scheduler, at a physical address. -/
def State.putPool (s : State) (lid pa : Nat) (rows : List Row) : State :=
  (List.range rows.length).foldl (fun s i => s.putGlobal lid (pa + 64 * i) (bytesOf (rows.getD i 0)) false false) s

/-- k rows read for the scheduler at a physical address, at their home slices; whether one is poisoned. -/
def State.readPool (s : State) (lid pa k : Nat) : State × SMap Row × Bool :=
  (List.range k).foldl (fun (acc : State × SMap Row × Bool) i =>
    let r := acc.1.homeRead (pa + 64 * i) 64 (acc.1.worldOf lid)
    (r.1, SMap.put 0 acc.2.1 i (BitVec.ofNat 512 r.2.1), acc.2.2 || r.2.2)) (s, [], false)

/-- Whether a cluster of a launch stands still and may be switched out; the context commands of its handlers came earlier (R284). -/
def State.canLeave (s : State) (lid cl : Nat) : Bool :=
  let ns := (List.range 8).map (clusterCore cl)
  ns.all (fun n => let c := s.core n; (c.halted || c.run == .ended || c.run == .idle) && c.stopCause == 0 && s.canSave n &&
    !c.cmds.any fun m => engClass m.i == some 3 && m.st != .abandoned) &&
    match s.launch lid with
    | some l => l.holds.all fun k => (s.cluster k).arrived.isEmpty && s.flagsMoving k == 0 && (s.cluster k).outbox.isEmpty
    | none => false

/-- The address of context k in the area of a switched-out cluster, of its gang image. -/
def ctxArea (pa k : Nat) : Nat := pa + 0x180000 * k
def gangImage (pa : Nat) : Nat := ctxArea pa 8

/-- A cluster is switched out into an area of a pool (R283): the images of its cores and of its flag file stand in memory, and increments for it
wait under a gang number. -/
def State.switchOut (s : State) (lid run rel pa : Nat) : State :=
  match s.launch lid with
  | none => s
  | some l =>
    let cl := (l.clusters.getD run []).getD rel 0
    let id := s.nextImg
    let s := { s with nextImg := id + 1 }
    let s := (List.range 8).foldl (fun s k =>
      let n := clusterCore cl k
      let s := s.quiet n
      let s := s.stopRecord l (l.coreSlot (s.core n)) (s.coreRecord n cPREEMPT true)
      let c := s.core n
      let s := s.putPool lid (ctxArea pa k) (c.imageRows cPREEMPT (s.armsOf n))
      s.setCore n { c.emptied with spr := {}, owner := c.owner.filter fun e => e.2 == .earlier }) s
    let t := s.cluster cl
    let s := s.putPool lid (gangImage pa) (rowsIn 32 t.gangBytes)
    let moved := fun (c : Core) => { c with accs := c.accs.map fun a => match a.loc with
      | .flags k f => if k = cl && c.lid == lid then { a with loc := .flags (64 + id) f } else a
      | _ => a }
    let s := (s.setCluster (64 + id) { out := true, arrived := t.arrived }).setCluster cl { drops := t.drops }
    { s with
      cores := s.cores.map fun e => (e.1, moved e.2)
      gangs := SMap.set s.gangs id pa
      launches := SMap.set s.launches lid (some { l with
        clusters := l.clusters.set run ((l.clusters.getD run []).set rel (64 + id)), leaving := l.leaving.erase (32 * run + rel) }) }

/-- The increments that came while a cluster was out are applied in order (R283). -/
def State.applyQueued (s : State) (cl : Nat) : List Increment → State
  | [] => s
  | i :: l =>
    let s := s.applyFlag cl i.flag i.amount
    let s := match i.src with | some (n, id) => s.endAcc n id | none => s
    let t := s.cluster cl
    (s.setCluster cl { t with applied := t.applied + 1 }).applyQueued cl l

/-- What still waits for room in the queue of a cluster that was out goes to the cluster: increments in the egress of cores, signals (R283). -/
def State.aimAgain (s : State) (old cl : Nat) : State :=
  let acc := fun (a : Acc) => match a.loc with | .flags k f => if k = old then { a with loc := Loc.flags cl f } else a | _ => a
  let s : State := { s with cores := s.cores.map fun (e : Nat × Core) => (e.1, { e.2 with accs := e.2.accs.map acc }) }
  let s := (s.cores.map Prod.fst).foldl (fun s n => s.egress n) s
  (s.clusters.map Prod.fst).foldl (fun s k =>
    let t := s.cluster k
    let mine := t.outbox.filter fun x => x.1 == old
    mine.foldl (fun s x => s.sendFlagOf k cl x.2.1 x.2.2)
      (s.setCluster k { t with outbox := t.outbox.filter fun x => x.1 != old })) s

/-- The eight contexts of a switched-out cluster come to the cores of a free one, with who armed each entry of its arm table: none where an
image is not sound. -/
def State.restoreCores (s : State) (l : Launch) (pa cl : Nat) : List Nat → Option (State × SMap Nat)
  | [] => some (s, [])
  | k :: ks =>
    let n := clusterCore cl k
    let r := s.readPool l.lid (ctxArea pa k) (64 * ctxUnits l.p)
    let row := fun i => SMap.get 0 r.2.1 i
    if r.2.2 || !imageValid (row 0) l.world then none
    else
      let s := if (r.1.core n).lastWorld ≠ l.world then r.1.scrubArray n else r.1
      let c := s.putContext n row
      (c.1.restoreCores l pa cl ks).map fun x =>
        (x.1, (List.range 32).foldl (fun t e => if c.2.testBit e then SMap.put 0 t e n else t) x.2)

/-- A switched-out cluster comes back on a free one (R283, R355): none where an image in the pool is not sound, and it is tried again. -/
def State.switchIn (s : State) (lid run rel cl : Nat) : Option State :=
  match s.launch lid with
  | none => some s
  | some l =>
    let old := (l.clusters.getD run []).getD rel 0
    let id := old - 64
    let pa := SMap.get 0 s.gangs id
    (s.restoreCores l pa cl (List.range 8)).bind fun r =>
      let g := r.1.readPool lid (gangImage pa) 32
      if g.2.2 then none
      else
        let s := g.1.modLaunch lid fun l => { l with clusters := l.clusters.set run ((l.clusters.getD run []).set rel cl) }
        let t := s.cluster old
        let s := { s with clusters := SMap.erase s.clusters old, gangs := SMap.erase s.gangs id }
        let s := s.setCluster cl { gangOf (fun e => SMap.get 0 r.2 e) (bytesFrom (fun i => SMap.get 0 g.2.1 i) 0 32) with drops := (s.cluster cl).drops }
        some ((s.applyQueued cl t.arrived).aimAgain old cl)

end Sys2Proof.Machine
end

