-- ==== Sys2Proof/Machine/Sha256.lean ====
section
/-! DEFINITION. SHA-256 (FIPS 180-4), which R38 names for the digests of an image and R39 for the hashes of its signature. Its constants are
worked out from what the standard says they are: fractions of roots of the first primes. -/
namespace Sys2Proof.Machine

/-- n bytes of a number, the most significant first; the number of such bytes. -/
def beBytes (n v : Nat) : List Byte := (List.range n).map fun i => BitVec.ofNat 8 (v / 2 ^ (8 * (n - 1 - i)))
def beNat (b : List Byte) : Nat := b.foldl (fun a x => a * 256 + x.toNat) 0

/-- The primes below 312: 64 of them. -/
def smallPrimes : List Nat := (List.range 312).filter fun n => 2 ≤ n && (List.range n).all fun d => d < 2 || n % d != 0

/-- The largest number whose k-th power is at most n: bits below `b` of it, given those above. -/
def rootFrom (k n : Nat) : Nat → Nat → Nat
  | 0, r => r
  | b + 1, r => rootFrom k n b (if (r + 2 ^ b) ^ k ≤ n then r + 2 ^ b else r)

/-- The first 32 bits of the fraction of the k-th root of a number below 2^18. -/
def rootFraction (k p : Nat) : BitVec 32 := BitVec.ofNat 32 (rootFrom k (p * 2 ^ (32 * k)) 41 0)

/-- The constants of the 64 rounds; the first values of the eight working words. -/
def shaCube : List (BitVec 32) := smallPrimes.map (rootFraction 3)
def shaSquare : List (BitVec 32) := (smallPrimes.take 8).map (rootFraction 2)

/-- The exclusive or of a word rotated right by each of two amounts, and of `last`. -/
def spin (x : BitVec 32) (i j : Nat) (last : BitVec 32) : BitVec 32 := x.rotateRight i ^^^ x.rotateRight j ^^^ last

/-- The word of the schedule that the sixteen before it, the last first, give. -/
def shaNext (w : List (BitVec 32)) : BitVec 32 :=
  let old := w.getD 14 0
  let new := w.getD 1 0
  w.getD 15 0 + w.getD 6 0 + spin old 7 18 (old.ushiftRight 3) + spin new 17 19 (new.ushiftRight 10)

/-- The working words after a round with a constant and a word of the schedule added up in `k`. -/
def shaTurn (k : BitVec 32) (v : List (BitVec 32)) : List (BitVec 32) :=
  let at_ := fun i => v.getD i 0
  let choice := at_ 6 ^^^ (at_ 4 &&& (at_ 5 ^^^ at_ 6))
  let most := (at_ 0 &&& at_ 1) ||| (at_ 2 &&& (at_ 0 ||| at_ 1))
  let sum := k + at_ 7 + choice + spin (at_ 4) 6 11 ((at_ 4).rotateRight 25)
  (sum + most + spin (at_ 0) 2 13 ((at_ 0).rotateRight 22)) :: v.take 3 ++ (at_ 3 + sum) :: (v.drop 4).take 3

/-- The rounds of a block: the schedule slides along as they go. -/
def shaRounds : List (BitVec 32) → List (BitVec 32) → List (BitVec 32) → List (BitVec 32)
  | [], _, v => v
  | k :: ks, w, v => shaRounds ks (shaNext w :: w.take 15) (shaTurn (k + w.getD 15 0) v)

/-- The chaining words after a block of 64 bytes. -/
def shaBlock (h : List (BitVec 32)) (b : List Byte) : List (BitVec 32) :=
  let w := (List.range 16).foldl (fun w i => BitVec.ofNat 32 (beNat ((b.drop (4 * i)).take 4)) :: w) []
  List.zipWith (· + ·) h (shaRounds shaCube w h)

def shaBlocks : Nat → List Byte → List (BitVec 32) → List (BitVec 32)
  | 0, _, h => h
  | n + 1, b, h => shaBlocks n (b.drop 64) (shaBlock h (b.take 64))

/-- The digest of a message, the first byte first. -/
def sha256Bytes (m : List Byte) : List Byte :=
  let b := m ++ [0x80#8] ++ List.replicate ((119 - m.length % 64) % 64) 0#8 ++ beBytes 8 (8 * m.length)
  (shaBlocks (b.length / 64) b shaSquare).flatMap fun w => beBytes 4 w.toNat

end Sys2Proof.Machine
end

