-- ==== Sys2Proof/Machine/Aes.lean ====
section
/-! DEFINITION. AES-256 (FIPS 197) with its modes GCM (NIST SP 800-38D), which R41 names for sealed sections, and key wrap with padding
(RFC 5649), which R366 names for keys. -/
namespace Sys2Proof.Machine

/-! ## The field of 2^8 elements -/

def xtime (a : Byte) : Byte := (a <<< 1) ^^^ (if a.getLsbD 7 then 0x1b#8 else 0#8)
def gfMul (a b : Byte) : Byte :=
  ((List.range 8).foldl (fun (s : Byte × Byte) i => (if b.getLsbD i then s.1 ^^^ s.2 else s.1, xtime s.2)) (0#8, a)).1

/-- The inverse, a to the power 254; of zero zero. -/
def gfInv (a : Byte) : Byte :=
  ((List.range 7).foldl (fun (s : Byte × Byte) _ => let q := gfMul s.2 s.2; (gfMul s.1 q, q)) (1#8, a)).1

def rol8 (x : Byte) (n : Nat) : Byte := (x <<< n) ||| (x >>> (8 - n))
def sbox (a : Byte) : Byte := let b := gfInv a; b ^^^ rol8 b 1 ^^^ rol8 b 2 ^^^ rol8 b 3 ^^^ rol8 b 4 ^^^ 0x63#8
def invSbox (a : Byte) : Byte := gfInv (rol8 a 1 ^^^ rol8 a 3 ^^^ rol8 a 6 ^^^ 0x05#8)

/-! ## AES-256 on blocks of 16 bytes, column by column -/

def xorBytes (a b : List Byte) : List Byte := List.zipWith (fun x y => x ^^^ y) a b

/-- n more words of the key schedule after word i - 1; the words stand last first. -/
def aesExtend : Nat → Nat → List (List Byte) → List (List Byte)
  | 0, _, w => w
  | n + 1, i, w =>
    let t := w.headD []
    let t :=
      if i % 8 = 0 then xorBytes ((t.drop 1 ++ t.take 1).map sbox) [(List.range (i / 8 - 1)).foldl (fun r _ => xtime r) 1#8, 0, 0, 0]
      else if i % 8 = 4 then t.map sbox else t
    aesExtend n (i + 1) (xorBytes (w.getD 7 []) t :: w)

/-- The round keys of a key of 32 bytes. -/
def aesKeys (key : List Byte) : List (List Byte) :=
  let w := (aesExtend 52 8 ((List.range 8).map fun i => (key.drop (4 * i)).take 4).reverse).reverse
  (List.range 15).map fun r => ((w.drop (4 * r)).take 4).flatten

def shiftRows (b : List Byte) : List Byte := (List.range 16).map fun i => b.getD (i % 4 + 4 * ((i / 4 + i % 4) % 4)) 0#8
def invShiftRows (b : List Byte) : List Byte := (List.range 16).map fun i => b.getD (i % 4 + 4 * ((i / 4 + 4 - i % 4) % 4)) 0#8

/-- Each column times the circulant matrix of a row. -/
def mixWith (row : List Byte) (b : List Byte) : List Byte :=
  (List.range 16).map fun i =>
    (List.range 4).foldl (fun s k => s ^^^ gfMul (row.getD ((k + 4 - i % 4) % 4) 0#8) (b.getD (4 * (i / 4) + k) 0#8)) 0#8
def mixColumns : List Byte → List Byte := mixWith [0x02, 0x03, 0x01, 0x01]
def invMixColumns : List Byte → List Byte := mixWith [0x0e, 0x0b, 0x0d, 0x09]

def aesEncrypt (key block : List Byte) : List Byte :=
  let ks := aesKeys key
  let k := fun r => ks.getD r []
  let s := (List.range 13).foldl (fun s r => xorBytes (mixColumns (shiftRows (s.map sbox))) (k (r + 1))) (xorBytes block (k 0))
  xorBytes (shiftRows (s.map sbox)) (k 14)

def aesDecrypt (key block : List Byte) : List Byte :=
  let ks := aesKeys key
  let k := fun r => ks.getD r []
  let s := (List.range 13).foldl (fun s r => invMixColumns (xorBytes ((invShiftRows s).map invSbox) (k (13 - r)))) (xorBytes block (k 14))
  xorBytes ((invShiftRows s).map invSbox) (k 0)

/-! ## GCM -/

/-- The product of GHASH; bit 0 of a block is its most significant. -/
def ghashMul (x y : BitVec 128) : BitVec 128 :=
  ((List.range 128).foldl (fun (s : BitVec 128 × BitVec 128) i =>
    (if x.getMsbD i then s.1 ^^^ s.2 else s.1, (s.2 >>> 1) ^^^ (if s.2.getLsbD 0 then 0xE1#128 <<< 120 else 0))) (0, y)).1

/-- Zero bytes up to a multiple of 16. -/
def pad16 (b : List Byte) : List Byte := b ++ List.replicate ((16 - b.length % 16) % 16) 0#8
def blocks16 (b : List Byte) : List (List Byte) := (List.range ((b.length + 15) / 16)).map fun i => (b.drop (16 * i)).take 16

def ghash (h : BitVec 128) (b : List Byte) : BitVec 128 :=
  (blocks16 b).foldl (fun y x => ghashMul (y ^^^ BitVec.ofNat 128 (beNat x)) h) 0

/-- The plaintext of a ciphertext under a nonce of 12 bytes, or none where the tag fails (R41). -/
def gcmOpen (key : BitVec 256) (nonce aad cipher tag : List Byte) : Option (List Byte) :=
  let k := beBytes 32 key.toNat
  let h := BitVec.ofNat 128 (beNat (aesEncrypt k (List.replicate 16 0#8)))
  let count := fun n => nonce ++ beBytes 4 n
  let s := ghash h (pad16 aad ++ pad16 cipher ++ beBytes 8 (8 * aad.length) ++ beBytes 8 (8 * cipher.length))
  let t := xorBytes (beBytes 16 s.toNat) (aesEncrypt k (count 1))
  if t = tag then
    let bs := blocks16 cipher
    some ((List.range bs.length).flatMap fun i => xorBytes (bs.getD i []) (aesEncrypt k (count (i + 2))))
  else none

/-! ## Key wrap with padding -/

/-- The 6n inverse steps on the check value and the semiblocks, from step t down. -/
def unwrapSteps (key : List Byte) (n : Nat) : Nat → List Byte × List (List Byte) → List Byte × List (List Byte)
  | 0, s => s
  | t + 1, (a, r) =>
    let i := t % n
    let b := aesDecrypt key (xorBytes a (beBytes 8 (t + 1)) ++ r.getD i [])
    unwrapSteps key n t (b.take 8, r.set i (b.drop 8))

/-- A key of 32 bytes unwrapped from 40 (R366): none where the check value is not that of RFC 5649 for its length. -/
def keyUnwrap (kek w : List Byte) : Option (BitVec 256) :=
  let r := unwrapSteps kek 4 24 (w.take 8, (List.range 4).map fun i => (w.drop (8 + 8 * i)).take 8)
  if r.1 = beBytes 4 0xA65959A6 ++ beBytes 4 32 then some (BitVec.ofNat 256 (beNat r.2.flatten)) else none

end Sys2Proof.Machine
end

