-- ==== Sys2Proof/Machine/Hss.lean ====
section
/-! DEFINITION. The verification of an HSS signature (RFC 8554) of two levels, each LMS_SHA256_M32_H10 with LMOTS_SHA256_N32_W4, which R39
names. A public key is 60 bytes, a signature 5,076. -/
namespace Sys2Proof.Machine

/-- Type codes of RFC 8554. -/
def lmotsType : Nat := 3
def lmsType : Nat := 6

/-- Digit i of 4 bits of a string. -/
def nibble (b : List Byte) (i : Nat) : Nat := let x := (b.getD (i / 2) 0#8).toNat; if i % 2 = 0 then x / 16 else x % 16

/-- A digest with its checksum appended. -/
def withChecksum (q : List Byte) : List Byte :=
  q ++ beBytes 2 ((((List.range 64).map fun i => 15 - nibble q i).sum) * 16)

/-- The chain of a digit from step `j` on, `n` steps. -/
def lmotsChain (pre : List Byte) : Nat → Nat → List Byte → List Byte
  | 0, _, x => x
  | n + 1, j, x => lmotsChain pre n (j + 1) (sha256Bytes (pre ++ beBytes 1 j ++ x))

/-- The public key that a one-time signature of 2,180 bytes over a message leads to; none of another type. -/
def lmotsKey (id : List Byte) (q : Nat) (sig msg : List Byte) : Option (List Byte) :=
  if beNat (sig.take 4) ≠ lmotsType then none
  else
    let iq := id ++ beBytes 4 q
    let d := withChecksum (sha256Bytes (iq ++ beBytes 2 0x8181 ++ (sig.drop 4).take 32 ++ msg))
    let z := (List.range 67).flatMap fun i =>
      lmotsChain (iq ++ beBytes 2 i) (15 - nibble d i) (nibble d i) ((sig.drop (36 + 32 * i)).take 32)
    some (sha256Bytes (iq ++ beBytes 2 0x8080 ++ z))

/-- The root that a leaf and its authentication path lead to. -/
def lmsRoot (id : List Byte) : Nat → List Byte → List Byte → List Byte
  | node, path, x =>
    (List.range 10).foldl (fun (acc : Nat × List Byte) i =>
      let p := (path.drop (32 * i)).take 32
      let up := id ++ beBytes 4 (acc.1 / 2) ++ beBytes 2 0x8383
      (acc.1 / 2, sha256Bytes (if acc.1 % 2 = 1 then up ++ p ++ acc.2 else up ++ acc.2 ++ p))) (node, x) |>.2

/-- Whether an LMS signature of 2,508 bytes over a message verifies under a public key of 56. -/
def lmsVerify (key msg sig : List Byte) : Bool :=
  let id := (key.drop 8).take 16
  let q := beNat (sig.take 4)
  let ots := (sig.drop 4).take 2180
  beNat (key.take 4) == lmsType && beNat ((key.drop 4).take 4) == lmotsType && beNat ((sig.drop 2184).take 4) == lmsType && q < 1024 &&
    (match lmotsKey id q ots msg with
     | some k => lmsRoot id (1024 + q) (sig.drop 2188) (sha256Bytes (id ++ beBytes 4 (1024 + q) ++ beBytes 2 0x8282 ++ k)) == key.drop 24
     | none => false)

/-- Whether a signature over a message verifies under a public key (R39). -/
def hssVerify (key msg sig : List Byte) : Bool :=
  let top := (sig.drop 4).take 2508
  let pub := (sig.drop 2512).take 56
  key.length == 60 && sig.length == 5076 && beNat (key.take 4) == 2 && beNat (sig.take 4) == 1 &&
    lmsVerify (key.drop 4) pub top && lmsVerify pub msg (sig.drop 2568)

/-- The signature index, 1,024 * q_top + q_bottom (R370). -/
def hssIndex (sig : List Byte) : Nat := 1024 * beNat ((sig.drop 4).take 4) + beNat ((sig.drop 2568).take 4)

end Sys2Proof.Machine
end

