-- ==== Sys2Proof/Machine/Sched.lean ====
section
/-! DEFINITION. The launch scheduler: acceptance of records, waits, dispatch, pre-emption, release, sistering, paired launches
(R286, R287, R323, R343, R344, R348 to R356). -/
namespace Sys2Proof.Machine

/-! ## Acceptance (R348, R350) -/

/-- The next LID is taken. -/
def State.takeLid (s : State) : State := { s with nextLid := if s.nextLid = 2 ^ 32 - 1 then 1 else s.nextLid + 1 }

/-- Whether the completion block of a record can be written. -/
def State.blockOk (s : State) (r : Rcd) : Bool :=
  r.done % 64 == 0 && (List.range r.blockLines).all fun i => (s.schedLoc r.world r.root (r.done + 64 * i) true).isSome

/-- Whether a wait word can be read. -/
def State.waitOk (s : State) (r : Rcd) (a : Nat) : Bool := a == 0 || (a % 8 == 0 && (s.schedLoc r.world r.root a false).isSome)

/-- Check 2. -/
def Rcd.fieldsOk (r : Rcd) : Bool :=
  r.flags < 32 && r.shape < 32 && r.dscope ≤ 5 &&
    (if r.fix then r.org < 32 && (r.rect (r.org % 4) (r.org / 4 % 8)).isSome else r.org == 0)

/-- Check 8. -/
def Rcd.taskFits (r : Rcd) (t : TaskImage) : Bool :=
  (t.spimg.isEmpty || t.spoff + t.spimg.length ≤ 4096 * r.p) && t.circuits.all fun c => c.fx < r.w && c.tx < r.w && c.fy < r.h && c.ty < r.h

/-- The reason of R350 for which a record is refused, none where it is taken. -/
def State.refusal (s : State) (r : Rcd) (byTask : Bool) : Option Nat :=
  let q := s.queue r.queue
  let t := s.taskOf r.img r.task
  if 360448 < r.sp then some 1
  else if !r.fieldsOk then some 2
  else if t.isNone then some 3
  else if r.world ≠ q.qworld || (match SMap.get none s.sec.images r.img with | some i => i.world != r.world | none => true) then some 4
  else if !s.waitOk r r.w0 || !s.waitOk r r.w1 || (r.done ≠ 0 && !s.blockOk r) then some 5
  else if !r.placeable fun c => !s.clusterOff c then some 6
  else if byTask && !q.qen then some 7
  else if (match t with | some t => !r.taskFits t | none => true) then some 8
  else none

/-- A refused record leaves END 5 and its reason, but where its block is what fails (R350); a DONE that is no line address has no header
row to write. -/
def State.refuse (s : State) (r : Rcd) (lid reason : Nat) : State :=
  if r.done % 64 = 0 ∧ (reason ≠ 5 ∨ s.blockOk r) then s.release r lid (statusWord 5 reason 0 lid) else s

/-- A record is given its LID, checked, and refused or queued. -/
def State.takeRecord (s : State) (rec_ : BitVec 1024) (byTask : Bool) : State :=
  let r := parseRcd rec_
  let lid := s.nextLid
  let s := s.takeLid
  let q := s.queue r.queue
  match s.refusal r byTask with
  | some k =>
    let s := s.refuse r lid k
    if k = 7 then s.setQueue r.queue { q with qdrop := true } else s
  | none =>
    s.setQueue r.queue { q with items := q.items ++
      [{ rcd := rec_, lid := lid, ep := r.prio, met0 := r.w0 == 0, met1 := r.w1 == 0 }] }

def Queue.full (q : Queue) : Bool := 64 ≤ q.items.length

/-- LPORT_WRITE (R348): one aligned write of 128 bytes posts a record; a disabled or full queue drops it. -/
def execLportWrite (bytes : List Byte) (s : State) : Out :=
  .next (if bytes.length = 128 then
      let rec_ : BitVec 1024 := BitVec.ofNat 1024 (leNat bytes)
      let k := (parseRcd rec_).queue
      let q := s.queue k
      if !q.qen || q.full then s.setQueue k { q with qdrop := true } else s.takeRecord rec_ false
    else s.lbadWrite)

/-- What a c.launch reads of its record: both rows with their marks, or a cause, or the lines it must first ask for. -/
inductive RecRead
  | got (s : State) (rec_ : BitVec 1024) (bad : Bool)
  | fault (cause : Nat)
  | ask (l : List Loc)

/-- The record at a location, read row by row as a load (R140, R291, R297, R321). -/
def State.readRec (s : State) (n : Nat) : Loc → RecRead
  | .mem pa sbit =>
    let wait := fun p => if sbit then s.lacksGrant (p / 64) false else s.waitsHost n (p / 64) false
    let l := [pa, pa + 64].filter wait
    if l.isEmpty then
      let r0 := s.readMem n pa 64 sbit
      let r1 := r0.1.readMem n (pa + 64) 64 sbit
      .got r1.1 (BitVec.ofNat 1024 (r0.2.1 + 2 ^ 512 * r1.2.1)) (r0.2.2 || r1.2.2)
    else .ask (l.map fun p => .mem p sbit)
  | .dev pa => .got s (BitVec.ofNat 1024 (s.devRead (pa - 2 ^ 48) 128)) false
  | .fab p pa =>
    let find := fun a => (s.core n).recs.find? fun r => r.pkg == p && r.pa == a
    (match find pa, find (pa + 64) with
     | some a, some b =>
       (match a.cause.orElse fun _ => b.cause, a.got, b.got with
        | some k, _, _ => .fault k
        | none, some x, some y => .got s (y.1 ++ x.1) (x.2 || y.2)
        | none, _, _ => .ask [.fab p pa, .fab p (pa + 64)])
     | _, _ => .ask [.fab p pa, .fab p (pa + 64)])
  | _ => .fault cWORLD

/-- c.launch (R351): a paired launch was turned away before issue (R288). The record is read once the task's own accesses are over, so that it
holds their stores (R145); the release it makes waits for everything earlier than its group; poisoned rows of the record raise POISON (R143). -/
def slotCLaunch (a : Reg) : SlotFn := fun x s =>
  let va := srcS x a
  let c := x.core
  globalAt x s va 128 false fun loc =>
    if !c.accsOver then .stall none
    else match s.readRec x.n loc with
    | .ask l => .ask l
    | .fault k => .trap k va 0
    | .got s rec_ bad =>
      let r := parseRcd rec_
      let q := s.queue r.queue
      if bad then .trap cPOISON (BitVec.ofNat 64 x.word) 0
      else if r.world ≠ c.spr.world.toNat then .trap cWORLD va 0
      else if c.cmds.any fun m => m.st != .abandoned && !m.old then .stall none
      else if q.qen && q.full then .stall none
      else .ok (s.takeRecord rec_ true) .fall
def execCLaunch (g : Guard) (a : Reg) (s : State) : Out := issueSolo (.cLaunch g a) (slotCLaunch a) s

/-! ## Waits (R343) -/

/-- The head of a queue. -/
def Queue.head (q : Queue) : Option QItem := q.items.head?

def QItem.ready (i : QItem) : Bool := i.resume || (i.met0 && i.met1)

/-- Wait k of a record: its address and its sequence. -/
def Rcd.waitWord (r : Rcd) (k : Nat) : Nat × Nat := if k = 0 then (r.w0, r.q0) else (r.w1, r.q1)

def QItem.met (i : QItem) (k : Nat) : Bool := if k = 0 then i.met0 else i.met1

/-- A wait of the head of a queue is met. -/
def State.meetWait (s : State) (queue lid k : Nat) : State :=
  let q := s.queue queue
  s.setQueue queue { q with items := q.items.map fun i =>
    if i.lid = lid then (if k = 0 then { i with met0 := true } else { i with met1 := true }) else i }

/-- Records that reach the head of a queue are checked once more and leave it refused where a check now fails (R350). -/
def State.checkHead (s : State) (queue : Nat) : Nat → State
  | 0 => s
  | fuel + 1 =>
    let q := s.queue queue
    match q.head with
    | none => s
    | some i =>
      match (if i.resume then none else s.refusal (parseRcd i.rcd) false) with
      | none => s
      | some k => ((s.setQueue queue { q with items := q.items.drop 1 }).refuse (parseRcd i.rcd) i.lid k).checkHead queue fuel

/-- The head of a queue leaves it; the record behind it reaches the head. -/
def State.dropHead (s : State) (queue : Nat) : State :=
  let q := s.queue queue
  (s.setQueue queue { q with items := q.items.drop 1 }).checkHead queue 65

/-- The head of a queue leaves it refused. -/
def State.refuseHead (s : State) (queue : Nat) (i : QItem) (reason : Nat) : State :=
  (s.dropHead queue).refuse (parseRcd i.rcd) i.lid reason

/-- Whether the scheduler has asked another package for a wait word. -/
def State.asked (s : State) (queue lid k : Nat) : Bool :=
  s.fab.reqs.any fun e => match e.2 with | some r => r.src == .wait queue lid k | none => false

/-- One wait word read again. -/
def State.recheck (s : State) (queue k : Nat) : State :=
  match (s.queue queue).head with
  | none => s
  | some i =>
    if i.ready || i.met k then s
    else
      let r := parseRcd i.rcd
      let w := r.waitWord k
      let s := s.walkReads r.world r.root [w.1]
      match s.schedLoc r.world r.root w.1 false with
      | some (.mem pa _) =>
        let x := s.homeRead pa 8 r.world
        if w.2 ≤ x.2.1 then x.1.meetWait queue i.lid k else x.1
      | some (.fab p pa) => if s.asked queue i.lid k then s else s.request r.world p i.lid (.wait queue i.lid k) (readReq pa 8)
      | _ => s.refuseHead queue i 5

/-- LAUNCH_WAIT_RECHECK (R343). -/
def execLaunchWaitRecheck (queue : Nat) (s : State) : Out := .next ((s.recheck queue 0).recheck queue 1)

/-! ## Dispatch (R352 to R355) -/

/-- The queues whose head is ready, by effective priority and from the round-robin pointer on. -/
def State.readyQueues (s : State) : List Nat :=
  let order := (List.range 32).map fun i => (s.rrq + i) % 32
  let ep := fun q => match (s.queue q).head with | some i => if i.ready then some i.ep else none | none => none
  (List.range 8).flatMap fun k => order.filter fun q => ep q == some (7 - k)

/-- The other ready heads have been passed over once more (R352). -/
def State.age (s : State) (served : Nat) : State :=
  (List.range 32).foldl (fun s q =>
    let x := s.queue q
    match x.items with
    | i :: l =>
      if q ≠ served ∧ i.ready then
        let i := if i.pass = 63 then { i with pass := 0, ep := min 7 (i.ep + 1) } else { i with pass := i.pass + 1 }
        s.setQueue q { x with items := i :: l }
      else s
    | [] => s) s

/-- The head of a queue leaves it to be dispatched: the pointer moves past the queue. -/
def State.popHead (s : State) (q : Nat) : State := ({ s.dropHead q with rrq := (q + 1) % 32 }).age q

/-- A launch placed on its clusters (R354). -/
def State.placeLaunch (s : State) (i : QItem) (clusters : List (List Nat)) : State :=
  let r := parseRcd i.rcd
  let l : Launch := { lid := i.lid, queue := r.queue, world := r.world, root := r.root, w := r.w, h := r.h, p := r.p, line := false
                      clusters := clusters, rcd := i.rcd, img := r.img, task := r.task, ep := i.ep, order := s.dispatches }
  let s := ({ s.setLaunch l with dispatches := s.dispatches + 1 }).awaitAll l
  (s.loadMartens l).tryStart i.lid

/-- The switched-out clusters of a launch: run and launch-relative number. -/
def Launch.outs (l : Launch) : List (Nat × Nat) :=
  l.runs.flatMap fun r => ((List.range (l.clusters.getD r []).length).filter fun k => 32 ≤ (l.clusters.getD r []).getD k 0).map fun k => (r, k)

/-- The clusters of a launch that come back are restored together, once no earlier program holds a bank of theirs (R131 to R133, R355). -/
def State.tryResume (s : State) (lid : Nat) : State :=
  match s.launch lid with
  | none => s
  | some l =>
    let cores := l.incoming.flatMap fun e => (List.range 8).map (clusterCore e.2.2)
    if l.incoming.isEmpty || !(cores.all fun n => (s.core n).startReady l.world l.p 0 (4096 * l.p)) then s
    else
      match l.incoming.foldl (fun r e => r.bind fun s => s.switchIn lid e.1 e.2.1 e.2.2) (some (s.clearCircuits lid)) with
      | some s => ((s.modLaunch lid fun l => { l with incoming := [], preempted := false }).loadCircuits lid).lowerLine lid
      | none => s

/-- A pre-empted launch comes back on free clusters with the priority it is dispatched with: none where too few are free (R352, R355). -/
def State.resumeLaunch (s : State) (lid ep : Nat) : Option State :=
  match s.launch lid with
  | none => none
  | some l =>
    let outs := l.outs
    let free := ((List.range 32).filter s.clusterFree).take outs.length
    if free.length < outs.length then none
    else
      let inc := (List.range outs.length).map fun i => ((outs.getD i (0, 0)).1, (outs.getD i (0, 0)).2, free.getD i 0)
      let s := inc.foldl (fun s e => (List.range 8).foldl (fun s k =>
        s.modCore (clusterCore e.2.2 k) fun c => c.await lid l.queue e.1 (e.2.1 % (l.w / 4) * 4 + k % 4) (e.2.1 / (l.w / 4) * 2 + k / 4)) s) s
      let s := s.modLaunch lid fun l => { l with order := s.dispatches, ep := ep, incoming := inc }
      let s := { s with dispatches := s.dispatches + 1 }
      some (if outs.isEmpty then (s.modLaunch lid fun l => { l with preempted := false }).lowerLine lid else s.tryResume lid)

/-- The launches whose cores wait try to start, or to come back, once more (R353 to R355). -/
def State.retryStarts (s : State) : State :=
  (s.launches.filterMap Prod.snd).foldl (fun s l => if l.incoming.isEmpty then s.tryStart l.lid else s.tryResume l.lid) s

/-- Whether the image of a launch carries MCORE. -/
def State.wantsMartens (s : State) (img : Nat) : Bool :=
  match SMap.get none s.sec.images img with | some i => i.hasMcore | none => false

/-- The running launches a head of priority `ep` may pre-empt: in ascending EP, the latest dispatched first (R355). -/
def State.victims (s : State) (ep : Nat) : List Launch :=
  let l := s.launches.filterMap fun e => e.2.filter fun l => l.ep < ep && !l.finished && !l.released && !l.preempted && l.leaving.isEmpty
  let ins := fun (x : Launch) (acc : List Launch) =>
    acc.takeWhile (fun y => y.ep < x.ep || (y.ep == x.ep && x.order < y.order)) ++ x ::
      acc.dropWhile fun y => y.ep < x.ep || (y.ep == x.ep && x.order < y.order)
  l.foldr ins []

/-- The clusters that a head takes from the first victims that suffice, and these: `need` says what placing it takes of clusters that are free
or held by them. -/
def State.preemptPlan (s : State) (need : List Nat → Option (List Nat)) (vs : List Launch) : Option (List Nat × List Launch) :=
  (List.range vs.length).findSome? fun k =>
    let held := ((vs.take (k + 1)).flatMap Launch.holds).filter fun c => !s.clusterOff c
    (need held).map fun cs => (cs.filter held.contains, vs.take (k + 1))

/-- What a record not yet placed needs, and a pre-empted launch of n clusters switched out. -/
def State.needsPlaces (s : State) (r : Rcd) (held : List Nat) : Option (List Nat) :=
  (r.places fun c => s.clusterFree c || held.contains c).map List.flatten
def State.needsClusters (s : State) (n : Nat) (held : List Nat) : Option (List Nat) :=
  let free := (List.range 32).filter s.clusterFree
  if n ≤ free.length + held.length then some (free ++ held.take (n - free.length)) else none

/-- A pre-empted launch stands in its queue's place again (R355). -/
def State.requeue (s : State) (l : Launch) : State :=
  let q := s.queue l.queue
  s.setQueue l.queue { q with items := { rcd := l.rcd, lid := l.lid, ep := l.ep, met0 := true, met1 := true, resume := true } :: q.items }

/-- A victim's line rises and its chosen clusters are to be switched out; one of which none is chosen is a candidate again at once. -/
def State.beginPreempt (s : State) (head pool : Nat) (chosen : List Nat) (v : Launch) : State :=
  let keys := v.runs.flatMap fun r =>
    ((List.range (v.clusters.getD r []).length).filter fun k => chosen.contains ((v.clusters.getD r []).getD k 0)).map fun k => 32 * r + k
  let s := s.modLaunch v.lid fun l => { l with line := true, preempted := true, leaving := keys, pool := pool, forHead := head }
  if keys.isEmpty then s.requeue v else s

/-- Whether a pre-emption for a head is under way. -/
def State.preempting (s : State) (head : Nat) : Bool :=
  s.launches.any fun e => match e.2 with | some l => l.forHead == head && !l.leaving.isEmpty | none => false

/-- Whether a pool has room for n more clusters: the areas they would take, after those of clusters that still leave for it, lie in memory (R355;
log entry 15). -/
def State.poolRoom (s : State) (pool n : Nat) : Bool :=
  let more := n + (s.launches.map fun e => match e.2 with | some l => if l.pool = pool then l.leaving.length else 0 | none => 0).sum
  let areas := ((List.range (s.gangs.length + more)).map fun k => pool + gangArea * k).filter fun a => !s.gangs.any fun e => e.2 == a
  (areas.take more).all fun a => populated a && populated (a + gangArea - 1) && a / 2 ^ 36 == (a + gangArea - 1) / 2 ^ 36

/-- A head that finds no place pre-empts, where it may (R355): none where it goes on waiting. -/
def State.preemptFor (s : State) (i : QItem) (pool : Nat) (need : List Nat → Option (List Nat)) : Option State :=
  if pool = 0 || s.preempting i.lid then none
  else match s.preemptPlan need (s.victims i.ep) with
    | some (chosen, vs) =>
      if s.poolRoom pool chosen.length then some (vs.foldl (fun s v => s.beginPreempt i.lid pool chosen v) s) else none
    | none => none

/-- The third run of a paired launch is placed on free clusters, the launches of the heads that stay being passed over (R287). -/
def State.thirdRun (s : State) (lid : Nat) : Option State :=
  match s.launch lid with
  | none => none
  | some l =>
    ((parseRcd l.rcd).place s.clusterFree).map fun cs =>
      let l := { l with clusters := l.clusters ++ [cs], finished := false, third := false, order := s.dispatches }
      let s := ({ s.setLaunch l with dispatches := s.dispatches + 1 }.age 32).awaitAll l
      s.tryStart l.lid

/-- The launches with a third run to place whose priority a head of priority `ep` does not exceed (R287). -/
def State.thirds (s : State) (ep : Nat) : List Nat :=
  s.launches.filterMap fun e => match e.2 with | some l => if l.third && ep ≤ l.ep then some l.lid else none | none => none

/-- One dispatch decision over the ready queues in order (R352): before a head come the third runs of equal or higher priority. -/
def State.decide_ (s : State) : List Nat → State
  | [] => ((s.thirds 0).findSome? s.thirdRun).getD s
  | q :: qs =>
    let ep := match (s.queue q).head with | some i => i.ep | none => 8
    match (s.thirds ep).findSome? s.thirdRun with
    | some t => t
    | none =>
    match (s.queue q).head with
    | none => s.decide_ qs
    | some i =>
      if i.resume then
        match (s.popHead q).resumeLaunch i.lid i.ep with
        | some s' => s'
        | none =>
          let n := match s.launch i.lid with | some l => l.outs.length | none => 0
          match s.preemptFor i (s.queue q).qsave (s.needsClusters n) with
          | some s' => s'
          | none => s.decide_ qs
      else
        let r := parseRcd i.rcd
        match s.refusal r false with
        | some k => s.refuseHead q i k
        | none =>
          let mc := !s.wantsMartens r.img || s.slotsFree
          match r.places s.clusterFree with
          | some cs => if mc then (s.popHead q).placeLaunch i cs else s.decide_ qs
          | none =>
            match (if mc then s.preemptFor i (s.queue q).qsave (s.needsPlaces r) else none) with
            | some s' => s'
            | none => s.decide_ qs

/-- The clusters of a pre-empted launch that stand still are switched out; after the last it is a ready candidate again (R355). -/
def State.drainVictim (s : State) (l : Launch) : State :=
  let s := l.leaving.foldl (fun s key =>
    let cl := (l.clusters.getD (key / 32) []).getD (key % 32) 0
    if s.canLeave l.lid cl then s.switchOut l.lid (key / 32) (key % 32) (s.freeArea l.pool) else s) s
  match s.launch l.lid with
  | some l' =>
    if l'.leaving.isEmpty && !l.leaving.isEmpty && !l'.finished then
      s.requeue l
    else s
  | none => s

/-- The program of a slot is gone: events queued for it go to the firmware in order, those that waited for a k.eack among them, but not those of
its timers and steps (R412, R424). -/
def State.dropProgram (s : State) (m k : Nat) : State :=
  let x := s.marten m k
  let s := { s with martens := SMap.erase s.martens (4 * m + k) }
  ((x.queue ++ x.locks.filterMap Prod.snd ++ x.held).filter fun e => e.type != 8 && e.type != 9).foldl (fun s e => s.modMarten m 0 fun y => y.post e) s

/-- The programs of a launch that has ended are gone: their steps unwritten, the reduction slots they armed freed with the contributions that
wait for one (R409, R412, R433). -/
def State.endPrograms (s : State) (lid : Nat) : State :=
  let mine := (s.martens.filter fun e => e.2.lid == lid && e.1 % 4 != 0).map Prod.fst
  let s := mine.foldl (fun s k => s.dropProgram (k / 4) (k % 4)) s
  { s with fab := { s.fab with
      slots := s.fab.slots.filter fun e => (match e.2 with | some r => r.lid != lid | none => true)
      epochs := s.fab.epochs.filter fun e => (match e.2 with | some r => r.2 != lid | none => true)
      tens := s.fab.tens.filter fun t => !(t.held && t.lid == lid) } }

/-- The launches that have ended and whose programs still stand in their slots. -/
def State.endedPrograms (s : State) : List Nat := ((s.martens.filter fun e => e.1 % 4 != 0 && s.programOver e.2).map fun e => e.2.lid).eraseDups

/-- LAUNCH_DISPATCH (R352): what pre-emption and the start of a launch wait for goes on, slots of ended programs are freed; then one decision. -/
def execLaunchDispatch (s : State) : Out :=
  let s := (s.endedPrograms.foldl State.endPrograms s).retryStarts
  let s := (s.launches.filterMap Prod.snd).foldl (fun s l => if l.leaving.isEmpty then s else s.drainVictim l) s
  .next (s.decide_ s.readyQueues)

/-! ## Release (R287, R323, R353, R356) -/

/-- Whether every task of a launch has ended. -/
def State.allEnded (s : State) (l : Launch) : Bool :=
  l.finished && l.cores.all fun n => let c := s.core n; c.lid != l.lid || c.run == .ended || c.run == .idle

/-- A command that keeps a cluster from being free (R353): one that targets a scratchpad, a landing, a flag file, an arm table or a barrier
of another core, or another core's context. -/
def Cmd.keeps (m : Cmd) : Bool :=
  m.st != .abandoned &&
    (match m.i with
     | .ePut _ _ _ _ _ _ dest be _ => dest != .gva || be
     | .eGet _ _ _ _ _ rsp => rsp
     | .ePutLand .. | .eMcast .. | .eSig .. | .eCtxSave .. | .eCtxRest .. => true
     | _ => false)

/-- An access that keeps a cluster from being free (R353). -/
def Acc.keeps (a : Acc) (n : Nat) : Bool :=
  match a.loc with
  | .core m _ => m != n
  | .flags .. | .barrier _ => true
  | _ => false

/-- Whether the operations of a launch on units other than their own core have performed. -/
def State.remoteDone (s : State) (l : Launch) : Bool :=
  l.cores.all (fun n =>
    let c := s.core n
    c.lid != l.lid || (!c.accs.any (fun a => a.keeps n) && c.held.isEmpty &&
      !c.cmds.any fun m => !m.old && (m.keeps || (l.rcd.getLsbD 24 && m.st != .abandoned)))) &&
    l.holds.all fun k => (s.cluster k).arrived.isEmpty && s.flagsMoving k == 0 && (s.cluster k).outbox.isEmpty

/-- A core is left by its launch: its commands go on as those of an earlier program, which keep their banks (R111, R353). -/
def Core.leave (c : Core) : Core :=
  let c := { c with text := [], ctab := [], marks := [], sent := [], performed := [], classRR := [], cmds := (c.cmds.filter fun (m : Cmd) => m.st != CmdState.abandoned).map fun (m : Cmd) => { m with old := true } }
  let one := fun (e : Nat × BankOwner) => (e.1, if e.2 != .none && c.bankHeld e.1 then BankOwner.earlier else .none)
  { c with
    run := .idle, sealKey := none, owner := (c.owner.map one).filter fun e => e.2 != .none
    oldTabs := if c.cmds.any fun m => m.lid == c.lid then SMap.set c.oldTabs c.lid c.handles else c.oldTabs }

/-- The signature of a run: XOR of the store parts, sum of the engine parts (R287). -/
def State.runSig (s : State) (l : Launch) (run : Nat) : Word × Word :=
  l.tiles.foldl (fun acc t =>
    let c := s.core (l.coreAt run t.1 t.2)
    (acc.1 ^^^ (crcEnd c.pairCrc).setWidth 64, acc.2 + c.pairSum)) (0, 0)

/-- Run r's signature among those kept. -/
def Launch.sig (l : Launch) (run : Nat) : Option (Word × Word) :=
  match l.sigs.find? (fun e => e.1 == run), l.sigs.find? (fun e => e.1 == run + 16) with
  | some a, some b => some (a.2, b.2)
  | _, _ => none

/-- The signatures of the runs that have ended are kept. -/
def State.keepSigs (s : State) (l : Launch) : Launch :=
  { l with sigs := l.sigs ++ l.runs.flatMap fun r => let g := s.runSig l r; [(r, g.1), (r + 16, g.2)] }

/-- The outcome of a paired launch: none while a third run is called for (R287). A third run that ends early agrees with no run (log entry 98). -/
def Launch.outcome (l : Launch) : Option Nat :=
  if l.clusters.length = 3 then
    some (if l.endc ≠ 0 then 2 else if l.sig 2 = l.sig 1 then 1 else if l.sig 2 = l.sig 0 then 3 else 2)
  else if l.endc ≠ 0 ∨ l.sig 0 = l.sig 1 then some 0 else none

/-- The cores of a launch are left, its slot tables cleared. -/
def State.leaveAll (s : State) (l : Launch) : State :=
  (l.cores.foldl (fun s n => s.modCore n fun c => if c.lid = l.lid then c.leave else c) s).clearCircuits l.lid

/-- CLUSTER_RELEASE (R353, R356): the clusters of an ended launch become free; the runs of a paired launch are compared first (R287). -/
def execClusterRelease (lid : Nat) (s : State) : Out :=
  .next (match s.launch lid with
    | none => s
    | some l =>
      if l.released || l.third || !s.allEnded l || !s.remoteDone l then s
      else if l.rcd.getLsbD 24 then
        let l := s.keepSigs l
        let s := s.leaveAll l
        let circs := []
        (match l.outcome with
         | some k => s.setLaunch { l with released := true, pair := k, circs := circs }
         | none => s.setLaunch { l with third := true, circs := circs })
      else ((s.leaveAll l).endPrograms lid).modLaunch lid fun l => { l with released := true })

/-- Whether every store, atomic, array operation and engine command of a launch has completed (R111, R323). -/
def State.workDone (s : State) (lid : Nat) : Bool :=
  (s.barIn.all fun e => e.2.2 != lid) && s.cores.all fun e =>
    let c := e.2
    !(c.cmds.any fun m => m.lid == lid) && !(c.accs.any fun a => a.lid == lid && !a.isFence) &&
      (c.lid != lid || c.run != .idle || (c.arr0.st.isNone && c.arr1.st.isNone && c.arr0.ldw.isNone && c.arr1.ldw.isNone && c.wit.isNone))

/-- What a launch held outside its clusters is freed after its release: barriers, and what its programs left (R357, R412). -/
def State.freeAfter (s : State) (lid : Nat) : State :=
  let s := s.endPrograms lid
  { s with
    barriers := s.barriers.filter fun e => !(if e.2.bound then e.2.lidb == lid else e.2.errLid == lid && e.2.err)
    launches := SMap.erase s.launches lid }

/-- A mismatch of a paired launch is reported under a code the spec leaves open (R287, log entry 17). -/
def State.reportPair (s : State) (pair : Nat) : State :=
  if pair = 0 then s
  else { s.postEvent ((Config.freeBits s.freeCtr).toNat % 2 ^ 128) with freeCtr := s.freeCtr + 1 }

/-- LAUNCH_COMPLETION_RELEASE (R323, R344): STATUS and then SEQ are written once everything of the launch has completed. -/
def execLaunchCompletionRelease (lid : Nat) (s : State) : Out :=
  .next (match s.launch lid with
    | none => s
    | some l =>
      if !l.finished || !l.released || !s.workDone lid then s
      else ((s.release (parseRcd l.rcd) lid (statusWord l.endc l.code l.pair lid)).reportPair l.pair).freeAfter lid)

/-! ## Sistering (R285, R286) -/

/-- The failing rows a start knows of, by physical core: what self-test has found and what the configuration image names (R215). -/
def State.failing (s : State) (conf : Conf) (unit : Nat) : List Nat :=
  ((s.badRows ++ conf.rows).filter fun k => k / 1024 == unit).map (· % 1024) |>.eraseDups

/-- A core with more than eight failing rows in either array is disabled (R215). -/
def rowsExceed (l : List Nat) : Bool := 8 < (l.filter fun k => k < 512).length || 8 < (l.filter fun k => 512 ≤ k).length

/-- The row map of an array whose physical rows `bad` fail: the failing logical rows, in ascending order, go to the sound spares in ascending
order (R215; log entry 111). -/
def rowMapOf (arr : Nat) (bad : List Nat) : SMap Nat :=
  let spares := (List.range 8).map (256 + ·) |>.filter fun k => !bad.contains k
  (((List.range 256).filter bad.contains).zip spares).map fun e => (256 * arr + e.1, e.2)

/-- The row maps of the cores, on the physical cores they run on. -/
def State.mapRows (s : State) : State :=
  { s with cores := ((List.range 256).filterMap fun n =>
      let l := s.failing s.sec.conf (s.unitOf n)
      if l.isEmpty then none else some (n, l)).foldl (fun m e =>
        let arr := fun (k : Nat) => rowMapOf k ((e.2.filter fun r => r / 512 == k).map (· % 512))
        SMap.upd {} m e.1 fun c => { c with rowMap := arr 0 ++ arr 1 }) s.cores }

/-- Whether a router belongs to the physical cluster that serves a logical one (R326). -/
def State.inPhysCluster (s : State) (cl router : Nat) : Bool :=
  let n := clusterCore cl 0
  router / 128 == dieOf n && router % 128 % 12 / 4 + 3 * (router % 128 / 24) == s.physCluster n

/-- The launch that holds a logical cluster. -/
def State.holderOf (s : State) (cl : Nat) : Option Launch :=
  (s.launches.filterMap Prod.snd).find? fun l => l.holds.contains cl

/-- The sister table of a cluster's die after the cluster is lost: the spare takes its place, or it is off. -/
def Sister.lose (t : Sister) (n : Nat) : Sister :=
  if t.spare = 15 then { t with off := t.off ||| (1#8 <<< n), phys := t.phys.set n 15 }
  else { t with phys := t.phys.set n t.spare, spare := 15 }

def State.loseCluster (s : State) (cl : Nat) : State :=
  let d := dieOf (clusterCore cl 0)
  { s with sisters := SMap.set s.sisters d ((s.sister d).lose (dieCluster (clusterCore cl 0))) }

/-- The cores of a cluster move to other hardware: what a save and a restore change (R271, R286), text and constant tables placed again under a new
key (R43, R367). -/
def State.moveCluster (s : State) (cl : Nat) : State :=
  (List.range 8).foldl (fun s k =>
    let n := clusterCore cl k
    let s := ((s.stopCmds n fun m => !m.old).l1Empty n fun _ => true)
    { s with freeCtr := s.freeCtr + 1 }.modCore n fun c => { c.recordStop with
      monitor := none, tlb := [], walk := none, rowMap := [], sealKey := c.sealKey.map fun _ => Config.freshKey s.freeCtr }) s

/-- A cluster no task stands in moves to other hardware: the spare takes its place, or it is off; circuits that pass there are rebuilt (R286,
R331). -/
def State.replaceCluster (s : State) (cluster : Nat) : State :=
  let cs := s.circuitsAt (s.inPhysCluster cluster)
  let s := (((s.takeCircuits cs).moveCluster cluster).loseCluster cluster).mapRows
  { s.rebuildCircuits cs with defects := s.defects.erase cluster }

/-- CLUSTER_DEFECT (R286): the launch's line rises; once the cluster is drained it is sistered onto the spare and the line falls; with no
spare the launch ends and the cluster is off. While an ended launch still holds the cluster it waits for the release. -/
def execClusterDefect (cluster : Nat) (s : State) : Out :=
  let d := dieOf (clusterCore cluster 0)
  .next (if 32 ≤ cluster || s.clusterOff cluster then s
    else match s.holderOf cluster with
      | none => s.replaceCluster cluster
      | some l =>
        let s := { s with defects := if s.defects.contains cluster then s.defects else s.defects ++ [cluster] }
        if (s.sister d).spare = 15 then
          { (((s.raiseLine l.lid).failLaunch l.lid 4 0).loseCluster cluster) with defects := s.defects.erase cluster }
        else if l.finished then s
        else
          let s := s.modLaunch l.lid fun l => { l with line := true, defect := some cluster }
          if s.canLeave l.lid cluster then
            (((s.zeroCounts l.lid).replaceCluster cluster).modLaunch l.lid fun l => { l with defect := none }).lowerLine l.lid
          else s)

/-- The save of a cluster that drains aborts: the launch ends as with no spare (R286). -/
def State.abortDrain (s : State) (cluster : Nat) : State :=
  if !s.defects.contains cluster then s
  else
    let s := { s with defects := s.defects.erase cluster }
    match s.holderOf cluster with
    | some l => ((s.raiseLine l.lid).failLaunch l.lid 4 0).loseCluster cluster
    | none => s.loseCluster cluster

end Sys2Proof.Machine
end

