-- ==== Sys2Proof/Machine/Loader.lean ====
section
/-! DEFINITION. The measured loader (R31 to R43, R368): an image's tables, its checks in order, relocation, and the image it keeps. -/
namespace Sys2Proof.Machine

/-- An entry of the section table (R32). -/
structure Sect where
  typ : Nat
  task : Nat
  align : Nat
  flags : Nat
  link : Nat
  res : Nat
  off : Nat
  size : Nat
  addr : Nat
  entry : List Byte
  deriving DecidableEq, Repr

/-- A symbol (R34). -/
structure Symb where
  name : Nat
  sect : Nat
  bind : Nat
  kind : Nat
  value : Nat
  deriving DecidableEq, Repr

/-- n bytes of a file from an offset, as a number. -/
def fileNat (b : List Byte) (o n : Nat) : Nat := leNat ((b.drop o).take n)

/-- The header fields the loader uses (R31). -/
structure LxoHead where
  flags : Nat
  kind : Nat
  tasks : Nat
  nsect : Nat
  secttab : Nat
  symtab : Nat
  strtab : Nat
  size : Nat
  keyid : Nat
  deriving DecidableEq, Repr

def lxoHead (b : List Byte) : LxoHead :=
  ⟨fileNat b 6 2, fileNat b 8 1, fileNat b 9 1, fileNat b 10 2, fileNat b 16 8, fileNat b 24 8, fileNat b 32 8, fileNat b 40 8,
    fileNat b 48 8⟩

/-- The sections of an image. -/
def lxoSects (b : List Byte) (h : LxoHead) : List Sect :=
  (List.range h.nsect).map fun i =>
    let o := h.secttab + 32 * i
    ⟨fileNat b o 1, fileNat b (o + 1) 1, fileNat b (o + 2) 1, fileNat b (o + 3) 1, fileNat b (o + 4) 2, fileNat b (o + 6) 2,
      fileNat b (o + 8) 8, fileNat b (o + 16) 8, fileNat b (o + 24) 8, (b.drop o).take 32⟩

/-- The symbols of an image: the table ends where the string table begins. -/
def lxoSyms (b : List Byte) (h : LxoHead) : List Symb :=
  (List.range ((h.strtab - h.symtab) / 24)).map fun i =>
    let o := h.symtab + 24 * i
    ⟨fileNat b o 4, fileNat b (o + 4) 2, fileNat b (o + 6) 1, fileNat b (o + 7) 1, fileNat b (o + 8) 8⟩

/-- The name `$tvec`, with its end. -/
def tvecName : List Byte := [0x24, 0x74, 0x76, 0x65, 0x63, 0x00]

/-- The text offset of the global code symbol `$tvec`, 0 where there is none (R349). -/
def lxoTvec (b : List Byte) (h : LxoHead) : Nat :=
  match (lxoSyms b h).find? fun y => y.bind == 1 && y.kind == 1 && (b.drop (h.strtab + y.name)).take 6 == tvecName with
  | some y => y.value
  | none => 0

/-- Section types that stand once for a task; those of the image. -/
def perTask (t : Nat) : Bool := [1, 2, 3, 7, 8, 9].contains t
def perImage (t : Nat) : Bool := [4, 5, 6, 11, 12].contains t

/-- Sections that go into a memory of their own (R32), which are those a sealed image seals (R41). -/
def loaded (t : Nat) : Bool := [1, 2, 3, 6].contains t

/-- n bytes from an offset are all zero. -/
def zeros (b : List Byte) (o n : Nat) : Bool := fileNat b o n == 0

/-- Reserved bytes of the entries of a section: MARKS, CIRCUITS, RELOC (R35 to R37). -/
def Sect.reservedOk (x : Sect) (b : List Byte) : Bool :=
  let each := fun (f : Nat → Bool) => (List.range (x.size / 16)).all fun i => f (x.off + 16 * i)
  match x.typ with
  | 7 => each fun o => zeros b (o + 2) 2 && zeros b (o + 12) 4
  | 9 => each fun o => zeros b (o + 8) 8
  | 10 => each fun o => zeros b (o + 9) 3
  | _ => true

/-- Whether one section is well formed. In a sealed image exactly the sections of R41 are sealed; only a section with a memory of its own has a
load offset, and it lies at its alignment there. What of this R42 does not list is log entry 92. -/
def Sect.ok (x : Sect) (h : LxoHead) : Bool :=
  x.flags == (if h.flags % 2 = 1 ∧ loaded x.typ then 1 else 0) && (loaded x.typ || x.addr == 0) && x.addr % 2 ^ x.align == 0 && x.off % 64 == 0 && x.off + x.size ≤ h.size && x.res == 0 && ((1 ≤ x.typ && x.typ ≤ 12) || 0x80 ≤ x.typ) &&
    (if x.typ = 10 then x.link < h.nsect else x.link == 0) && (!perTask x.typ || x.task < h.tasks) && (!perImage x.typ || x.task == 0xFF)

/-- Pairwise conditions: no overlap, one section of each per-task type, SIG last. -/
def sectsOk : List Sect → Bool
  | [] => true
  | x :: l =>
    (l.all fun y => (x.off + x.size ≤ y.off || y.off + y.size ≤ x.off || x.size == 0 || y.size == 0) &&
      !(perTask x.typ && x.typ == y.typ && x.task == y.task)) && (x.typ != 12 || l.isEmpty) && sectsOk l

/-- FORMAT. Beside R42's row: the number of tasks, worldkind, a section's task index and link, and the place of SIG (log entry 92). -/
def lxoFormat (b : List Byte) (isize : Nat) : Bool :=
  let h := lxoHead b
  let l := lxoSects b h
  64 ≤ b.length && fileNat b 0 4 == 0x004F584C && fileNat b 4 2 == 1 && h.flags < 4 && h.kind ≤ 2 && 1 ≤ h.tasks && h.tasks ≤ 64 &&
    fileNat b 12 4 == 0 && fileNat b 56 8 == 0 && h.size == isize && h.secttab + 32 * h.nsect ≤ h.size && h.symtab ≤ h.strtab &&
    h.strtab ≤ h.size && (h.strtab - h.symtab) % 24 == 0 && l.all (fun x => x.ok h && x.reservedOk b) && sectsOk l && lxoTvec b h % 64 == 0

/-- The bytes of a section before sealing. -/
def Sect.plainSize (x : Sect) : Nat := if x.flags = 1 then x.size - 28 else x.size

/-- Whether a circuit's ends are tiles, and its slots 1 to 256. -/
def circuitOk (b : List Byte) (o : Nat) : Bool :=
  ((List.range 4).all fun k => fileNat b (o + 2 + k) 1 ≤ 15) && 1 ≤ fileNat b (o + 6) 2 && fileNat b (o + 6) 2 ≤ 256

/-- LIMIT: a section ends within its memory. Beside R42's row: MCORE within 16 KiB (R409), a circuit's 1 to 256 slots (R37; log entry 92). -/
def lxoLimit (b : List Byte) : Bool :=
  (lxoSects b (lxoHead b)).all fun x =>
    match x.typ with
    | 1 => x.addr + x.plainSize ≤ 262144
    | 2 => x.addr + x.plainSize ≤ 65536
    | 3 => x.addr + x.plainSize ≤ 360448
    | 6 => x.addr + x.plainSize ≤ 16384
    | 7 => x.size ≤ 16 * 2048
    | 9 => (List.range (x.size / 16)).all fun i => circuitOk b (x.off + 16 * i)
    | _ => true

/-- A digest as a number, its bytes with the first one first. -/
def sha256 (b : List Byte) : BitVec 256 := BitVec.ofNat 256 (leNat (sha256Bytes b))
def digestBytes (d : BitVec 256) : List Byte := leBytes 32 d.toNat

/-- The image digest of R38: over the header, the section table and the digests before it. -/
def lxoDigest (b : List Byte) : BitVec 256 :=
  let h := lxoHead b
  let ds := ((lxoSects b h).filter fun x => x.typ != 11 && x.typ != 12).flatMap fun x =>
    digestBytes (sha256 ((b.drop x.off).take x.size))
  sha256 (b.take 64 ++ (b.drop h.secttab).take (32 * h.nsect) ++ ds)

/-- DIGEST. -/
def lxoMeasured (b : List Byte) : Bool :=
  let l := lxoSects b (lxoHead b)
  match l.find? fun x => x.typ == 11 with
  | none => false
  | some m =>
    let ds := (l.filter fun x => x.typ != 11 && x.typ != 12).flatMap fun x => digestBytes (sha256 ((b.drop x.off).take x.size))
    (b.drop m.off).take m.size == ds ++ digestBytes (lxoDigest b)

def State.worldRec (s : State) (w : Nat) : WorldRec := SMap.get {} s.sec.worlds w
def State.worldOpen (s : State) (w : Nat) : Bool := w == 0 || (w < 16 && (s.worldRec w).isOpen)

/-- The bytes of a signature (R39). -/
def sigBytes : Nat := 5076

/-- SIGNATURE: of its size, under a trusted key within its limit (R39, R370), or absent where R40 allows it. -/
def State.lxoSigned (s : State) (b : List Byte) (world : Nat) : Bool :=
  match (lxoSects b (lxoHead b)).find? fun x => x.typ == 12 with
  | none => world == 0 && s.sec.conf.unsignedOk
  | some x =>
    let sig := (b.drop x.off).take x.size
    let msg := digestBytes (lxoDigest b)
    x.size == sigBytes && ((s.sec.conf.keys.any fun k => hssVerify k.1 msg sig && hssIndex sig < k.2) ||
      (s.worldRec world).owners.any fun k => hssVerify k msg sig)

/-- WORLD. -/
def lxoWorld (b : List Byte) (world : Nat) : Bool :=
  let h := lxoHead b
  match h.kind with
  | 0 => true
  | 1 => world == 0
  | _ => world != 0 && h.flags % 2 == 1

/-- The contents of a section, opened where it is sealed (R41). -/
def State.openSect (s : State) (b : List Byte) (world : Nat) (x : Sect) : Option (List Byte) :=
  let c := (b.drop x.off).take x.size
  if x.flags = 0 then some c
  else match SMap.get none (s.worldRec world).transport (lxoHead b).keyid with
    | none => none
    | some k => gcmOpen k (c.take 12) x.entry ((c.drop 12).take (x.size - 28)) (c.drop (x.size - 16))

/-- SEAL: a sealed image's key is held. -/
def State.keyHeld (s : State) (b : List Byte) (world : Nat) : Bool :=
  let h := lxoHead b
  h.flags % 2 == 0 || (SMap.get none (s.worldRec world).transport h.keyid).isSome

/-- Every section opened, none where one does not. -/
def State.openAll (s : State) (b : List Byte) (world : Nat) : List Sect → Option (List (Sect × List Byte))
  | [] => some []
  | x :: l =>
    match s.openSect b world x, s.openAll b world l with
    | some c, some r => some ((x, c) :: r)
    | _, _ => none

/-- The values of the symbols: absolute, offset in DATA from the load address, or the next import (R35). -/
def symValues (secs : List Sect) (dva : Nat) (imps : List Nat) : List Symb → List Nat
  | [] => []
  | y :: l =>
    if y.bind = 2 then imps.headD 0 :: symValues secs dva imps.tail l
    else
      let v := match secs[y.sect]? with
        | some x => if x.typ = 4 then (dva + y.value) % 2 ^ 64 else y.value
        | none => y.value
      v :: symValues secs dva imps l

/-- One relocation applied to the bytes of a section: none where it does not fit, or its kind or symbol is none (log entry 92). -/
def relocate (vals : List Nat) (e : List Byte) (c : List Byte) : Option (List Byte) :=
  let o := fileNat e 0 4
  let k := fileNat e 8 1
  let add := (BitVec.ofNat 32 (fileNat e 12 4)).toInt
  match vals[fileNat e 4 4]? with
  | none => none
  | some v =>
    let x := ((v : Int) + add) % 2 ^ 64
    let x := x.toNat
    let n := if k = 1 then 8 else if k = 2 then 4 else 2
    let w := if k ≤ 2 then x else x / 2 ^ (16 * (k - 3)) % 65536
    if k = 0 ∨ 6 < k ∨ c.length < o + n ∨ (k = 2 ∧ 2 ^ 32 ≤ x) then none
    else some (c.take o ++ leBytes n w ++ c.drop (o + n))

/-- The entries of a RELOC section. -/
def entriesOf (c : List Byte) (n : Nat) : List (List Byte) := (List.range (c.length / n)).map fun i => (c.drop (n * i)).take n

/-- Every relocation of a section. -/
def relocateAll (vals : List Nat) : List (List Byte) → List Byte → Option (List Byte)
  | [], c => some c
  | e :: l, c =>
    match relocate vals e c with
    | some c => relocateAll vals l c
    | none => none

/-- The sections with every relocation applied: LINK. -/
def linkAll (all : List (Sect × List Byte)) (vals : List Nat) : List (Nat × (Sect × List Byte)) → Option (List (Sect × List Byte))
  | [] => some []
  | (i, x, c) :: l =>
    let es := (all.filter fun r => r.1.typ == 10 && r.1.link == i).flatMap fun r => entriesOf r.2 16
    match relocateAll vals es c, linkAll all vals l with
    | some c, some r => some ((x, c) :: r)
    | _, _ => none

/-- The argument page of LOAD (R368). -/
structure LoadArg where
  ipa : Nat
  isize : Nat
  dva : Nat
  droot : Nat
  world : Nat
  imps : List Nat
  deriving DecidableEq, Repr

/-- Whether every byte of DATA translates writable. -/
def State.dataOk (s : State) (a : LoadArg) (n : Nat) : Bool :=
  (rowsOf a.dva n).all fun v => (s.schedLoc a.world a.droot (64 * v) true).isSome

/-- A table of 64-byte lines from bytes at an offset of a memory, zero before it. -/
def linesFrom (addr : Nat) (b : List Byte) : SMap Row :=
  let b := List.replicate addr 0#8 ++ b
  ((List.range ((b.length + 63) / 64)).map fun i => (i, rowOf ((b.drop (64 * i)).take 64))).filter fun e => e.2 != 0

/-- The contents of a section of a task. -/
def sectOf (l : List (Sect × List Byte)) (typ task : Nat) : List Byte :=
  match l.find? fun e => e.1.typ == typ && e.1.task == task with
  | some e => e.2
  | none => []

/-- The load offset of a section of a task. -/
def addrOf (l : List (Sect × List Byte)) (typ task : Nat) : Nat :=
  match l.find? fun e => e.1.typ == typ && e.1.task == task with
  | some e => e.1.addr
  | none => 0

/-- A task of an image, each section at its load offset. -/
def taskImage (l : List (Sect × List Byte)) (tvec k : Nat) : TaskImage :=
  { text := linesFrom (addrOf l 1 k) (sectOf l 1 k), ctab := linesFrom (addrOf l 2 k) (sectOf l 2 k), spimg := sectOf l 3 k
    spoff := if (sectOf l 3 k).isEmpty then 0 else addrOf l 3 k
    marks := (entriesOf (sectOf l 7 k) 16).foldl (fun m e =>
      SMap.put none m (fileNat e 0 2) (some (BitVec.ofNat 32 (fileNat e 4 4), BitVec.ofNat 32 (fileNat e 8 4)))) []
    circuits := (entriesOf (sectOf l 9 k) 16).map fun e =>
      ⟨fileNat e 0 2, fileNat e 2 1, fileNat e 3 1, fileNat e 4 1, fileNat e 5 1, fileNat e 6 2⟩
    slottab := sectOf l 8 k, tvec := tvec }

/-- The checks of R42 in order: the status that fails, or the opened, relocated sections. -/
def State.lxoCheck (s : State) (a : LoadArg) (b : List Byte) : Except Nat (List (Sect × List Byte)) :=
  let h := lxoHead b
  let secs := lxoSects b h
  let syms := lxoSyms b h
  if !lxoFormat b a.isize then .error 1
  else if !lxoLimit b then .error 2
  else if !lxoMeasured b then .error 3
  else if !s.lxoSigned b a.world then .error 4
  else if !lxoWorld b a.world then .error 5
  else match (if s.keyHeld b a.world then s.openAll b a.world secs else none) with
    | none => .error 6
    | some all =>
      let vals := symValues secs a.dva a.imps syms
      let data := (all.filter fun e => e.1.typ == 4).map fun e => e.2.length
      if a.imps.length < (syms.filter fun y => y.bind == 2).length || !s.dataOk a data.sum then .error 7
      else match linkAll all vals ((List.range all.length).zip all) with
        | none => .error 7
        | some r =>
          let used := (s.sec.images.map fun e => match e.2 with | some i => i.size | none => 0).sum
          if s.sec.conf.store < used + b.length then .error 8 else .ok r

/-- The image a load keeps, and its DATA written (R43). Of several sections of an image-wide type the first counts, and whether there is a program
for the communication cores is whether there is an MCORE section (log entry 104). -/
def State.keepImage (s : State) (a : LoadArg) (b : List Byte) (l : List (Sect × List Byte)) : State :=
  let h := lxoHead b
  let mc := List.replicate (addrOf l 6 0xFF) 0#8 ++ sectOf l 6 0xFF
  let img : Image := { tasks := (List.range h.tasks).map (taskImage l (lxoTvec b h))
                       mcore := (entriesOf mc 4).map fun e => BitVec.ofNat 32 (leNat e), hasMcore := l.any fun e => e.1.typ == 6
                       world := a.world, digest := lxoDigest b, size := b.length }
  let data := sectOf l 4 0xFF
  let s := (spansFrom a.dva false data (data.length / 64 + 2)).foldl (fun s w => s.schedWrite a.world a.droot 0 w.off w.bytes) s
  { s with sec := { s.sec with images := SMap.set s.sec.images s.sec.nextImage (some img), nextImage := s.sec.nextImage + 1 } }

end Sys2Proof.Machine
end

