-- ==== Sys2Proof/Machine/Security.lean ====
section
/-! DEFINITION. The security processor's commands, starts and power (R366 to R378). The places of arguments in the page that the spec gives no
layout for: log entry 18. -/
namespace Sys2Proof.Machine

/-! ## The argument page -/

/-- n bytes of the argument page, as a number. -/
def State.argBytes (s : State) (o n : Nat) : List Byte := s.secBytes (s.sec.sparg + o) n
def State.argNat (s : State) (o n : Nat) : Nat := leNat (s.argBytes o n)

/-- Bytes written into world-0 memory by the security processor. -/
def State.secWrite (s : State) (a : Nat) (b : List Byte) : State :=
  (spansFrom a false b (b.length / 64 + 2)).foldl (fun s w =>
    (s.homeStore (w.off / 64) 0 (w.bytes.length == 64) false false).storeBytes w.off w.bytes) s

/-- A command ends with a result (R365). -/
def State.spDone (s : State) (res : Nat) : State := { s with sec := { s.sec with cmd := none, res := res } }

/-- The world a command of a code runs for, while it is the running command. -/
def State.spRuns (s : State) (opc : Nat) (wid : Option Nat) : Bool :=
  match s.sec.cmd with
  | some (o, w) => o == opc && (match wid with | some k => k == w | none => true)
  | none => false

/-- Whether a launch is held: one dispatched and not released, or one queued (R366). -/
def State.launchHeld (s : State) : Bool := s.launches.any (fun e => e.2.isSome) || s.queues.any fun e => !e.2.items.isEmpty

/-- Whether a signature's index is at or above the limit recorded for its key (R370). -/
def State.spent (s : State) (key sig : List Byte) : Bool :=
  (s.sec.conf.keys ++ s.sec.conf.fwKeys).any fun k => k.1 == key && k.2 ≤ hssIndex sig

/-- The device identity public key and its SHA-256 (R369, R370). -/
def State.identityKey (s : State) : List Byte := s.sec.identity.getD Config.identityKey
def State.identityDigest (s : State) : BitVec 256 := sha256 s.identityKey

/-! ## Keys and worlds (R366) -/

def State.setWorldRec (s : State) (w : Nat) (r : WorldRec) : State :=
  { s with sec := { s.sec with worlds := SMap.set s.sec.worlds w r } }

/-- SPCMD_WOPEN: bytes 0 to 59 of the page are the owner's key. -/
def execSpcmdWopen (wid : Nat) (s : State) : Out :=
  .next (if !s.spRuns 2 (some wid) then s
    else if wid = 0 then s.spDone 5
    else if (s.worldRec wid).isOpen then s.spDone 3
    else
      let r : WorldRec := { isOpen := true, owner := s.argBytes 0 60, oldKey := Config.freshKey s.freeCtr }
      ({ s.setWorldRec wid r with freeCtr := s.freeCtr + 1 }).spDone 0)

/-- SPCMD_KEYLOAD: keyid in bytes 0 to 7, the wrapped key in 8 to 47, its kind in 48 (0 transport, 1 image, 2 fabric), an image key in
64 to 123, the owner's signature over bytes 0 to 123 from 128 on. World 0 is open and has no owner, so no signature verifies there. -/
def execSpcmdKeyload (wid : Nat) (s : State) : Out :=
  let r := s.worldRec wid
  .next (if !s.spRuns 3 (some wid) then s
    else if !s.worldOpen wid then s.spDone 3
    else if !hssVerify r.owner (s.argBytes 0 124) (s.argBytes 128 sigBytes) then s.spDone 1
    else if s.spent r.owner (s.argBytes 128 sigBytes) then s.spDone 4
    else if s.argNat 48 1 = 1 then (s.setWorldRec wid { r with owners := r.owners ++ [s.argBytes 64 60] }).spDone 0
    else match keyUnwrap Config.provisioningKey (s.argBytes 8 40) with
      | none => s.spDone 5
      | some k =>
        if s.argNat 48 1 = 0 then (s.setWorldRec wid { r with transport := SMap.put none r.transport (s.argNat 0 8) (some k) }).spDone 0
        else if s.argNat 48 1 = 2 then (s.setWorldRec wid { r with fabric := some k }).spDone 0
        else s.spDone 5)

/-- Lines a world has in the caches of the package: in the L2, or written in an L1. -/
def State.linesOfWorld (s : State) (wid : Nat) : List Nat :=
  (s.l2.filter fun e => match e.2 with
    | some x => x.world == wid || (x.dst == 2 && (match (s.core x.own).l1Line e.1 with | some l => l.st == .m && l.world == wid | none => false))
    | none => false).map Prod.fst

/-- What closing a world destroys: keys and tokens, its weight-store granules, its images; its lines leave the caches and its blocks no
longer check (R301, R305, R366, R368). -/
def State.closeWorld (s : State) (wid : Nat) : State :=
  let s := (s.linesOfWorld wid).foldl State.leaveL2 s
  let mine := fun (k per : Nat) => SMap.get 0 s.wsWorld (k / per) == wid
  { s with
    ws := s.ws.filter fun e => !mine e.1 (2 ^ 14)
    wsPoison := s.wsPoison.filter fun e => !mine e.1 (2 ^ 17)
    wsWorld := s.wsWorld.filter fun e => e.2 != wid
    blocks := s.blocks.map fun e => (e.1, e.2.map fun b => if b.world = wid then { b with bad := true } else b)
    sec := { s.sec with
      worlds := SMap.erase s.sec.worlds wid
      images := s.sec.images.filter fun e => match e.2 with | some i => i.world != wid | none => false } }

/-- SPCMD_WCLOSE. -/
def execSpcmdWclose (wid : Nat) (s : State) : Out :=
  let used := s.launches.any (fun e => match e.2 with | some l => l.world == wid | none => false) ||
    s.queues.any fun e => e.2.qworld == wid && (e.2.qen || !e.2.items.isEmpty)
  .next (if !s.spRuns 4 (some wid) then s
    else if wid = 0 || !(s.worldRec wid).isOpen || used then s.spDone 3
    else (s.closeWorld wid).spDone 0)

/-- SPCMD_TOKEN (R374): world in byte 0, the device identity digest in 1 to 32, the level in 33, the configuration version in 34 to 37, the
owner's signature over these from 64 on. -/
def execSpcmdToken (wid : Nat) (s : State) : Out :=
  let r := s.worldRec wid
  .next (if !s.spRuns 5 (some wid) then s
    else if !s.worldOpen wid then s.spDone 3
    else if !hssVerify r.owner (s.argBytes 0 38) (s.argBytes 64 sigBytes) then s.spDone 1
    else if s.spent r.owner (s.argBytes 64 sigBytes) then s.spDone 4
    else
      let level := s.argNat 33 1
      if s.argNat 0 1 ≠ wid ∨ s.argNat 1 32 ≠ s.identityDigest.toNat ∨ (level ≠ 1 ∧ level ≠ 2) ∨
          s.argNat 34 4 ≠ s.sec.confVersion then s.spDone 5
      else (s.setWorldRec wid { r with token := level }).spDone 0)

/-- SPCMD_REKEY (R303, R304): entry k of the page is the range of controller k, its first block and the block after its last as addresses
of 8 bytes each; an empty range starts nothing. -/
def execSpcmdRekey (wid : Nat) (s : State) : Out :=
  let r := s.worldRec wid
  let range := fun (k : Nat) => (s.argNat (16 * k) 8 / 512, s.argNat (16 * k + 8) 8 / 512)
  let ks := (List.range 16).filter fun k => (range k).1 < (range k).2
  .next (if !s.spRuns 7 (some wid) then s
    else if !s.worldOpen wid || r.newKey.isSome then s.spDone 3
    else if ks.any fun k => (s.sweep k).go || blockCtl (range k).1 != k || blockCtl ((range k).2 - 1) != k then s.spDone 5
    else
      let s := { s.setWorldRec wid { r with newKey := some (Config.freshKey s.freeCtr) } with freeCtr := s.freeCtr + 1 }
      let s := ks.foldl (fun s k =>
        s.setSweep k { wid := wid, go := true, base := (range k).1, end_ := (range k).2, ptr := (range k).1, live := true,
                       pause := (s.sweep k).pause }) s
      (if ks.isEmpty then s.retireKey wid else s).spDone 0)

/-! ## Configuration and attestation (R369 to R371) -/

/-- A configuration image read from bytes: the version in 0 to 3; the number of keys in 4, the debug ceiling in 5, unsigned images in 6, the
number of excluded clusters in 7; the peg time-out in 8 to 11, budget in 12 to 15, leak period in 16 to 19, power limit in 20 to 23, bytes
of the image store in 24 to 31; keys of 60 bytes with limits of 4, of which bit 31 marks a firmware key; clusters of one byte; after them the
joined pairs of ports in 3 bytes, the number of failing rows in 4 and each row in 4; last a byte of 1 where a new identity key follows, in 60
bytes, with the vendor's certificate, a signature over it. -/
def confIdentity (b : List Byte) : Option (List Byte × List Byte) :=
  let o := 32 + 64 * fileNat b 4 1 + fileNat b 7 1
  let o := o + 7 + 4 * fileNat b (o + 3) 4
  if fileNat b o 1 = 1 then some ((b.drop (o + 1)).take 60, (b.drop (o + 61)).take sigBytes) else none
def confFrom (b : List Byte) : Conf :=
  let n := fileNat b 4 1
  let o := 32 + 64 * n + fileNat b 7 1
  let all := (List.range n).map fun i => ((b.drop (32 + 64 * i)).take 60, fileNat b (32 + 64 * i + 60) 4)
  let keys := fun (fw : Bool) => (all.filter fun k => decide (2 ^ 31 ≤ k.2) == fw).map fun k => (k.1, k.2 % 2 ^ 31)
  { version := fileNat b 0 4, ceiling := fileNat b 5 1 % 3, unsignedOk := fileNat b 6 1 == 1, pegTimeout := min 65535 (max 256 (fileNat b 8 4))
    budget := fileNat b 12 4, leak := fileNat b 16 4, power := min 2900 (max 1500 (fileNat b 20 4)), store := fileNat b 24 8
    keys := keys false, fwKeys := keys true, identity := (confIdentity b).map Prod.fst
    exclude := (List.range (fileNat b 7 1)).map fun i => fileNat b (32 + 64 * n + i) 1
    joined := BitVec.ofNat 24 (fileNat b o 3), rows := (List.range (fileNat b (o + 3) 4)).map fun i => fileNat b (o + 7 + 4 * i) 4 }

/-- A signature of the vendor: under its firmware key, or one the configuration in effect trusts (R371), none of them spent (R370). -/
def State.vendorSigned (s : State) (msg sig : List Byte) : Bool :=
  (Config.vendorKey :: s.sec.conf.fwKeys.map Prod.fst).any fun k => hssVerify k msg sig && !s.spent k sig

/-- Whether a signature verifies under a key of the vendor, spent or not. -/
def State.vendorKnown (s : State) (msg sig : List Byte) : Bool :=
  (Config.vendorKey :: s.sec.conf.fwKeys.map Prod.fst).any fun k => hssVerify k msg sig

/-- Tokens fall at a change of the configuration version (R374). -/
def State.setVersion (s : State) (v : Nat) : State :=
  let drop := fun (r : WorldRec) => if v ≠ s.sec.confVersion then { r with token := 0 } else r
  { s with sec := { s.sec with confVersion := v, worlds := s.sec.worlds.map fun e => (e.1, drop e.2) } }

/-- SPCMD_CONFIG: bytes 0 to 7 of the page hold the PA of the image, 8 to 15 its bytes; the signature is its end. An identity key in it needs the
vendor's certificate (R370). -/
def execSpcmdConfig (s : State) : Out :=
  let a := s.argNat 0 8
  let n := s.argNat 8 8
  let b := s.secBytes a (n - sigBytes)
  let sig := s.secBytes (a + (n - sigBytes)) sigBytes
  .next (if !s.spRuns 1 none then s
    else if n < sigBytes then s.spDone 5
    else
      let t := s.secFetch a n
      if !s.vendorSigned b sig then t.spDone (if s.vendorKnown b sig then 4 else 1)
      else if (confIdentity b).any fun k => !s.vendorSigned k.1 k.2 then t.spDone 1
      else if (confFrom b).version < s.sec.confVersion then t.spDone 2
      else
        let t := t.setVersion (confFrom b).version
        ({ t with sec := { t.sec with confNext := some (confFrom b) } }).spDone 0)

/-- The image digest of a launch that a LID names, queued or dispatched; zero for none. -/
def State.lidDigest (s : State) (lid : Nat) : BitVec 256 :=
  let queued := (s.queues.flatMap fun e => e.2.items).find? fun i => i.lid == lid
  let img := match s.launch lid with
    | some l => l.img
    | none => (queued.map fun i => (parseRcd i.rcd).img).getD 0
  match SMap.get none s.sec.images img with
  | some i => i.digest
  | none => 0

/-- SPCMD_ATTEST (R369, R370): the command's world and the one reported are open; world, LID and nonce stand in the page where the report has them; the report is written from the page's
start on. -/
def execSpcmdAttest (s : State) : Out :=
  match s.sec.cmd with
  | some (6, wid) =>
    let lid := s.argNat 76 4
    let i := s.sec.index
    let body := leBytes 4 1 ++ digestBytes s.identityDigest ++ digestBytes Config.firmwareDigest ++
      leBytes 4 s.sec.confVersion ++ leBytes 1 (s.argNat 72 1) ++ leBytes 3 0 ++ leBytes 4 lid ++ digestBytes (s.lidDigest lid) ++
      s.argBytes 112 32 ++ leBytes 4 i
    .next (if !s.worldOpen wid || !s.worldOpen (s.argNat 72 1) then s.spDone 3
      else if 2 ^ 20 ≤ i then s.spDone 4
      else (({ s with sec := { s.sec with index := i + 1 } }).secWrite s.sec.sparg (body ++ Config.hssSign s.identityKey i body)).spDone 0)
  | _ => .next s

/-! ## The image store (R368) -/

/-- SPCMD_LOAD: on every failure the page answers number 0. With no number left the store takes no image (log entry 101). -/
def execSpcmdLoad (s : State) : Out :=
  let imps := (List.range (s.argNat 32 4)).map fun i => s.argNat (64 + 8 * i) 8
  let a : LoadArg := ⟨s.argNat 0 8, s.argNat 8 8, s.argNat 16 8, s.argNat 24 5 % 2 ^ 37 * 4096, s.argNat 29 1, imps⟩
  let b := s.secBytes a.ipa a.isize
  let zero := s.argNat 24 5 / 2 ^ 37 == 0 && s.argNat 30 2 == 0 && s.argNat 36 28 == 0
  let answer := fun (s : State) (img st res : Nat) => (s.secWrite s.sec.sparg (leBytes 2 img ++ leBytes 1 st)).spDone res
  .next (if !s.spRuns 10 none then s
    else if !s.worldOpen a.world then answer s 0 0 3
    else if a.ipa % 64 ≠ 0 || a.dva % 64 ≠ 0 || !zero then answer s 0 0 5
    else
      let t := s.secFetch a.ipa a.isize
      match s.lxoCheck a b with
      | .error k => answer t 0 k 5
      | .ok l => if 2 ^ 16 ≤ s.sec.nextImage then answer t 0 8 5 else answer (t.keepImage a b l) s.sec.nextImage 0 0)

/-- SPCMD_UNLOAD. -/
def execSpcmdUnload (s : State) : Out :=
  let k := s.argNat 0 2
  let used := s.launches.any (fun e => match e.2 with | some l => l.img == k | none => false) ||
    s.queues.any fun e => e.2.items.any fun i => (parseRcd i.rcd).img == k
  .next (if !s.spRuns 11 none then s
    else if s.argNat 2 62 ≠ 0 || (SMap.get none s.sec.images k).isNone then s.spDone 5
    else if used then s.spDone 3
    else ({ s with sec := { s.sec with images := SMap.erase s.sec.images k } }).spDone 0)

/-- SPCMD_INVALID: a code of no command. -/
def execSpcmdInvalid (opc : Nat) (s : State) : Out :=
  .next (if s.spRuns opc none && (opc == 0 || 11 < opc) then s.spDone 5 else s)

/-! ## Starts (R375 to R377) -/

/-- A configuration image that waits takes effect (R371); a new identity key begins with its first one-time key (R370). -/
def State.applyConf (s : State) : State :=
  match s.sec.confNext with
  | none => s
  | some c =>
    let sec := { s.sec with conf := c, confNext := none }
    { s with sec := if c.identity.isSome then { sec with identity := c.identity, index := 0 } else sec }

/-- Every core, engine, flag file and router is scrubbed (R275, R377); dirty lines of the L1s are written back first (R133). The registers of the
queues and the barriers stay. -/
def State.scrubAll (s : State) : State :=
  let s := (s.cores.map Prod.fst).foldl (fun s n => s.l1Empty n fun _ => true) s
  { s with
    cores := s.cores.map fun e => (e.1, { rowMap := e.2.rowMap, tick := e.2.tick })
    clusters := [], pkts := [], slotTab := [], pegPkt := none, launches := [], rrq := 0, barIn := []
    queues := s.queues.map fun e => (e.1, { e.2 with items := [] })
    tlbis := [], martens := [], gangs := [], defects := []
    fab := { s.fab with conns := [], reqs := [], slots := [], epochs := [], tens := [], groups := [], combined := [], serve := [], ctsIn := [], rowsIn := []
                        transit := [], wire := [], acks := [] } }

/-- Bridges and ports are trained: no replay, retraining, exchange or computation of routes is in progress there; a bucket and a retirement stay
(R340, R377; log entry 102). -/
def State.trainLinks (s : State) : State :=
  { s with links := s.links.map fun e =>
      if 4096 ≤ e.1 then (e.1, { e.2 with fails := 0, training := false, exchange := false, recompute := false }) else e }

/-- The warm start. -/
def State.warmStart (s : State) : State := s.applyConf.trainLinks.scrubAll

/-- SPCMD_WARM. -/
def execSpcmdWarm (s : State) : Out :=
  .next (if !s.spRuns 8 none then s else if s.launchHeld then s.spDone 3 else s.warmStart.spDone 0)

/-- What sleep keeps: the security processor's state and HBM, with what the caches held of it; of a weight store nothing (R375). -/
def State.sleepKept (s : State) : State :=
  let s := (s.cores.map Prod.fst).foldl (fun s n => s.l1Empty n fun _ => true) s
  let s := (s.l2.map Prod.fst).foldl State.leaveL2 s
  { s with ws := [], wsPoison := [] }

/-- SPCMD_SLEEP: refused while a launch is held or a core is halted; tokens are discarded (R376). -/
def execSpcmdSleep (s : State) : Out :=
  .next (if !s.spRuns 9 none then s
    else if s.launchHeld || s.cores.any (fun e => e.2.run == .debug) then s.spDone 3
    else
      let s := (s.spDone 0).sleepKept
      { s with sec := { s.sec with power := .sleep, worlds := s.sec.worlds.map fun e => (e.1, { e.2 with token := 0 }) } })

/-- SLEEP_EXIT: the end of package sleep is a warm start. -/
def execSleepExit (s : State) : Out :=
  .next (if s.sec.power = .sleep then { s.warmStart with sec := { s.warmStart.sec with power := .on } } else s)

/-- The sister table of a die after self-test, with clusters excluded (R285). -/
def sisterOf (exclude : List Nat) (die : Nat) : Sister :=
  let ok := (List.range 9).filter fun pc => !exclude.contains (9 * die + pc)
  { phys := (List.range 8).map fun n => ok.getD n 15, spare := ok.getD 8 15
    off := (List.range 8).foldl (fun (m : BitVec 8) n => if ok.length ≤ n then m ||| (1#8 <<< n) else m) 0 }

/-- The physical clusters, as die * 9 + number, that do not qualify: excluded, failing self-test, or with a core disabled (R215, R285). -/
def State.unfit (s : State) (conf : Conf) : List Nat :=
  conf.exclude ++ s.badClusters ++ (List.range 288).filterMap fun u =>
    if rowsExceed (s.failing conf u) then some (9 * (u / 72) + u % 72 % 12 / 4 + 3 * (u % 72 / 24)) else none

/-- A cold start (R377): everything at its reset value but monotonic counters, the configuration, host memory, and the order of units. -/
def State.coldReset (s : State) (power : PowerState) : State :=
  let s' := s.applyConf
  ({ (State.reset : State) with
    mem := s.mem.filter fun e => isHost e.1
    sisters := (List.range 4).map fun d => (d, sisterOf (s.unfit s'.sec.conf) d)
    sec := { index := s'.sec.index, identity := s'.sec.identity, conf := s'.sec.conf, confVersion := s.sec.confVersion, power := power }
    badRows := s.badRows, badClusters := s.badClusters
    pkg := s.pkg, npkg := s.npkg, sched := s.sched, clock := s.clock, freeCtr := s.freeCtr } : State).mapRows

/-- COLD_START. -/
def execColdStart (s : State) : Out := .next (s.coldReset .on)

/-! ## Power (R375, R376, R378) -/

/-- RETENTION_ENTRY: a core with no task. -/
def execRetentionEntry (core : Nat) (s : State) : Out :=
  .next (s.modCore core fun c => if c.run == .idle && !c.powerOff then { c with retention := true } else c)

/-- POWER_GATE_ENTRY: a core with no task and no bank held is scrubbed and keeps nothing. -/
def execPowerGateEntry (core : Nat) (s : State) : Out :=
  let c := s.core core
  .next (if c.run == .idle && c.cmds.isEmpty && c.accsOver && !c.owner.any (fun e => e.2 == .task) then
      (s.l1Empty core fun _ => true).modCore core fun c => { rowMap := c.rowMap, tick := c.tick, powerOff := true }
    else s)

/-- POWER_THROTTLE: over the power limit, or at 95 °C, cores insert stall cycles at group boundaries; later they cease. -/
def execPowerThrottle (on : Bool) (s : State) : Out := .next { s with sec := { s.sec with throttle := on } }

/-- THERMAL_TRIP: the module removes its own power; the next start is cold. -/
def execThermalTrip (s : State) : Out := .next (s.coldReset .off)

end Sys2Proof.Machine
end

