-- ==== Sys2Proof/Machine/Network.lean ====
section
/-! DEFINITION. Packets on the routers, the peg and the burrow lane, links (R326, R332 to R336, R339, R340). Which way a packet takes is
left to the events; only timing depends on it (R325). -/
namespace Sys2Proof.Machine

/-! ## Links -/

def State.link (s : State) (k : Nat) : Link := SMap.get {} s.links k
def State.setLink (s : State) (k : Nat) (x : Link) : State := { s with links := SMap.put {} s.links k x }

/-- Whether a link carries adaptive traffic. -/
def State.linkUp (s : State) (k : Nat) : Bool := let x := s.link k; !x.retired && !x.training

/-! ## Hops -/

/-- Mesh distance within a die. -/
def meshDist (a b : Nat) : Nat :=
  let d := fun (x y : Nat) => (x - y) + (y - x)
  d (a % 128 % 12) (b % 128 % 12) + d (a % 128 / 12) (b % 128 / 12)

/-- The port by which a router reaches another in one hop: a mesh neighbour's, or 6 across a bridge to any router of another die. -/
def portTo (a b : Nat) : Option Nat :=
  if a / 128 = b / 128 then meshPort a b else if b / 128 < 4 ∧ b % 128 < 72 then some 6 else none

/-- The input port by which a packet comes in from a router. -/
def inputFrom (a b : Nat) : Nat := (portTo b a).getD 6


/-- CIRC and CID of a packet's header. -/
def Pkt.circ (p : Pkt) : Bool := p.hdr.getLsbD 27
def Pkt.cid (p : Pkt) : Nat := (p.hdr.extractLsb' 32 16).toNat
def Pkt.src (p : Pkt) : Nat := (p.hdr.extractLsb' 9 9).toNat
/-- Data flits of a packet. -/
def Pkt.nfl (p : Pkt) : Nat := (p.hdr.extractLsb' 22 3).toNat

/-- The links a hop of a packet may take: the mesh link, or the bridges of the die pair, that of its path class first (R332). -/
def Pkt.links (p : Pkt) (router port : Nat) : List Nat :=
  if port = 6 then (List.range 4).map fun k => bridgeLink (p.at_ / 128) (router / 128) ((p.pcls + k) % 4) else [meshLink p.at_ port]

/-- Whether the circuit a packet was sent on is still in place. -/
def State.hasCircuit (s : State) (p : Pkt) : Bool :=
  s.launches.any fun e => match e.2 with
    | some l => l.circs.any fun c => !c.slots.isEmpty && c.id == p.cid && s.routerOf c.src == p.src && s.routerOf c.dst == p.dst
    | none => false

/-- Whether a packet is switched to an output along its circuit in the present slot (R329, R330). -/
def State.onCircuit (s : State) (p : Pkt) (port : Nat) : Bool :=
  p.circ && !p.loose && reservedOut (s.actingEntry p.at_ (s.clock % 256) s.clock) p.inp == port

/-- Whether the present slot keeps an output of a packet's router for the circuit flit of another packet that waits there (R329). -/
def State.slotKept (s : State) (p : Pkt) (port : Nat) : Bool :=
  s.pkts.any fun e => match e.2 with
    | some q => q.at_ == p.at_ && q.at_ != q.dst && s.onCircuit q port
    | none => false

/-- Whether a packet waits in its source's egress for the slots of its circuit (R330). -/
def State.awaitsSlot (s : State) (p : Pkt) : Bool := p.circ && !p.loose && p.inp == 0 && s.hasCircuit p

/-- A hop of a packet to a router: whether it is one, and whether it is non-minimal (R332). On a die the packet only crosses, no direction is
non-minimal. -/
def State.hopOk (s : State) (p : Pkt) (router : Nat) : Option Bool :=
  if p.at_ = p.dst then none
  else match portTo p.at_ router with
    | none => none
    | some port =>
      if s.onCircuit p port then
        if (p.links router port).any fun k => !(s.link k).retired then some false else none
      else if s.awaitsSlot p || s.slotKept p port || !(p.links router port).any s.linkUp then none
      else if port = 6 then (if router / 128 = p.dst / 128 then some false else none)
      else if p.at_ / 128 ≠ p.dst / 128 then some false
      else if meshDist router p.dst < meshDist p.at_ p.dst then some false
      else if p.late && p.nonmin < 8 then some true
      else none

/-- A header a router discards: a reserved KIND, or an NFL above 4. -/
def badHeader (h : BitVec 128) : Bool := 10 ≤ (h.extractLsb' 18 4).toNat || 4 < (h.extractLsb' 22 3).toNat

/-- A packet comes to a router. -/
def State.settlePkt (s : State) (k : Nat) (p : Pkt) : State :=
  let s := { s with pkts := SMap.set s.pkts k (some p) }
  if p.at_ = p.dst then (s.countN p.at_ 1 (1 + p.nfl)).landPkt k p else s

/-- Flits of a packet pass the first link that carries them; one that the link was replaying has passed (R339). -/
def State.passLink (s : State) (p : Pkt) (router port : Nat) : State :=
  match (p.links router port).find? s.linkUp with
  | some k => s.setLink k { s.link k with fails := 0 }
  | none => s

/-- A packet moves to its next router: along its circuit a flit in each slot, the last of which brings it there (R330, R332). -/
def State.movePkt (s : State) (k : Nat) (p : Pkt) (router : Nat) (nonmin : Bool) : State :=
  let port := (portTo p.at_ router).getD 6
  let on := s.onCircuit p port
  let s := if on then (s.countAt p.at_ 1).countAt p.at_ 2 else s.countN p.at_ 1 (1 + p.nfl - p.gone)
  let s := (if nonmin then s.countAt p.at_ 4 else s).passLink p router port
  if on && decide (p.gone < p.nfl) then
    { s with pkts := SMap.set s.pkts k (some { p with gone := p.gone + 1, since := s.clock, wantsPeg := false }) }
  else s.settlePkt k { p with
    at_ := router, inp := inputFrom p.at_ router, since := s.clock, loose := p.loose || (p.circ && !on), gone := 0
    nonmin := if nonmin then p.nonmin + 1 else p.nonmin, late := false, wantsPeg := false }

/-- ROUTER_PACKET_RECEIVE (R332, R336): the oldest packet with that header that has this router as a next hop moves there; a malformed one is
discarded. -/
def execRouterPacketReceive (router : Nat) (hdr : BitVec 128) (s : State) : Out :=
  .next (if badHeader hdr then s.countAt router 0x15
    else match s.pkts.find? (fun e => match e.2 with
        | some p => p.hdr == hdr && s.pegPkt != some e.1 && (s.hopOk p router).isSome
        | none => false) with
      | some (k, some p) => s.movePkt k p router ((s.hopOk p router).getD false)
      | _ => s)

/-- A change of a packet in flight. -/
def State.modPkt (s : State) (k : Nat) (f : Pkt → Pkt) : State :=
  match s.pkt k with
  | some p => { s with pkts := SMap.set s.pkts k (some (f p)) }
  | none => s

/-- NONMIN_TIMEOUT (R332): the packet has made no progress for 32 cycles. -/
def execNonminTimeout (pkt : Nat) (s : State) : Out :=
  .next (s.modPkt pkt fun p => if p.at_ = p.dst || decide (s.clock < p.since + 32) then p else { p with late := true })

/-! ## The peg (R333, R334) -/

/-- PEG_REQUEST (R333): the packet has not moved for the time-out of the configuration; one at its destination waits in the input queue there. -/
def execPegRequest (pkt : Nat) (s : State) : Out :=
  .next (match s.pkt pkt with
    | some p =>
      if p.wantsPeg || decide (s.clock < p.since + s.sec.conf.pegTimeout) then s
      else (s.modPkt pkt fun p => { p with wantsPeg := true }).countAt p.at_ 5
    | none => s)

/-- BUR of a header. -/
def withBur (h : BitVec 128) : BitVec 128 := h ||| (1#128 <<< 28)

/-- The place of a router in the ring, die by die and row by row, every other row backwards; the router of a place (log entry 91). -/
def ringPlace (r : Nat) : Nat :=
  let row := r % 128 / 12
  let col := r % 128 % 12
  72 * (r / 128) + 12 * row + if row % 2 = 0 then col else 11 - col
def ringRouter (i : Nat) : Nat :=
  let row := i % 72 / 12
  128 * (i / 72) + 12 * row + if row % 2 = 0 then i % 12 else 11 - i % 12
def pegNext (r : Nat) : Nat := ringRouter ((ringPlace r + 1) % 288)

/-- Whether firmware holds the peg while it recomputes burrow routes (R340). -/
def State.pegHeld (s : State) : Bool := s.links.any fun e => e.2.recompute

/-- PEG_ARRIVAL (R333): the peg passes to the next router of the ring; one with a request keeps it and moves its packet into the burrow
lane. -/
def execPegArrival (router : Nat) (s : State) : Out :=
  .next (if s.pegPkt.isSome || s.pegHeld || router != pegNext s.peg then s
    else
      let s := { s with peg := router, pegSeen := s.clock }
      match s.pkts.find? (fun e => match e.2 with | some p => p.wantsPeg && p.at_ == router | none => false) with
      | some (k, _) => ({ s.modPkt k fun p => { p with hdr := withBur p.hdr, wantsPeg := false } with pegPkt := some k }).countAt router 6
      | none => s)

/-- Paths of the burrow lane one hop longer: east and west first, then south and north, around retired links. Each path is written backwards,
`seen` lists the routers reached. -/
def State.burrowGrow (s : State) (paths : List (List Nat)) (seen : List Nat) : List (List Nat) × List Nat :=
  (paths.flatMap fun p => [1, 2, 3, 4].map fun d => (p, d)).foldl (fun (r : List (List Nat) × List Nat) e =>
    let a := e.1.headD 0
    let b := if e.2 = 1 then a + 1 else if e.2 = 2 then a - 1 else if e.2 = 3 then a + 12 else a - 12
    if meshPort a b == some e.2 && !(s.link (meshLink a e.2)).retired && !r.2.contains b then (r.1 ++ [b :: e.1], r.2 ++ [b]) else r) ([], seen)

/-- The lane's path within a die: of the shortest around retired links, that which goes by x first. -/
def State.burrowMesh (s : State) (dst : Nat) : Nat → List (List Nat) → List Nat → List Nat
  | 0, _, _ => [dst]
  | n + 1, paths, seen =>
    match paths.find? fun p => p.headD 0 == dst with
    | some p => p.reverse
    | none => let g := s.burrowGrow paths seen; s.burrowMesh dst n g.1 g.2

/-- The lane's path (R334): from the source's crossbar port across bridge 0, to the router in the same place of the target die, then x first
and then y (log entry 91). -/
def State.burrowPath (s : State) (src dst : Nat) : List Nat :=
  if src / 128 = dst / 128 then s.burrowMesh dst 72 [[src]] [src]
  else
    let in_ := 128 * (dst / 128) + src % 128
    src :: s.burrowMesh dst 72 [[in_]] [in_]

/-- BURROW_DELIVERY (R334): the packet passes the routers of its path, and the peg resumes its ring at the destination. -/
def execBurrowDelivery (s : State) : Out :=
  .next (match s.pegPkt with
    | some k =>
      (match s.pkt k with
       | some p =>
         let path := s.burrowPath p.at_ p.dst
         let s := path.dropLast.foldl (fun s r => s.countN r 1 (1 + p.nfl)) s
         { s.settlePkt k { p with at_ := p.dst, since := s.clock } with pegPkt := none, peg := p.dst, pegSeen := s.clock }
       | none => { s with pegPkt := none, pegSeen := s.clock })
    | none => s)

/-- PEG_REISSUE (R334): no peg has been seen for two rounds of at most 304 cycles. -/
def execPegReissue (s : State) : Out :=
  .next (if s.pegPkt.isSome || s.pegHeld || decide (s.clock < s.pegSeen + 608) then s
    else ({ s with peg := 0, pegSeen := s.clock }).countAt 0 0x14)

/-! ## Links (R339, R340) -/

/-- The number of an Ethernet port's link. -/
def portLink (port : Nat) : Nat := 16384 + port

/-- The router at a link's sending end; of a bridge and a port, router 0 of its die (log entry 91). -/
def linkRouter (k : Nat) : Nat :=
  if k < 4096 then k / 8 else if k < 16384 then 128 * ((k - 4096) / 16) else 128 * ((k - 16384) / 12)

/-- LINK_FLIT_NAK: a flit is replayed; after three failed replays of it the link retrains, and at its budget it is retired. -/
def execLinkFlitNak (link : Nat) (s : State) : Out :=
  let link := if portLink 0 ≤ link then portLink (s.portOf (link - portLink 0)) else link
  let x := s.link link
  .next (if x.retired || x.training then s
    else
      let s := s.countAt (linkRouter link) 7
      if x.fails < 3 then s.setLink link { x with fails := x.fails + 1 }
      else
        let b := x.bucket + 1
        let out := s.sec.conf.budget ≤ b
        (s.setLink link { x with fails := 0, bucket := b, training := !out, retired := out, exchange := out }).countAt (linkRouter link) 0x10)

/-- Whether some port of the package still leads to another. -/
def State.reaches (s : State) (pkg : Nat) : Bool :=
  (List.range 48).any fun p => Config.portPeer p == pkg && !(s.link (portLink (s.portOf p))).retired

/-- With the retirement of the last port toward a package the slots whose NEXT names it hear of the loss of their parent (R394, R423). -/
def State.hopsLost (s : State) (port : Nat) : State :=
  let pkg := Config.portPeer port
  if s.reaches pkg then s
  else s.fab.slots.foldl (fun s e => match e.2 with
    | some r => if !r.root && r.ndst == pkg then s.slotLostEvent r pkg else s
    | none => s) s

/-- LINK_RETRAIN_COMPLETE: the link carries traffic again; of a retired one first the exchange has succeeded, and firmware holds the peg to
recompute the burrow routes around it; then it releases the peg, RETIRE is raised, and the retirement of a port is posted to the communication
cores (R340, R422). -/
def execLinkRetrainComplete (link : Nat) (s : State) : Out :=
  let x := s.link link
  .next (if x.training then s.setLink link { x with training := false, fails := 0 }
    else if x.exchange then s.setLink link { x with exchange := false, recompute := true }
    else if x.recompute then
      if s.pegPkt.isSome then s
      else
        let s := (s.setLink link { x with recompute := false }).countAt (linkRouter link) 0x11
        if portLink 0 ≤ link then (s.retireEvent (s.portOf (link - portLink 0))).hopsLost (s.portOf (link - portLink 0)) else s
    else s)

/-- Cycles of a leak period, which the configuration gives in seconds, at 2.4 GHz. -/
def State.leakPeriod (s : State) : Nat := s.sec.conf.leak * 2400000000

/-- BUCKET_LEAK: one a period (R340). -/
def execBucketLeak (link : Nat) (s : State) : Out :=
  let x := s.link link
  .next (if s.clock < x.leakAt + s.leakPeriod then s else s.setLink link { x with bucket := x.bucket - 1, leakAt := s.clock })

/-- Steps in progress end in error by link loss (R443). -/
def MSlot.linkLost (x : MSlot) : MSlot := { x with steps := x.steps.map fun t => { t with err := some (t.err.getD 3) } }

/-- LINK_EXCHANGE_TIMEOUT: every launch is halted with link loss. -/
def execLinkExchangeTimeout (link : Nat) (s : State) : Out :=
  let x := s.link link
  .next (if x.exchange then
      (s.launches.map Prod.fst).foldl (fun s k => (s.raiseLine k).failLaunch k 3 0)
        (({ s.setLink link { x with exchange := false } with martens := s.martens.map fun (e : Nat × MSlot) => (e.1, e.2.linkLost) }).countAt (linkRouter link) 0x12)
    else s)

end Sys2Proof.Machine
end

