-- ==== Sys2Proof/Machine/Engine.lean ====
section
/-! DEFINITION. Fabric commands of a core (R388, R398 to R407), the start and completion of every engine command (R239, R244 to R246, R254), rows
between the tiles of the package, and tensor landings (R259 to R262, R390). -/
namespace Sys2Proof.Machine

/-! ## Tile addresses (R388) -/

/-- A tile address with its fields read. -/
structure Tile where
  off : Nat
  txt : Nat
  tyt : Nat
  pkg : Nat
  fab : Bool
  deriving DecidableEq, Repr

def tileOf (a : Word) : Tile :=
  ⟨(a.extractLsb' 0 19).toNat, (a.extractLsb' 32 4).toNat, (a.extractLsb' 36 4).toNat, (a.extractLsb' 40 13).toNat, a.getLsbD 56⟩

/-- Reserved bits of a tile address; of one that names a landing. -/
def tileBad (a : Word) (land : Bool) : Bool :=
  a &&& 0xFEE00000FFF80000#64 != 0#64 || (!(tileOf a).fab && (tileOf a).pkg != 0) || (land && a.extractLsb' 14 5 != 0#5)

/-- The package and the core a tile address of a core's task names: none outside the launch or outside the mesh. -/
def State.tileTarget (s : State) (lid run : Nat) (t : Tile) : Option (Nat × Nat) :=
  if t.fab then (if t.pkg < s.npkg then some (t.pkg, t.txt + 16 * t.tyt) else none)
  else match s.launch lid with
    | some l => if t.txt < l.w ∧ t.tyt < l.h then some (s.pkg, l.coreAt run t.txt t.tyt) else none
    | none => none

/-! ## Checks at issue (R253, R400 to R406) -/

/-- The source descriptor of an e.put or e.mcast, the destination of an e.get: raw bytes of the scratchpad, of either form (R249, R251). -/
def rawDescBad (d : SDesc) : Bool := d.reserved || d.space || d.bound || d.wide

/-- Whether rows of a tile inside the launch pass its partition (R400). -/
def State.rowsPass (s : State) (lid : Nat) (t : Tile) (rows : Nat) : Bool :=
  match s.launch lid with
  | some l => !t.fab && 64 * l.p < t.off / 64 + rows
  | none => false

/-- The checks of e.put, e.get and e.mcast on their buffer of `bytes` from `base`: stream, handle, bank. -/
def State.bufTraps (s : State) (n q : Nat) (d : SDesc) (base h bytes : Nat) (us : List HUse) : List (Option (Nat × Word)) :=
  let c := s.core n
  [ trapIf (rawDescBad d) cSTREAM q,
    (c.usesBad us).map (fun k => (cHANDLE, BitVec.ofNat 64 k)),
    trapIf (!(c.projected.handle h).covers [(base, bytes)]) cHANDLE h,
    (c.spFail [(base, bytes)]).map fun o => (cBANK, BitVec.ofNat 64 o) ]

/-- e.put (R401). -/
def slotEPut (h : BitVec 6) (qs : BitVec 4) (len : BitVec 16) (dar : Darith) (ord : EOrd) (es : Reg) (dest : PutDest) (be : Bool)
    (bar : BitVec 6) : SlotFn := fun x s =>
  let c := s.core x.n
  let va := srcS x es
  let vb := x.core.regs.rs (es.toNat + 1)
  let vc := x.core.regs.rs (es.toNat + 2)
  let d := parseDesc (srcQ x qs)
  let chan := dest == .chan
  let depth := (vb.extractLsb' 32 16).toNat
  let t := tileOf va
  let bytes := (if chan then 56 else 64) * len.toNat
  let base := if chan then d.base32 else d.rowBase
  s.checkedCmd x.n (firstTrap ([
    trapIf ((dest != .gva && tileBad va false) || (chan && (vb.extractLsb' 48 16 != 0#16 || depth == 0 || 4096 < depth ||
      vc.extractLsb' 32 32 != 0#32)) || (dar != .none && (d.form || !d.fmt.isIF))) cILLEGAL x.word,
    trapIf (dest == .gva && va.toNat % 64 != 0) cMISALIGN va.toNat] ++
    (s.bufTraps x.n qs.toNat d base h.toNat bytes [useRead h.toNat false]).take 3 ++ [
    trapIf (dest != .gva && (s.tileTarget c.lid c.run_ t).isNone) cBANK va.toNat,
    trapIf (dest == .rsp && s.rowsPass c.lid t len.toNat) cBANK va.toNat] ++
    (s.bufTraps x.n qs.toNat d base h.toNat bytes [useRead h.toNat false]).drop 3))
    (.ePut h qs len dar ord es dest be bar) (srcQ x qs) 0 va vb vc
def execEPut (h : BitVec 6) (qs : BitVec 4) (len : BitVec 16) (dar : Darith) (ord : EOrd) (es : Reg) (dest : PutDest) (be : Bool)
    (bar : BitVec 6) (s : State) : Out :=
  issueSolo (.ePut h qs len dar ord es dest be bar) (slotEPut h qs len dar ord es dest be bar) s

/-- e.put.land (R401). -/
def slotEPutLand (h : BitVec 6) (qs : BitVec 4) (len : BitVec 16) (ord : EOrd) (es : Reg) (chunk : BitVec 12) : SlotFn := fun x s =>
  let c := s.core x.n
  let va := srcS x es
  let d := parseDesc (srcQ x qs)
  s.checkedCmd x.n (firstTrap ([
    trapIf (tileBad va true) cILLEGAL x.word] ++
    (s.bufTraps x.n qs.toNat d d.rowBase h.toNat (64 * len.toNat) [useRead h.toNat false]).take 3 ++ [
    trapIf (s.tileTarget c.lid c.run_ (tileOf va)).isNone cBANK va.toNat] ++
    (s.bufTraps x.n qs.toNat d d.rowBase h.toNat (64 * len.toNat) [useRead h.toNat false]).drop 3))
    (.ePutLand h qs len ord es chunk) (srcQ x qs) 0 va 0 0
def execEPutLand (h : BitVec 6) (qs : BitVec 4) (len : BitVec 16) (ord : EOrd) (es : Reg) (chunk : BitVec 12) (s : State) : Out :=
  issueSolo (.ePutLand h qs len ord es chunk) (slotEPutLand h qs len ord es chunk) s

/-- e.get (R402). -/
def slotEGet (h : BitVec 6) (qd : BitVec 4) (len : BitVec 16) (ord : EOrd) (es : Reg) (rsp : Bool) : SlotFn := fun x s =>
  let c := s.core x.n
  let va := srcS x es
  let d := parseDesc (srcQ x qd)
  let t := tileOf va
  s.checkedCmd x.n (firstTrap ([
    trapIf (rsp && tileBad va false) cILLEGAL x.word,
    trapIf (!rsp && va.toNat % 64 != 0) cMISALIGN va.toNat] ++
    (s.bufTraps x.n qd.toNat d d.rowBase h.toNat (64 * len.toNat) [useWrite h.toNat false]).take 3 ++ [
    trapIf (rsp && ((s.tileTarget c.lid c.run_ t).isNone || s.rowsPass c.lid t len.toNat)) cBANK va.toNat] ++
    (s.bufTraps x.n qd.toNat d d.rowBase h.toNat (64 * len.toNat) [useWrite h.toNat false]).drop 3))
    (.eGet h qd len ord es rsp) 0 (srcQ x qd) va 0 0
def execEGet (h : BitVec 6) (qd : BitVec 4) (len : BitVec 16) (ord : EOrd) (es : Reg) (rsp : Bool) (s : State) : Out :=
  issueSolo (.eGet h qd len ord es rsp) (slotEGet h qd len ord es rsp) s

/-- The checks on a handle alone: of its use, and of its buffer's banks. -/
def State.handleTraps (s : State) (n h bytes : Nat) (us : List HUse) : List (Option (Nat × Word)) :=
  let c := s.core n
  let p := c.projected.handle h
  [ (c.usesBad us).map (fun k => (cHANDLE, BitVec.ofNat 64 k)),
    trapIf (p.rows * 64 < bytes) cHANDLE h,
    (c.spFail [(p.row0 * 64, bytes)]).map fun o => (cBANK, BitVec.ofNat 64 o) ]

/-- e.ratom (R403). -/
def slotERatom (h : BitVec 6) (ord : EOrd) (es : Reg) (op : ROp) (w4 z : Bool) : SlotFn := fun x s =>
  let va := srcS x es
  let cmp : Word := match op with | .cas => x.core.regs.rs (es.toNat + 2) | _ => 0
  s.checkedCmd x.n (firstTrap ([
    trapIf (va.toNat % (if w4 then 4 else 8) != 0) cMISALIGN va.toNat] ++ s.handleTraps x.n h.toNat 64 [useWrite h.toNat false]))
    (.eRatom h ord es op w4 z) 0 0 va (x.core.regs.rs (es.toNat + 1)) cmp
def execERatom (h : BitVec 6) (ord : EOrd) (es : Reg) (op : ROp) (w4 z : Bool) (s : State) : Out :=
  issueSolo (.eRatom h ord es op w4 z) (slotERatom h ord es op w4 z) s

/-- The operands of an e.coll (R406). -/
structure Coll where
  rid : Nat
  ifmt : Fmt
  ofmt : Fmt
  rnd : Option Rnd
  wen : Bool
  wh : Nat
  cin : Nat
  b : Int
  rank : Nat
  bad : Bool
  deriving DecidableEq, Repr

def collOf (a b : Word) (dar : Darith) : Coll :=
  let f := Fmt.ofCode (a.extractLsb' 16 4)
  let g := Fmt.ofCode (a.extractLsb' 20 4)
  let base := (b.extractLsb' 0 16).toInt
  let r := Rnd.ofCode (a.extractLsb' 24 3)
  let wen := a.getLsbD 27
  ⟨(a.extractLsb' 0 16).toNat, f, g, r, wen, (a.extractLsb' 28 6).toNat, (a.extractLsb' 34 6).toNat, base, (b.extractLsb' 16 16).toNat,
    a.extractLsb' 40 24 != 0#24 || b.extractLsb' 32 32 != 0#32 || !f.isIF || !g.isIF || f.bits != g.bits || r.isNone ||
      base < -1280 || 1023 < base || (wen && dar == .wadd)⟩

/-- e.coll (R406). -/
def slotEColl (h : BitVec 6) (len : BitVec 16) (dar : Darith) (ord : EOrd) (es : Reg) (cbase : BitVec 12) : SlotFn := fun x s =>
  let c := s.core x.n
  let va := srcS x es
  let vb := x.core.regs.rs (es.toNat + 1)
  let k := collOf va vb dar
  let p := c.projected
  let w := p.handle k.wh
  let wbad := k.wen && (k.wh == h.toNat || w.st != 0 || w.ring || decide (w.rows * 64 < 64 + 2 * len.toNat))
  let t := p.handle h.toNat
  let bytes := len.toNat * k.ifmt.bits / 8
  s.checkedCmd x.n (firstTrap [
    trapIf k.bad cILLEGAL x.word,
    trapIf wbad cHANDLE k.wh,
    (c.usesBad [useRead h.toNat false]).map fun j => (cHANDLE, BitVec.ofNat 64 j),
    trapIf (t.rows * 64 < bytes) cHANDLE h.toNat,
    (c.spFail ([(t.row0 * 64, bytes)] ++ if k.wen then [(w.row0 * 64, 64 + 2 * len.toNat)] else [])).map fun o => (cBANK, BitVec.ofNat 64 o)])
    (.eColl h len dar ord es cbase) 0 0 va vb 0
def execEColl (h : BitVec 6) (len : BitVec 16) (dar : Darith) (ord : EOrd) (es : Reg) (cbase : BitVec 12) (s : State) : Out :=
  issueSolo (.eColl h len dar ord es cbase) (slotEColl h len dar ord es cbase) s

/-- e.mcast (R404). -/
def slotEMcast (h : BitVec 6) (qs : BitVec 4) (len : BitVec 16) (ord : EOrd) (es : Reg) (group : BitVec 12) : SlotFn := fun x s =>
  let va := srcS x es
  let d := parseDesc (srcQ x qs)
  s.checkedCmd x.n (firstTrap ([
    trapIf (va.extractLsb' 14 2 != 0#2 || va.extractLsb' 28 36 != 0#36) cILLEGAL x.word] ++
    s.bufTraps x.n qs.toNat d d.rowBase h.toNat (64 * len.toNat) [useRead h.toNat false]))
    (.eMcast h qs len ord es group) (srcQ x qs) 0 va 0 0
def execEMcast (h : BitVec 6) (qs : BitVec 4) (len : BitVec 16) (ord : EOrd) (es : Reg) (group : BitVec 12) (s : State) : Out :=
  issueSolo (.eMcast h qs len ord es group) (slotEMcast h qs len ord es group) s

/-- e.sig (R405). -/
def slotESig (ord : EOrd) (es : Reg) : SlotFn := fun x s =>
  let va := srcS x es
  s.checkedCmd x.n (firstTrap [
    trapIf (va.extractLsb' 26 38 != 0#38) cILLEGAL x.word]) (.eSig ord es) 0 0 va (x.core.regs.rs (es.toNat + 1)) 0
def execESig (ord : EOrd) (es : Reg) (s : State) : Out := issueSolo (.eSig ord es) (slotESig ord es) s

/-! ## Answers to commands -/

/-- The address of a refused row: the virtual line a command reads, the virtual address it writes, or its tile address (R385). -/
def Cmd.rowAddr (m : Cmd) (row : Nat) : Word :=
  match m.st, m.i with
  | .posting _, _ => BitVec.ofNat 64 row
  | _, .eCpy .. | _, .eCpyWadd .. | _, .eGath .. | _, .eScat .. | _, .eGet _ _ _ _ _ false => BitVec.ofNat 64 (64 * row)
  | _, _ => m.a

/-- A refused row raises its cause in the issuing task (R385); the command counts it as answered. A refused row of a context area aborts the
save or the restore, and no cause is raised (R273). -/
def Core.refused (c : Core) (m : Cmd) (row cause : Nat) : Core :=
  match m.i with
  | .eCtxSave .. | .eCtxRest .. =>
    let va := if m.st matches .posting _ then row else 64 * row
    c.modCmd m.id fun k => { k with err := match k.err with | some (j, e) => if va < j then some (va, cause) else some (j, e) | none => some (va, cause) }
  | _ =>
    if m.old || c.run == .ended then c
    else { c.modCmd m.id fun k => { k with told := true } with async := c.async ++ [⟨cause, 6, m.rowAddr row⟩] }

/-- Row `row` of a command is answered: accepted with data, or refused with a cause. -/
def State.cmdReply (s : State) (n id row : Nat) (data : Option (Row × Bool)) (cause : Option Nat) : State :=
  s.modCore n fun c =>
    match c.cmd id with
    | none => c
    | some m =>
      let c := match cause with | some k => c.refused m row k | none => c
      let c := match data with
        | some (d, p) => c.modCmd id fun k => { k with got := SMap.set k.got row d, gotPoison := SMap.put false k.gotPoison row p }
        | none => c
      c.answered m row

/-! ## Rows to and from tiles (R250, R385, R401, R402) -/

/-- Elements of a row under a DARITH: d op x (R250). -/
def darRow (dar : Darith) (f : Fmt) (r : Rnd) (old new : Row) : Row :=
  match dar with
  | .none => new
  | _ =>
    let n := f.bits
    BitVec.ofNat 512 (joinElems n ((List.range (512 / n)).map fun i =>
      let d := rawAt old.toNat n i
      let x := rawAt new.toNat n i
      match dar with
      | .add => convertVal f r ((valOf f d).add (valOf f x))
      | .max => rankMax f d (canon f x)
      | .min => rankMin f d (canon f x)
      | _ => x))

/-- Numbers put among those of a list that it does not hold. -/
def addRows (have_ new : List Nat) : List Nat := have_ ++ new.filter fun e => !have_.contains e

/-- A row of an engine written at a core's bank that a task of the given world owns; else the cause for which it is refused. `done` names the
handles whose generation the operation has advanced already (R218). -/
def State.tilePut (s : State) (core world off : Nat) (dar : Darith) (f : Fmt) (r : Rnd) (row : Row) (poison : Bool) (done : List Nat) :
    State × Option Nat :=
  let c := s.core core
  if c.spr.world.toNat ≠ world then (s, some cWORLD)
  else if !c.owns off then (s, some cBANK)
  else
    let old := c.row (off / 64)
    let po := poison || (dar != .none && c.rowPoison (off / 64))
    (s.setCore core (c.writeMore ⟨off / 64, darRow dar f r old row, po⟩ done), none)

/-- A row of a core's bank read. -/
def State.tileGet (s : State) (core world off : Nat) : Except Nat (Row × Bool) :=
  let c := s.core core
  if c.spr.world.toNat ≠ world then .error cWORLD
  else if !c.owns off then .error cBANK
  else .ok (c.row (off / 64), c.rowPoison (off / 64))

/-- The fields of an e.put that its rows need. -/
structure PutRows where
  base : Nat
  rows : Nat
  dar : Darith
  fmt : Fmt
  chan : Bool
  be : Bool
  bar : Nat
  deriving DecidableEq, Repr

def Cmd.putRows (m : Cmd) : Option PutRows :=
  match m.i with
  | .ePut _ _ len dar _ _ dest be bar =>
    let d := parseDesc m.qs
    some ⟨if dest = .chan then d.base32 else d.rowBase, len.toNat, dar, d.fmt, dest == .chan, be, bar.toNat⟩
  | _ => none

/-- Row i as it leaves the source: with .chan a line of 56 bytes and its flag word (R398). -/
def Core.putRow_ (c : Core) (m : Cmd) (y : PutRows) (i : Nat) : Row × Bool :=
  if y.chan then
    let o := y.base + 56 * i
    let flag := leBytes 4 ((m.c.toNat + i) % 2 ^ 32) ++ leBytes 2 m.b.toNat ++ leBytes 2 (m.b.toNat / 65536)
    (rowOf (leBytes 56 (c.spNat o 56) ++ flag), (rowsOf o 56).any c.rowPoison)
  else
    let o := y.base + 64 * i
    (BitVec.ofNat 512 (c.spNat o 64), (rowsOf o 64).any c.rowPoison)

/-- The scratchpad offset row i goes to. -/
def putOff (m : Cmd) (y : PutRows) (i : Nat) : Nat :=
  let off := (tileOf m.a).off / 64 * 64
  if y.chan then off + 64 * ((m.c.toNat % 2 ^ 32 + i) % (m.b.extractLsb' 32 16).toNat) else off + 64 * i

/-- Bytes that have performed and a barrier is to be told of (R363, R401). -/
def State.barBytes (s : State) (y : PutRows) (lid : Nat) : State := if y.be then { s with barIn := s.barIn ++ [(y.bar, 64, lid)] } else s

/-- A row of an e.put or e.get of core n reaches core `at_` of its package (R401, R402). -/
def State.engineRow (s : State) (n id row at_ : Nat) : State :=
  let c := s.core n
  match c.cmd id with
  | none => s
  | some m =>
    let world := s.worldOf m.lid
    match m.i, m.putRows with
    | .ePut .., some y =>
      let v := c.putRow_ m y row
      let done := (m.touched.filter fun k => k / 64 == at_).map (· % 64)
      let new := ((s.core at_).holders [putOff m y row / 64]).map (64 * at_ + ·)
      let r := s.tilePut at_ world (putOff m y row) y.dar y.fmt .rne v.1 v.2 done
      (match r.2 with
       | none => ((r.1.modCore n fun c => c.modCmd id fun k => { k with touched := addRows k.touched new }).barBytes y m.lid).sendReply at_ n 0
           (.rowReply n id row none none)
       | some k => r.1.sendReply at_ n 0 (.rowReply n id row none (some k)))
    | .eGet .., _ =>
      (match s.tileGet at_ world ((tileOf m.a).off / 64 * 64 + 64 * row) with
       | .ok d => s.sendReply at_ n 1 (.rowReply n id row (some d) none)
       | .error k => s.sendReply at_ n 0 (.rowReply n id row none (some k)))
    | _, _ => s

/-- REMOTE_ACCESS_ARRIVAL (R151, R401): a packet at its destination performs there; an ordered flag waits in its hold. -/
def execRemoteAccessArrival (pkt : Nat) (s : State) : Out :=
  .next (match s.pkt pkt with
    | some p =>
      if p.at_ ≠ p.dst then s
      else match p.body with
        | .access .. => if p.kind = 3 then s else s.deliverAccess pkt p
        | .engine n id row => (s.dropPkt pkt).engineRow n id row p.core
        | .reply n id r => (s.dropPkt pkt).setReply n id r
        | .rowReply n id row d k => (s.dropPkt pkt).cmdReply n id row d k
        | .flag .. | .chunk .. => s.landPkt pkt p
    | none => s)

/-! ## Landings (R259 to R262, R389, R390) -/

end Sys2Proof.Machine

namespace Sys2Proof

/-- Header fields of R389. -/
def TensorPkt.field (p : TensorPkt) (o n : Nat) : Nat := (p.hdr.extractLsb' o n).toNat
def TensorPkt.tck (p : TensorPkt) : Nat := p.field 0 4
def TensorPkt.world (p : TensorPkt) : Nat := p.field 4 4
def TensorPkt.lrow (p : TensorPkt) : Nat := p.field 8 8
def TensorPkt.nrow (p : TensorPkt) : Nat := p.field 16 7
def TensorPkt.epoch (p : TensorPkt) : Nat := p.field 24 8
def TensorPkt.tag (p : TensorPkt) : Nat := p.field 32 14
def TensorPkt.chunk (p : TensorPkt) : Nat := p.field 48 12
def TensorPkt.core (p : TensorPkt) : Nat := p.field 60 4 + 16 * p.field 64 4
def TensorPkt.rid (p : TensorPkt) : Nat := p.field 68 16
def TensorPkt.cin (p : TensorPkt) : Nat := p.field 84 6
def TensorPkt.ccnt (p : TensorPkt) : Nat := p.field 96 16
def TensorPkt.rank (p : TensorPkt) : Nat := p.field 112 16

/-- A packet the receiver discards (R389). -/
def TensorPkt.bad (p : TensorPkt) : Bool :=
  p.tck == 0 || 7 ≤ p.tck || p.field 23 1 != 0 || p.field 46 2 != 0 || p.field 90 6 != 0 || 255 < p.lrow + p.nrow ||
    ((p.tck != 2 && p.tck != 3) && p.epoch != 0) || ((p.tck == 5 || p.tck == 6) && p.ccnt != 0)

end Sys2Proof

namespace Sys2Proof.Machine

/-- A header of R389. -/
def tensorHdr (tck world lrow nrow epoch tag chunk core rid cin ccnt rank : Nat) : BitVec 128 :=
  BitVec.ofNat 128 (tck + 2 ^ 4 * world + 2 ^ 8 * lrow + 2 ^ 16 * nrow + 2 ^ 24 * epoch + 2 ^ 32 * tag + 2 ^ 48 * chunk +
    2 ^ 60 * (core % 16) + 2 ^ 64 * (core / 16) + 2 ^ 68 * rid + 2 ^ 84 * cin + 2 ^ 96 * ccnt + 2 ^ 112 * rank)

/-- Rows of a chunk, and the row of the handle's buffer where it begins: data chunks first, then one scale chunk a row. -/
def Landing.chunkRows (l : Landing) (k : Nat) : Nat := if k < l.nr * l.cpr then l.chb / 64 else 1
def Landing.chunkRow (l : Landing) (k : Nat) : Nat := if k < l.nr * l.cpr then (l.doff + k * l.chb) / 64 else l.soff / 64 + (k - l.nr * l.cpr)
def Landing.total (l : Landing) : Nat := l.nr * l.cpr + (if l.scales then l.nr else 0)

/-- Rows written by a packet whose chunk is not complete: WB is clear at once, the generation advances with the chunk (R218, R261). -/
def Core.unwitness (c : Core) (rows : List Nat) : Core :=
  { c with handles := c.handles.map fun e => if rows.any e.2.has then (e.1, { e.2 with wb := false }) else e }

/-- What a landing packet does at its core: the new core and whether it was accepted (R261, R390). -/
def Core.landPacket (c : Core) (p : TensorPkt) : Core × Bool :=
  match c.lands.find? fun l => l.tag == p.tag with
  | none => (c, false)
  | some l =>
    if l.total ≤ p.chunk || p.ccnt + 1 != l.chunkRows p.chunk || p.rows.length != p.nrow + 1 || l.chunkRows p.chunk < p.lrow + p.nrow + 1 then
      (c, false)
    else if SMap.get false l.present p.chunk then (c, true)
    else
      let new := (List.range p.rows.length).map fun i => (p.lrow + i, p.rows.getD i 0)
      let have_ := addRows (SMap.get [] l.arrived p.chunk) (new.map Prod.fst)
      let row0 := (c.handle l.h).row0 + l.chunkRow p.chunk
      let c := c.putRows (new.map fun e => ⟨row0 + e.1, e.2, p.poison.contains (e.1 - p.lrow)⟩)
      let full := have_.length == l.chunkRows p.chunk
      let c := if full then c.touch ((List.range (l.chunkRows p.chunk)).map (· + row0)) else c.unwitness (new.map fun e => row0 + e.1)
      let l' := { l with arrived := SMap.put [] l.arrived p.chunk (if full then [] else have_)
                         present := if full then SMap.put false l.present p.chunk true else l.present }
      let all := (List.range l'.total).all fun k => SMap.get false l'.present k
      let c := { c with lands := c.lands.map fun m => if m.tag = l.tag then l' else m }
      (if all && (c.handle l.h).st == 1 then c.setHandle l.h { c.handle l.h with st := 2 } else c, true)

/-- Whether a refusal of one more packet of a command's chunk is to raise HANDLE: for an e.put.land, once (R261). -/
def Core.hears (c : Core) (id : Nat) : Bool :=
  match c.cmd id with
  | some m => !m.told && (match m.i with | .ePutLand .. => true | _ => false)
  | none => false

/-- The sender of a landing packet is answered by the core it came to (R261). -/
def State.landAnswer (s : State) (at_ : Nat) (src : ReqSrc) (ok : Bool) : State :=
  match src with
  | .cmd n id row => s.sendReply at_ n 0 (.rowReply n id row none (if ok || !(s.core n).hears id then none else some cHANDLE))
  | .peer conn tag chunk => s.connSend conn 0 (.landed tag chunk ok)
  | _ => s

/-- Whether a packet belongs to a chunk that is already there. -/
def Core.chunkThere (c : Core) (p : TensorPkt) : Bool :=
  match c.lands.find? fun l => l.tag == p.tag with
  | some l => SMap.get false l.present p.chunk
  | none => false

/-- LANDING_CHUNK_ARRIVAL (R261): the packet waits while the launch is halted (R267); a discarded chunk counts DISCARD, with its first packet. -/
def execLandingChunkArrival (core : Nat) (p : TensorPkt) (s : State) : Out :=
  .next (match s.fab.tens.find? fun t => t.dest == .landing core && t.p == p with
    | none => s
    | some t =>
      let c := s.core core
      if s.lineOf c.lid then s
      else
        let s := { s with fab := { s.fab with tens := s.fab.tens.erase t } }
        let ok := c.run != .idle && c.spr.world.toNat == p.world
        let r := if ok then c.landPacket p else (c, false)
        let s := (s.setCore core r.1.settle).landAnswer core t.src r.2
        if p.lrow = 0 && (!r.2 || c.chunkThere p) then s.countAt (s.routerOf core) 0x16 else s)

/-! ## The start of a fabric command -/

/-- Packets of up to `per` rows that carry a chunk: 64 on the fabric, four on the routers (R336, R381, R389). -/
def chunkPkts (per tck world tag chunk core : Nat) (rows : List (Row × Bool)) : List TensorPkt :=
  (List.range ((rows.length + per - 1) / per)).map fun k =>
    let part := (rows.drop (per * k)).take per
    { hdr := tensorHdr tck world (per * k % 256) (part.length - 1) 0 tag chunk core 0 0 ((rows.length - 1) % 65536) 0
      rows := part.map Prod.fst, els := [], poison := (List.range part.length).filter fun i => (part.getD i (0, false)).2 }

/-- The rows of a command's source buffer with their marks. -/
def Core.rowsFrom (c : Core) (base n : Nat) : List (Row × Bool) :=
  (List.range n).map fun i => (c.row (base / 64 + i), c.rowPoison (base / 64 + i))

/-- No packet. -/
def noPkt : TensorPkt := { hdr := 0, rows := [], els := [], poison := [] }

def State.addTens (s : State) (l : List TPkt) : State := { s with fab := { s.fab with tens := s.fab.tens ++ l } }

/-- A packet given to the hop connection of a port (R381, R383). -/
def State.hopSend (s : State) (world port lid : Nat) (pay : FabPayload) : State :=
  let r := s.openConn true false world (8192 + port)
  r.1.connSend r.2 lid pay

/-- The local cores and the ports of a group. -/
def MGroup.members (g : MGroup) : List Nat := (List.range 256).filter fun n => g.cores.getLsbD n
def MGroup.links (g : MGroup) : List Nat := (List.range 48).filter fun k => g.ports.getLsbD k

/-- Packets of a group over the hop connections of its ports; of two ports joined into one, over the even one's. -/
def State.toPorts (s : State) (ports : List Nat) (group : Nat) (l : List TensorPkt) (lid : Nat) : State :=
  (ports.map s.portOf).eraseDups.foldl (fun s k => l.foldl (fun s p => s.hopSend p.world k lid (.multicast group k p)) s) s

/-- A multicast packet at the port switch goes to every member of a group, once for each set bit (R395). -/
def State.replicate (s : State) (group : Nat) (p : TensorPkt) (src : ReqSrc) (lid : Nat) : State :=
  let g := SMap.get {} s.fab.groups group
  (s.addTens (g.members.map fun n => ⟨if p.tck == 4 then .landing n else .result n, p, src, lid, false⟩)).toPorts g.links group [p] lid

/-- A contribution's elements (R59, R406): of max and min the value as a binary64 number, which holds every value of every format, with the
rank; a result is converted once, at the root (R392; log entry 99). -/
def Coll.element (k : Coll) (dar : Darith) (raw : Nat) : RedEl :=
  match dar with
  | .wadd => let w := wfxOf k.b (k.rnd.getD .rne) (valOf k.ifmt raw); ⟨w.val, w.status, 0, false⟩
  | _ => ⟨BitVec.ofNat 128 (convert k.ifmt .fp64 .rne raw), 0, k.rank, false⟩

/-- An e.coll with its fields read. -/
structure CollCmd where
  h : Nat
  len : Nat
  dar : Darith
  cbase : Nat
  k : Coll
  deriving DecidableEq, Repr

def Cmd.coll (m : Cmd) : Option CollCmd :=
  match m.i with
  | .eColl h len dar _ _ cbase => some ⟨h.toNat, len.toNat, dar, cbase.toNat, collOf m.a m.b dar⟩
  | _ => none

def CollCmd.chunks (y : CollCmd) : Nat := (y.len + 1023) / 1024

/-- Packets the result of chunk j comes in, of up to 64 rows. Those of a result are numbered from 2j, the witness of the chunk is 32 + j: so a
command's list of what it has had names them. -/
def CollCmd.parts (y : CollCmd) (j : Nat) : Nat := (min 1024 (y.len - 1024 * j) * (y.k.ofmt.bits / 8) + 4095) / 4096
def CollCmd.results (y : CollCmd) (j : Nat) : List Nat := (List.range (y.parts j)).map (2 * j + ·)
def collRank (j : Nat) : Nat := 32 + j
/-- All that is due to an e.coll. -/
def CollCmd.due (y : CollCmd) : List Nat :=
  (List.range y.chunks).flatMap y.results ++ if y.k.wen then (List.range y.chunks).map collRank else []
/-- Whether the result of chunk j is there, and whether all results are. -/
def CollCmd.has (y : CollCmd) (m : Cmd) (j : Nat) : Bool := (y.results j).all m.acked.contains
def CollCmd.hasAll (y : CollCmd) (m : Cmd) : Bool := (List.range y.chunks).all (y.has m)
def CollCmd.hasRanks (y : CollCmd) (m : Cmd) : Bool := (List.range y.chunks).all fun j => m.acked.contains (collRank j)
/-- Elements of chunk j; the bytes they take, from an offset. -/
def CollCmd.count (y : CollCmd) (j : Nat) : Nat := min 1024 (y.len - 1024 * j)
def Core.collBytes (c : Core) (y : CollCmd) (j : Nat) : Nat × Nat :=
  let b := y.k.ifmt.bits / 8
  ((c.handle y.h).row0 * 64 + 1024 * j * b, y.count j * b)

/-- The fields of a reduction's packets that all packets of a chunk share. -/
structure RedHdr where
  tck : Nat
  world : Nat
  epoch : Nat
  chunk : Nat
  rid : Nat
  cin : Nat
  ccnt : Nat
  rank : Nat
  deriving DecidableEq, Repr

/-- The packets that carry elements, `per` of them a row, at most 64 rows a packet (R381, R389); `poison` lists places among the elements. -/
def RedHdr.packets (f : RedHdr) (per : Nat) (els : List RedEl) (poison : List Nat) : List TensorPkt :=
  let total := (els.length + per - 1) / per
  (List.range (max 1 ((total + 63) / 64))).map fun k =>
    let part := (els.drop (64 * per * k)).take (64 * per)
    { hdr := tensorHdr f.tck f.world (64 * k) ((part.length + per - 1) / per - 1) f.epoch 0 f.chunk 0 f.rid f.cin f.ccnt f.rank
      rows := [], els := part, total := total
      poison := (poison.filter fun i => 64 * per * k ≤ i && i < 64 * per * (k + 1)).map (· - 64 * per * k) }

/-- Elements of a contribution in a row: a number of R58 or a value with its rank takes 16 bytes (R391). -/
def redPer : Nat := 4

/-- The contribution of chunk j of an e.coll. -/
def Core.collPkts (c : Core) (y : CollCmd) (world epoch j : Nat) : List TensorPkt :=
  let b := y.k.ifmt.bits / 8
  let o := (c.collBytes y j).1
  RedHdr.packets ⟨2, world, epoch, y.cbase + j, y.k.rid, y.k.cin, 0, y.k.rank⟩ redPer
    ((List.range (y.count j)).map fun i => y.k.element y.dar (c.spNat (o + i * b) b))
    ((List.range (y.count j)).filter fun i => c.rowPoison ((o + i * b) / 64))

/-- The tile address a request to another package carries: the absolute core, and an offset (R388). -/
def tileAddr (core off : Nat) : Nat := off + 2 ^ 32 * (core % 16) + 2 ^ 36 * (core / 16) + 2 ^ 56

/-- A row of a tile address past the 19 bits of its offset: no partition reaches it (R388, R400). -/
def offPast (addr : Nat) : Bool := addr / 2 ^ 19 % 2 ^ 13 != 0

/-- A command waits for a number of answers. -/
def State.waitFor (s : State) (n : Nat) (m : Cmd) (k : Nat) : State := s.modCore n fun c => c.modCmd m.id fun j => { j with st := .fabric k }

/-- The flag file a signal for a cluster of a launch goes to: of a cluster whose gang has not come back yet, the queue of the gang (R283). -/
def Launch.fileFor (l : Launch) (cl : Nat) : Nat :=
  match l.incoming.find? fun e => e.2.2 == cl with
  | some (run, rel, _) => (l.clusters.getD run []).getD rel cl
  | none => cl

/-- The flag file an e.sig for a cluster of this package goes to: it needs a launch of the world there (R405). -/
def State.sigFile (s : State) (world cl : Nat) : Option Nat :=
  match s.holderOf cl with
  | some l => if l.world = world then some (l.fileFor cl) else none
  | none => none

/-- The latest epoch armed for a key (R392). -/
def epochKey (world rid chunk : Nat) : Nat := world * 2 ^ 28 + rid * 2 ^ 12 + chunk
def State.epochOf (s : State) (world rid chunk : Nat) : Nat :=
  match SMap.get none s.fab.epochs (epochKey world rid chunk) with
  | some e => e.1
  | none => 0

/-- A fabric command starts (R400 to R406). -/
def State.startFabric (s : State) (n : Nat) (m : Cmd) : State :=
  let c := (s.core n).seen m
  let world := s.worldOf m.lid
  let a := m.a.toNat
  let run := fun (k : Nat) => s.modCore n fun c => c.modCmd m.id fun j => { j with st := .running (c.tick + 7 + k) }
  let fault := fun (k fa : Nat) => s.modCore n fun c => c.abandon m k (BitVec.ofNat 64 fa)
  match m.i with
  | .ePut _ _ len dar _ _ dest _ _ =>
    (match m.putRows with
     | none => s
     | some y =>
       if dest = .gva then
         (match s.linesFault m.lid true ((List.range len.toNat).map (· + a / 64)) with
          | some (k, fa) => fault k fa
          | none => run len.toNat)
       else match s.tileTarget m.lid c.run_ (tileOf m.a) with
         | none => s
         | some (p, t) =>
           let rows := (List.range len.toNat).filter fun i => !m.acked.contains i
           let s := s.waitFor n m rows.length
           rows.foldl (fun s i =>
             if p = s.pkg then s.sendEngineRow n t 5 1 (.engine n m.id i)
             else
               let v := c.putRow_ m y i
               let kind := if y.chan then FabKind.send (tensorHdr 5 world 0 0 0 0 0 t 0 0 0 0) else .tileWrite dar y.fmt .rne
               s.request world p m.lid (.cmd n m.id i)
                 ⟨0, 0, 0, kind, tileAddr t (putOff m y i), 1, bytesOf v.1, 0, if v.2 then 1 else 0⟩) s)
  | .ePutLand _ _ len _ _ chunk =>
    let d := parseDesc m.qs
    (match s.tileTarget m.lid c.run_ (tileOf m.a) with
     | none => s
     | some (p, t) =>
       let pk := chunkPkts (if p = s.pkg then 4 else 64) 1 world (a % 16384) chunk.toNat t (c.rowsFrom d.rowBase len.toNat)
       if p = s.pkg then
         (List.range pk.length).foldl (fun s i => s.sendChunk n t ⟨.landing t, pk.getD i noPkt, .cmd n m.id i, m.lid, false⟩)
           (s.waitFor n m pk.length)
       else
         let r := (s.waitFor n m pk.length).openConn false false world p
         pk.foldl (fun s q => s.connSend r.2 m.lid (.tensor q)) r.1)
  | .eGet _ _ len _ _ rsp =>
    if !rsp then
      let lines := (List.range len.toNat).map (· + a / 64)
      (match s.linesFault m.lid false lines with
       | some (k, fa) => fault k fa
       | none => s.beginCmd n m 4 len.toNat (s.farLines m.lid false lines))
    else match s.tileTarget m.lid c.run_ (tileOf m.a) with
      | none => s
      | some (p, t) =>
        let rows := (List.range len.toNat).filter fun i => !m.acked.contains i
        let s := s.waitFor n m rows.length
        rows.foldl (fun s i =>
          if p = s.pkg then s.sendEngineRow n t 0 0 (.engine n m.id i)
          else s.request world p m.lid (.cmd n m.id i) ⟨0, 0, 0, .tileRead, tileAddr t ((tileOf m.a).off / 64 * 64 + 64 * i), 1, [], 0, 0⟩) s
  | .eRatom _ o _ op w4 z =>
    (match s.lineLoc m.lid (a / 64) true with
     | .error k => fault k a
     | .ok (.fab p pa) =>
       (s.waitFor n m 1).request world p m.lid (.cmd n m.id 0)
         ⟨0, 0, 0, .atomic op (if w4 then 4 else 8) z (o.acq || o.rel), pa / 64 * 64 + a % 64, 0, [], m.b.setWidth 128, m.c.setWidth 128⟩
     | .ok _ => run 1)
  | .eColl .. =>
    (match m.coll with
     | some y =>
       (s.waitFor n m y.due.length).addTens ((List.range y.chunks).flatMap fun j =>
         (c.collPkts y world (s.epochOf world y.k.rid (y.cbase + j)) j).map fun p => ⟨.contribution none, p, .none, m.lid, false⟩)
     | none => s)
  | .eMcast _ _ len _ _ group =>
    let d := parseDesc m.qs
    let pk := fun (per : Nat) => chunkPkts per 4 world (a % 16384) (a / 65536 % 4096) 0 (c.rowsFrom d.rowBase len.toNat)
    let g := SMap.get {} s.fab.groups group.toNat
    let sends := g.members.flatMap fun t => (pk 4).map fun p => (t, p)
    let s := (s.waitFor n m sends.length).toPorts g.links group.toNat (pk 64) m.lid
    (List.range sends.length).foldl (fun s i =>
      let e := sends.getD i (0, noPkt)
      s.sendChunk n e.1 ⟨.landing e.1, e.2, .cmd n m.id i, m.lid, false⟩) s
  | .eSig .. =>
    let cl := a / 256 % 32
    let p := a / 8192 % 8192
    let amount := m.b.toNat % 2 ^ 32
    if p = s.pkg then
      (match s.sigFile world cl with
       | some f => if s.flagsFull f then s else (s.waitFor n m 1).sendFlag n f (a % 256) amount (some (n, m.id))
       | none => (s.waitFor n m 1).cmdReply n m.id 0 none (some cWORLD))
    else if s.npkg ≤ p then (s.waitFor n m 1).cmdReply n m.id 0 none (some cWORLD)
    else (s.waitFor n m 1).request world p m.lid (.cmd n m.id 0) ⟨0, 0, 0, .sig, a, 0, [], BitVec.ofNat 128 amount, 0⟩
  | _ => s

/-! ## The end of a fabric command -/

/-- Whether a payload still stands in a connection of this package, sent or waiting to be. -/
def State.inConn (s : State) (p : FabPayload → Bool) : Bool :=
  s.fab.conns.any fun e => match e.2 with
    | some c => c.out.any (fun o => p o.payload) || c.queue.any fun q => p q.2
    | none => false

/-- The rows of a multicast to other packages are still on their way: no member answers it (R395), it ends with the transport's
acknowledgements (log entry 99). -/
def State.travels (s : State) (m : Cmd) : Bool :=
  match m.i with
  | .eMcast _ _ _ _ _ group => s.inConn fun p => match p with
      | .multicast g _ q => g == group.toNat && q.tag == m.a.toNat % 16384 && q.chunk == m.a.toNat / 65536 % 4096
      | _ => false
  | _ => false

/-- Rows an e.get has received and not written yet; every row it fills is written by one operation (R218). -/
def Core.getRows (c : Core) (m : Cmd) (rows : Nat) (key : Nat → Nat) : Core :=
  let r0 := (parseDesc m.qd).rowBase / 64
  let new := (List.range rows).filter fun i => m.got.any fun e => e.1 == key i
  (c.putRows (new.map fun i => ⟨r0 + i, SMap.get 0 m.got (key i), SMap.get false m.gotPoison (key i)⟩)).touch ((List.range rows).map (· + r0))

/-- The old value of an atomic in row ROW0 of its command's handle (R403). -/
def Core.ratomRow (c : Core) (m : Cmd) (h : Nat) (v : Nat) (poison : Bool) : Core :=
  c.writeRows [⟨((c.seen m).handle h).row0, BitVec.ofNat 512 (v % 2 ^ 64), poison⟩]

/-- An atomic at its home slice (R296, R403). -/
def State.atomicHome (s : State) (world pa : Nat) (op : ROp) (n : Nat) (z : Bool) (b cmp : Nat) (comp : Bool) : State × Nat × Bool :=
  let r := s.homeRead pa n world
  let s := r.1
  let old := r.2.1
  if r.2.2 then r
  else
    let new := match op with
      | .aop o => atomic o (8 * n) z old (b % 2 ^ (8 * n))
      | .cas => if old = cmp % 2 ^ (8 * n) then b % 2 ^ (8 * n) else old
    ((s.homeStore (pa / 64) world false false comp).storeNat pa n new, old, false)

/-- Whether a line of a launch's address space lies in another package. -/
def State.isFar (s : State) (lid line : Nat) : Bool := match s.lineLoc lid line true with | .ok (.fab ..) => true | _ => false

/-- Every row of a handle's buffer counts as written. -/
def Core.touchHandle (c : Core) (h : Nat) : Core := c.touch ((List.range (c.handle h).rows).map (· + (c.handle h).row0))

/-- A fabric command whose data are at hand is finished. -/
def State.finishFabric (s : State) (n : Nat) (m : Cmd) : State :=
  let c := (s.core n).seen m
  let a := m.a.toNat
  match m.i with
  | .ePut _ _ len _ _ _ dest _ _ =>
    (match m.putRows with
     | none => s
     | some y =>
       if dest = .gva then
         let lines := (List.range len.toNat).map (· + a / 64)
         match s.linesFault m.lid true lines with
         | some (k, fa) => s.modCore n fun c => c.abandon m k (BitVec.ofNat 64 fa)
         | none =>
           let r := s.putSpansGlobal n m ((List.range len.toNat).map fun i =>
             let v := c.putRow_ m y i
             ⟨a + 64 * i, bytesOf v.1, v.2⟩)
           let s := (lines.filter fun k => !s.isFar m.lid k).foldl (fun s _ => s.barBytes y m.lid) r.1
           s.placeCmd n m r.2
       else s.placeCmd n m 0)
  | .eGet _ _ len _ _ rsp =>
    if rsp then (s.modCore n fun c => c.getRows m len.toNat id).placeCmd n m 0
    else
      let lines := (List.range len.toNat).map (· + a / 64)
      (match s.linesFault m.lid false lines with
       | some (k, fa) => s.modCore n fun c => c.abandon m k (BitVec.ofNat 64 fa)
       | none =>
         let r := s.gatherLines n m lines
         (r.1.modCore n fun c => c.getRows r.2 len.toNat (· + a / 64)).placeCmd n m 0)
  | .eRatom h _ _ op w4 z =>
    if m.acked.isEmpty then
      (match s.lineLoc m.lid (a / 64) true with
       | .error k => s.modCore n fun c => c.abandon m k m.a
       | .ok (.mem pa _) =>
         let r := s.atomicHome (s.worldOf m.lid) (pa / 64 * 64 + a % 64) op (if w4 then 4 else 8) z m.b.toNat m.c.toNat
           (s.lineComp m.lid (a / 64))
         (r.1.modCore n fun c => c.ratomRow m h.toNat r.2.1 r.2.2).placeCmd n m 0
       | .ok _ => s)
    else (s.modCore n fun c => c.ratomRow m h.toNat (SMap.get 0 m.got 0).toNat (SMap.get false m.gotPoison 0)).placeCmd n m 0
  | _ => s.placeCmd n m 0

/-- A reduction gives a handle up: full, its generation advanced, for a witness with WB (R406). -/
def Core.giveHandle (c : Core) (m : Cmd) (h : Nat) (wb : Bool) : Core :=
  let c := c.touchHandle h
  let c := c.setHandle h { c.handle h with st := 2, wb := wb }
  (c.modCmd m.id fun k => { k with taken := k.taken.erase h }).settle

/-- A reduction gives up hK with the last result, and WH with the last of its witness; with nothing more due it ends. -/
def State.giveColl (s : State) (n : Nat) (m : Cmd) (y : CollCmd) : State :=
  let results := y.hasAll m
  let ranks := y.k.wen && y.hasRanks m
  s.modCore n fun c =>
    let c := c.onView m fun v =>
      let v := if results && m.taken.contains y.h then v.giveHandle m y.h false else v
      if ranks && m.taken.contains y.k.wh then v.giveHandle m y.k.wh (!m.acked.contains collFailed) else v
    if results && (ranks || !y.k.wen) then (match c.cmd m.id with | some k => c.endCmd k | none => c) else c

/-! ## Start and completion of every command -/

/-- Whether a command is at one end of a ring before another: its items are found from a pointer that moves when the commands that came
before it there complete (R244). -/
def Core.ringBusy (c : Core) (m : Cmd) (h : Nat) (consumer : Bool) : Bool :=
  c.cmds.any fun j => j.id != m.id && j.lid == m.lid && (j.uses.any fun v => v.h == h && (v.ring.map Prod.fst) == some consumer) &&
    match j.st with
    | .abandoned => false
    | .queued => j.id < m.id && j.handler == m.handler
    | _ => true

/-- The handles and rings of a command fit (R239, R244). -/
def Core.usesFit (c : Core) (m : Cmd) : Bool :=
  m.uses.all fun u => match u.ring with
    | some (end_, n) => decide (n ≤ (if end_ then (c.handle u.h).available else (c.handle u.h).room)) && !c.ringBusy m u.h end_
    | none => m.taken.contains u.h

/-- The engine a command may start on: 0 and 1 copy, 2 gather, 3 context save, 4 the fabric. -/
def State.freeEngine (s : State) (n cls : Nat) : Option Nat :=
  let ns := (List.range 8).map (clusterCore (clusterOf n))
  let used := fun e => ns.any fun k => (s.core k).cmds.any fun m => m.onEngine && m.eng == e
  let ctx := ns.any fun k => (s.core k).cmds.any fun m => engClass m.i == some 3 && m.st != .queued && m.st != .abandoned
  match cls with
  | 0 => if !used 0 then some 0 else if !used 1 then some 1 else none
  | 1 => if !used 2 then some 2 else none
  | 2 => some 4
  | _ => if ctx then none else some 3

/-- Whether a command whose completion is a release must wait for what it covers (R246, R322). -/
def Core.relWaits (c : Core) (m : Cmd) : Bool :=
  m.releases && ((c.accs.any fun a => a.id < m.id && !a.isFence) || c.cmdsBefore m.id)

/-- Whether a command must wait to start for what it releases, because what it does elsewhere is itself seen there: an e.sig and an e.ratom with
.rel (R246, R403, R405), the contributions of a reduction that is a release (R322). A reduction does not wait for the results of an earlier one,
which may need its own contributions elsewhere. -/
def Core.relStarts (c : Core) (m : Cmd) : Bool :=
  match m.i with
  | .eSig .. | .eRatom .. => !c.relWaits m
  | .eColl .. => !m.releases || !((c.accs.any fun a => a.id < m.id && !a.isFence) ||
      c.cmds.any fun k => k.id < m.id && k.st != .abandoned && !(k.i matches .eColl ..))
  | _ => true

/-- A context command behind another of its cluster that came earlier (R284). A request of the scheduler comes to the engine when every core of
the cluster stands still, so no command comes after it (`State.canLeave`). -/
def State.ctxBehind (s : State) (n : Nat) (m : Cmd) : Bool :=
  let cl := clusterOf n
  (List.range 8).any fun k => (s.core (clusterCore cl k)).cmds.any fun q =>
    engClass q.i == some 3 && q.st == .queued && decide (q.at_ < m.at_)

/-- The halt line keeps a command of task mode from its engine (R257, R407). -/
def State.lineHolds (s : State) (m : Cmd) : Bool :=
  match s.launch m.lid with | some l => l.line && !l.finished && !m.handler | none => false

/-- Whether a command may start, and on which engine. -/
def State.mayStart (s : State) (n : Nat) (m : Cmd) : Option Nat :=
  let c := s.core n
  match engClass m.i with
  | none => none
  | some k =>
    let first := !c.cmds.any fun j => j.id < m.id && j.lid == m.lid && engClass j.i == some k && j.waiting
    let posts := match m.i with | .ePut _ _ _ _ _ _ _ true _ => c.accs.any fun a => a.isPost && a.id < m.id | _ => false
    let closed := match m.cpy with | some y => y.ss == .ws && (s.wsWriteHeld (dieOf n) || c.refresh) | none => false
    if m.st == .queued && first && !s.lineHolds m && !posts && !closed && c.relStarts m && (c.seen m).usesFit m &&
        !c.cmdBlocked m.id m.acq && !(k == 3 && s.ctxBehind n m) then s.freeEngine n k else none

/-- The engine on which a command starts now: among the cores of the cluster with a command that may start there, the round robin of the
engine names the next (R284). -/
def State.startsOn (s : State) (n : Nat) (m : Cmd) : Option Nat :=
  match s.mayStart n m with
  | none => none
  | some e =>
    if 3 ≤ e then some e
    else
      let cl := clusterOf n
      let r := SMap.get 0 (s.cluster cl).rr e
      let may := fun (k : Nat) => let j := clusterCore cl k; (s.core j).cmds.any fun q => s.mayStart j q == some e
      match ((List.range 8).map fun k => (r + k) % 8).find? may with
      | some k => if clusterCore cl k = n then some e else none
      | none => none

/-- The round robin of an engine moves past the core it has served (R284). -/
def State.served (s : State) (n e : Nat) : State :=
  if 3 ≤ e then s
  else
    let cl := clusterOf n
    let k := ((List.range 8).find? fun k => clusterCore cl k == n).getD 0
    let t := s.cluster cl
    s.setCluster cl { t with rr := SMap.put 0 t.rr e ((k + 1) % 8) }

/-- The global lines of a fabric or context command. -/
def Cmd.globalLines (m : Cmd) : List Nat :=
  let a := m.a.toNat
  match m.i with
  | .ePut _ _ len _ _ _ .gva _ _ | .eGet _ _ len _ _ false => (List.range len.toNat).map (· + a / 64)
  | .eRatom .. => [a / 64]
  | .eCtxSave _ _ _ units | .eCtxRest _ _ _ units => areaLines a (min units.toNat 384)
  | _ => []

/-- A command is taken in hand by its engine, which translates its addresses (R309). -/
def State.startCmd (s : State) (core : Nat) (m : Cmd) (e : Nat) : State :=
  let s := s.walkFor m.lid (m.globalLines.map (64 * ·))
  match m.cpy, m.gath with
  | some y, _ => s.startCopy core m y e
  | none, some y => s.startGath core m y
  | none, none =>
    match m.i with
    | .eCtxSave .. => s.beginCmd core m e 1 []
    | .eCtxRest _ _ _ units => s.beginCmd core m e 1 (s.farLines m.lid false (areaLines m.a.toNat (min units.toNat 384)))
    | _ => s.startFabric core m

/-- ENGINE_COMMAND_START (R239, R284). -/
def execEngineCommandStart (core id : Nat) (s : State) : Out :=
  .next (match (s.core core).cmd id with
    | none => s
    | some m =>
      match s.startsOn core m with
      | none => s
      | some e => ((s.served core e).startCmd core m e).modCore core fun c => c.onView m fun v => v.ringStates m)

/-- Data of a command that runs are put in place. -/
def State.finishCmd (s : State) (n : Nat) (m : Cmd) : State :=
  match m.cpy, m.gath with
  | some y, _ => s.finishCopy n m y
  | none, some y => s.finishGath n m y
  | none, none =>
    match m.i with
    | .eCtxSave h _ core units => s.finishSave n m h.toNat core.toNat units.toNat
    | .eCtxRest h _ core units => s.finishRest n m h.toNat core.toNat units.toNat
    | _ => s.finishFabric n m

/-- A launch whose cores wait for this core's earlier commands may start, or come back, now (R132, R354, R355). -/
def State.retryStart (s : State) (n : Nat) : State :=
  let lid := (s.core n).lid
  if (s.core n).run == .waiting then
    (match s.launch lid with
     | some l => if l.incoming.isEmpty then s.tryStart lid else s.tryResume lid
     | none => s)
  else s

/-- ENGINE_COMMAND_COMPLETE (R238, R245, R246). A halt stops a fabric command, whose rows into the scratchpad wait with it (R267, R407). -/
def execEngineCommandComplete (core id : Nat) (s : State) : Out :=
  let c := s.core core
  .next (match c.cmd id with
    | none => s
    | some m =>
      if c.relWaits m then s
      else
        let holds := engClass m.i == some 2 && s.lineHolds m
        let s := match m.st with
          | .running due => if c.opDue due && !holds then s.finishCmd core m else s
          | .fabric left =>
            if holds then s
            else (match m.coll with
              | some y => s.giveColl core m y
              | none => if left = 0 && !s.travels m then s.finishCmd core m else s)
          | .posting 0 | .placed => (s.settleSave core m).modCore core fun c => c.endCmd ((c.cmd id).getD m)
          | _ => s
        (if engClass m.i == some 3 then s.lowerLine m.lid else s).retryStart core)

end Sys2Proof.Machine
end

