-- ==== Sys2Proof/Machine/Steps.lean ====
section
/-! DEFINITION. Collective steps as the port switch performs them (R439 to R443), failure of a reduction (R435) and of a program (R414), and
the end of a program (R412). -/
namespace Sys2Proof.Machine

/-! ## Where a row lies (R439) -/

/-- A row of a step's buffer: in memory of this package, a tile of it, another package with the request's address, or a fault; of memory with the
C bit of its leaf. -/
inductive RowAt
  | mem (pa : Nat) (comp : Bool)
  | tile (core off : Nat)
  | far (pkg addr : Nat) (tile : Bool)
  | bad (cause : Nat)
  deriving DecidableEq, Repr

/-- Row r of a buffer of a program's launch. -/
def State.rowAt (s : State) (lid addr : Nat) (tile : Bool) (r : Nat) (store : Bool) : RowAt :=
  if tile then
    let t := tileOf (BitVec.ofNat 64 addr)
    let off := t.off / 64 * 64 + 64 * r
    match s.tileTarget lid 0 t with
    | some (p, n) => if p = s.pkg then .tile n off else .far p (tileAddr n off) true
    | none => .bad cBANK
  else
    match s.lineLoc lid ((addr + 64 * r) % 2 ^ 64 / 64) store with
    | .ok (.mem pa _) => .mem (pa / 64 * 64) (store && s.lineComp lid ((addr + 64 * r) % 2 ^ 64 / 64))
    | .ok (.fab p pa) => .far p (pa / 64 * 64) false
    | .ok _ => .bad cWORLD
    | .error k => .bad k

/-- The walk to row r of a buffer in memory (R306). -/
def State.rowWalk (s : State) (lid addr : Nat) (tile : Bool) (r : Nat) : State :=
  if tile then s else s.walkFor lid [(addr + 64 * r) % 2 ^ 64]

/-- A row of this package read (R441, R442). -/
def State.readRowAt (s : State) (world : Nat) : RowAt → Except Nat (State × Row × Bool)
  | .mem pa _ =>
    let r := s.homeRead pa 64 world
    .ok (r.1, BitVec.ofNat 512 r.2.1, r.2.2)
  | .tile n off => (s.tileGet n world off).map fun v => (s, v.1, v.2)
  | .far .. => .error cWORLD
  | .bad k => .error k

/-- A row of this package written. -/
def State.writeRowAt (s : State) (world : Nat) (row : Row) (poison : Bool) : RowAt → Except Nat State
  | .mem pa comp => .ok ((s.homeStore (pa / 64) world true poison comp).storeBytes pa (bytesOf row))
  | .tile n off =>
    let r := s.tilePut n world off .none .fp32 .rne row poison []
    (match r.2 with | none => .ok r.1 | some k => .error k)
  | .far .. => .error cWORLD
  | .bad k => .error k

/-! ## Failure of a reduction (R406, R435) -/

/-- The rows of the chunks an e.coll still lacks are marked poisoned, and those of its witness handle; nothing more is due to it. -/
def Core.failColl (c : Core) (m : Cmd) (y : CollCmd) : Core :=
  let left := (List.range y.chunks).filter fun j => !y.has m j
  let rows := left.flatMap fun j => rowsOf (c.collBytes y j).1 (c.collBytes y j).2
  let w := c.handle y.k.wh
  let rows := if y.k.wen && m.taken.contains y.k.wh then rows ++ (List.range w.rows).map (· + w.row0) else rows
  { c with spPoison := rows.foldl (fun t r => SMap.put false t r true) c.spPoison }.modCmd m.id fun k =>
    { k with st := .fabric 0, acked := collFailed :: y.due }

/-- Whether a command is an e.coll of a launch for a RID that has its handles. -/
def Core.collFor (c : Core) (lid rid : Nat) (m : Cmd) : Option CollCmd :=
  match m.coll with
  | some y => if m.lid = lid ∧ y.k.rid = rid ∧ (c.seen m).usesFit m ∧ !m.acked.contains collFailed then some y else none
  | none => none

/-- k.rfail (R435). -/
def State.rfail (s : State) (lid world rid : Nat) : State :=
  let s := { s with fab := { s.fab with slots := s.fab.slots.filter fun e => match e.2 with
    | some r => !(r.world == world && r.rid == rid)
    | none => true } }
  { s with cores := s.cores.map fun (e : Nat × Core) =>
      (e.1, e.2.cmds.foldl (fun c m => match c.collFor lid rid m with | some y => c.onView m fun v => v.failColl m y | none => c) e.2) }

/-! ## Control writes of steps (R440) -/

/-- A control write to a package: rows of the receiver toward the sender, and 65,536 more toward the receiver; no rows: the partner is
gone. -/
def State.sendCtl (s : State) (world pkg lid : Nat) (k : StepKey) (v : Nat) : State :=
  if pkg = s.pkg then { s with fab := { s.fab with ctsIn := s.fab.ctsIn ++ [(k, v)] } }
  else if s.npkg ≤ pkg then s
  else
    let r := s.openConn false true world pkg
    r.1.connSend r.2 lid (.cts k v)

def toReceiver : Nat := 65536

def StepOp.recvKey (x : MSlot) (t : StepOp) : StepKey := ⟨x.world, t.rid, t.step, t.from_, x.rank⟩
def StepOp.sendKey (x : MSlot) (t : StepOp) : StepKey := ⟨x.world, t.rid, t.step, x.rank, t.to_⟩
def StepOp.receives (t : StepOp) : Bool := t.kind == 1 || t.kind == 2
def StepOp.sends (t : StepOp) : Bool := t.kind == 0 || t.kind == 2

/-- A step makes itself known to its partners. -/
def State.announce (s : State) (x : MSlot) (t : StepOp) (rows : Nat) : State :=
  let s := if t.receives then s.sendCtl x.world t.pfrom x.lid (t.recvKey x) rows else s
  if t.sends then s.sendCtl x.world t.pto x.lid (t.sendKey x) (toReceiver + rows) else s

/-! ## The end of a program (R412, R414) -/

def MSlot.step (x : MSlot) (id : Nat) : Option StepOp := x.steps.find? fun t => t.id == id
def MSlot.modStep (x : MSlot) (id : Nat) (f : StepOp → StepOp) : MSlot := { x with steps := x.steps.map fun t => if t.id = id then f t else t }

/-- The program of a slot has ended: its types return to the firmware, which takes what is queued, its timers stop (R412). -/
def State.endProgram (s : State) (m k : Nat) (run : MRun) : State :=
  let x := s.marten m k
  let s := s.setMarten m k { x with run := run, emask := 0, timers := [], queue := [], held := [], locks := [] }
  if k = 0 then s
  else ((x.queue ++ x.held ++ x.locks.filterMap Prod.snd).filter fun e => e.type != 8 && e.type != 9).foldl
    (fun s e => s.modMarten m 0 fun y => y.post e) s

/-- The stop record of a communication core (R268). -/
def MSlot.record (x : MSlot) (m stop : Nat) : List Byte :=
  leBytes 1 4 ++ leBytes 1 stop ++ leBytes 2 m ++ leBytes 4 0 ++ leBytes 8 x.cyc.toNat ++ leBytes 8 x.pc ++ leBytes 1 (min x.queue.length 255) ++
    leBytes 39 0

def State.martenRecord (s : State) (m k stop : Nat) : State :=
  let x := s.marten m k
  match s.launch x.lid with
  | some l => s.stopRecord l (l.mcoreSlot m) (x.record m stop)
  | none => s

/-- A program meets a fault, itself or in a step it has posted, which may outlive it (R412, R414). -/
def State.martenFault (s : State) (m k cause : Nat) : State :=
  let x := s.marten m k
  let s := (s.martenRecord m k cause).count 0x1B
  let s := (x.armed ++ x.steps.map StepOp.rid).eraseDups.foldl (fun s rid => s.rfail x.lid x.world rid) s
  let s := x.steps.foldl (fun s t => s.announce x t 0) s
  (s.endProgram m k .fault).modMarten m k fun x => { x with cause := cause, steps := [], waits := [] }

/-! ## Rows of a step on their way -/

/-- A row sent on to the step's receiver. -/
def State.sendRow (s : State) (x : MSlot) (t : StepOp) (r : Nat) (row : Row) (poison : Bool) : State :=
  if t.pto = s.pkg then { s with fab := { s.fab with rowsIn := s.fab.rowsIn ++ [(t.sendKey x, r, poison, row)] } }
  else
    let c := s.openConn false false x.world t.pto
    c.1.connSend c.2 x.lid (.stepRow (t.sendKey x) r poison row)

/-- A row of a multicast, as one packet (R395, R404). -/
def State.mcastRow (s : State) (x : MSlot) (t : StepOp) (r : Nat) (row : Row) (poison : Bool) : State :=
  s.replicate (t.addr2 % 4096)
    { hdr := tensorHdr 4 x.world (r % 256) 0 0 t.step (t.addr2 / 65536 % 4096) 0 0 0 ((t.rows - 1) % 65536) 0, rows := [row], els := []
      poison := if poison then [0] else [] } .none x.lid

/-- A write of row r that goes to another package. -/
def State.farWrite (s : State) (m k : Nat) (x : MSlot) (t : StepOp) (r pkg addr : Nat) (tile : Bool) (row : Row) (poison : Bool) : State :=
  s.request x.world pkg x.lid (.step m k x.lid t.id (2 * r + 1))
    ⟨0, 0, 0, if tile then .tileWrite .none .fp32 .rne else .write, addr, 1, bytesOf row, 0, if poison then 1 else 0⟩

/-- Row r is written at the receiving side of a step; the row counts as performed, or once another package answers. -/
def State.placeRow (s : State) (m k : Nat) (x : MSlot) (t : StepOp) (r : Nat) (row : Row) (poison : Bool) : State :=
  let s := if t.kind = 3 then s.rowWalk x.lid t.addr2 t.tile2 r else s.rowWalk x.lid t.addr t.tile r
  let at_ := if t.kind = 3 then s.rowAt x.lid t.addr2 t.tile2 r true else s.rowAt x.lid t.addr t.tile r true
  match at_ with
  | .far p a tile => s.farWrite m k x t r p a tile row poison
  | a =>
    match s.writeRowAt x.world row poison a with
    | .ok s => s.modMarten m k fun x => x.modStep t.id fun t => { t with acked := r :: t.acked }
    | .error e => s.martenFault m k e

/-- What a step does with source row r once it is read. -/
def State.rowRead (s : State) (m k : Nat) (x : MSlot) (t : StepOp) (r : Nat) (row : Row) (poison : Bool) : State :=
  let sent := fun (s : State) => s.modMarten m k fun x => x.modStep t.id fun t => { t with sent := r :: t.sent }
  match t.kind with
  | 0 => (sent s).sendRow x t r row poison
  | 4 => (sent s).mcastRow x t r row poison
  | _ => s.placeRow m k x t r row poison

/-- A step takes source row r in hand: it is read here, or asked of another package. -/
def State.takeRow (s : State) (m k id r : Nat) : State :=
  let x := s.marten m k
  match x.step id with
  | none => s
  | some t =>
    if t.got.contains r then s
    else
      let s := (s.modMarten m k fun x => x.modStep id fun t => { t with got := r :: t.got }).rowWalk x.lid t.addr t.tile r
      match s.rowAt x.lid t.addr t.tile r false with
      | .far p a tile =>
        s.request x.world p x.lid (.step m k x.lid id (2 * r)) ⟨0, 0, 0, if tile then .tileRead else .read, a, if tile then 1 else 64, [], 0, 0⟩
      | a =>
        match s.readRowAt x.world a with
        | .ok (s, row, poison) => s.rowRead m k x t r row poison
        | .error e => s.martenFault m k e

/-- Every row of a step below n is taken in hand, until the program meets a fault. -/
def State.takeRows (s : State) (m k id n : Nat) : State := (List.range n).foldl (fun s r => s.takeRow m k id r) s

/-- Rows a step moves: the least its partners and it have (R443). -/
def StepOp.count (t : StepOp) : Nat := min t.rows (min (t.cts.getD t.rows) (t.peer.getD t.rows))

/-- A row arrives for a step that receives it (R440, R441): it is written, for k.rrs combined with the buffer's row and sent on. -/
def State.combineRow (s : State) (m k : Nat) (x : MSlot) (t : StepOp) (r : Nat) (old new : Row) (poison : Bool) : State :=
  let v := darRow t.dar t.fmt t.rnd old new
  let s := s.placeRow m k x t r v poison
  match (s.marten m k).step t.id with
  | some t => (s.modMarten m k fun x => x.modStep t.id fun t => { t with sent := r :: t.sent }).sendRow x t r v poison
  | none => s

/-- The row of a step in rowsIn. -/
def State.stepRow (s : State) (k : StepKey) (r : Nat) : Option (Bool × Row) :=
  (s.fab.rowsIn.find? fun e => e.1 == k && e.2.1 == r).map fun e => e.2.2

def State.dropStepRow (s : State) (k : StepKey) (r : Nat) : State :=
  { s with fab := { s.fab with rowsIn := s.fab.rowsIn.filter fun e => !(e.1 == k && e.2.1 == r) } }

/-- What an answer to a request of a step does (R385): it brings a row asked for, or says that a row has performed. -/
def State.stepAnswer (s : State) (m k id code : Nat) (row : Row) (poison : Bool) (cause : Option Nat) : State :=
  let x := s.marten m k
  let r := code / 2
  match x.step id, cause with
  | none, _ => s
  | some _, some e => s.martenFault m k e
  | some t, none =>
    if code % 2 = 1 then s.modMarten m k fun x => x.modStep id fun t => { t with acked := r :: t.acked }
    else if t.kind = 2 then
      (match s.stepRow (t.recvKey x) r with
       | some (p, new) => (s.dropStepRow (t.recvKey x) r).combineRow m k x t r row new (p || (poison && t.dar != .none))
       | none => s)
    else s.rowRead m k x t r row poison

/-- An answer comes to a step of the launch that asked; while the launch is halted it is held (R267, R413). -/
def State.stepReply (s : State) (m k lid id code : Nat) (row : Row) (poison : Bool) (cause : Option Nat) : State :=
  if (s.marten m k).lid ≠ lid then s
  else if s.lineOf lid then s.modMarten m k fun x => x.modStep id fun t => { t with late := t.late ++ [(code, row, poison, cause)] }
  else s.stepAnswer m k id code row poison cause

/-! ## Matching (R440, R443) -/

/-- Program slots of a world with a step that satisfies a condition: unit, slot, step. -/
def State.findStep (s : State) (p : MSlot → StepOp → Bool) : Option (Nat × Nat × StepOp) :=
  s.martens.findSome? fun e => (e.2.steps.find? fun t => p e.2 t).map fun t => (e.1 / 4, e.1 % 4, t)

/-- A slot of a world whose program of a rank has stopped for good while none of that rank runs. -/
def State.goneRank (s : State) (world rank : Nat) : Option MSlot :=
  let mine := fun (x : MSlot) => x.world == world && x.rank == rank && x.nr != 0
  if s.martens.any fun e => mine e.2 && (e.2.run == .running || e.2.run == .stopped) then none
  else (s.martens.find? fun e => mine e.2 && (e.2.run == .ended || e.2.run == .fault)).map Prod.snd

/-- LM bytes of a slot. -/
def MSlot.lmNat (x : MSlot) (o n : Nat) : Nat :=
  leNat ((List.range n).map fun i => BitVec.ofNat 8 ((SMap.get 0 x.lm ((o + i) / 8)).toNat / 2 ^ (8 * ((o + i) % 8))))

/-- The package of a rank (R437). -/
def MSlot.rankPkg (x : MSlot) (r : Nat) : Nat := x.lmNat (x.rtab + 2 * r) 2 % 8192

/-- CLEAR_TO_SEND_ARRIVAL (R440): the sender's step learns the receiver's rows and moves its own, or the receiver's step the sender's rows; a
partner whose program is gone answers so. Deliveries of a halted launch wait (R413). -/
def execClearToSendArrival (k : StepKey) (rows : Nat) (s : State) : Out :=
  let up := toReceiver ≤ rows
  let n := rows % toReceiver
  let drop := { s with fab := { s.fab with ctsIn := s.fab.ctsIn.erase (k, rows) } }
  let note := fun (t : StepOp) => { t with err := if n = 0 then some 2 else t.err }
  .next (if !s.fab.ctsIn.contains (k, rows) then s
    else if up then
      match s.findStep fun x t => t.receives && t.recvKey x == k && t.peer.isNone with
      | some (m, c, t) =>
        if s.lineOf (s.marten m c).lid then s
        else drop.modMarten m c fun x => x.modStep t.id fun t => { note t with peer := some n }
      | none =>
        (match s.goneRank k.world k.receiver with
         | some x => drop.sendCtl k.world (x.rankPkg k.sender) x.lid k 0
         | none => s)
    else
      match s.findStep fun x t => t.sends && t.sendKey x == k && t.cts.isNone with
      | some (m, c, t) =>
        if s.lineOf (s.marten m c).lid then s
        else
          let s := drop.modMarten m c fun x => x.modStep t.id fun t => { note t with cts := some n }
          if t.kind = 0 then s.takeRows m c t.id (min n t.rows) else s
      | none =>
        (match s.goneRank k.world k.sender with
         | some x => drop.sendCtl k.world (x.rankPkg k.receiver) x.lid k toReceiver
         | none => s))

/-- STEP_ROW_ARRIVAL (R440, R441, R443): a row past the lesser count is discarded; one of a k.rrs waits for the receiver beyond. -/
def execStepRowArrival (k : StepKey) (row : Nat) (poison : Bool) (data : Row) (s : State) : Out :=
  .next (if !s.fab.rowsIn.contains (k, row, poison, data) then s
    else match s.findStep fun x t => t.receives && t.recvKey x == k with
      | none => s
      | some (m, c, t) =>
        let x := s.marten m c
        if s.lineOf x.lid || t.got.contains row then s
        else if t.rows ≤ row then s.dropStepRow k row
        else if t.kind = 1 then ((s.dropStepRow k row).modMarten m c fun x => x.modStep t.id fun t => { t with got := row :: t.got }).placeRow
          m c x t row data poison
        else if t.cts.isNone then s
        else if t.dar = .none then ((s.dropStepRow k row).modMarten m c fun x => x.modStep t.id fun t => { t with got := row :: t.got }).combineRow
          m c x t row 0 data poison
        else
          match s.rowAt x.lid t.addr t.tile row false with
          | .far .. => s.takeRow m c t.id row
          | a =>
            match s.readRowAt x.world a with
            | .ok (s, old, p) => ((s.dropStepRow k row).modMarten m c fun x => x.modStep t.id fun t => { t with got := row :: t.got }).combineRow
                m c x t row old data (poison || p)
            | .error e => s.martenFault m c e)

/-- Whether rows a step has sent are not yet acknowledged. -/
def State.rowsFly (s : State) (x : MSlot) (t : StepOp) : Bool :=
  if t.kind = 4 then
    let mine := fun (p : TensorPkt) => p.tag == t.step && p.chunk == t.addr2 / 65536 % 4096 && p.world == x.world && p.tck == 4
    s.fab.tens.any (fun e => mine e.p) || s.inConn fun p => match p with
      | .multicast g _ q => g == t.addr2 % 4096 && mine q
      | _ => false
  else
    s.fab.rowsIn.any (fun e => e.1 == t.sendKey x && t.pto == s.pkg) || s.inConn fun p => match p with
      | .stepRow k _ _ _ => k == t.sendKey x
      | _ => false

/-- Whether a step has completed, and the reason where it ends in error (R441, R443). -/
def State.stepDone (s : State) (x : MSlot) (t : StepOp) : Option (Option Nat) :=
  match t.err with
  | some e => some (some e)
  | none =>
    let n := t.count
    let matched := (!t.receives || t.peer.isSome) && (!t.sends || t.cts.isSome)
    let placed := (t.kind == 0 || t.kind == 4) || n ≤ t.acked.length
    let out := !(t.sends || t.kind == 4) || (n ≤ t.sent.length && !s.rowsFly x t)
    if matched && placed && out then
      some (if (t.cts.getD t.rows) = t.rows ∧ (t.peer.getD t.rows) = t.rows then none else some 1)
    else none

/-- STEP_COMPLETE (R441, R443): answers held during a halt come in first; then OSC falls; a step that ends in error posts STEPERR to its
program, where it still runs (R412). -/
def execStepComplete (unit slot id : Nat) (s : State) : Out :=
  let x := s.marten unit slot
  .next (match x.step id with
    | none => s
    | some t =>
      if s.lineOf x.lid then s
      else match t.late with
      | (code, row, poison, cause) :: l =>
        (s.modMarten unit slot fun x => x.modStep id fun t => { t with late := l }).stepAnswer unit slot id code row poison cause
      | [] => match s.stepDone x t with
        | none => s
        | some e =>
          let s := s.modMarten unit slot fun x => { x with steps := x.steps.filter fun u => u.id != id }
          (match e with
           | none => s
           | some r =>
             let s := s.count 0x1C
             if x.run == .running then
               s.modMarten unit slot fun x => x.post ⟨9, noConn, 0, BitVec.ofNat 64 (t.rid + 65536 * t.step + 2 ^ 30 * r), x.lid⟩
             else s))

end Sys2Proof.Machine
end

