-- ==== Sys2Proof/Machine/Fabric.lean ====
section
/-! DEFINITION. The port switch: transport (R379 to R384, R422, R425), requests of other packages (R385, R386), reduction slots (R391 to R394,
R433), multicast (R395), combining (R397). -/
namespace Sys2Proof.Machine

/-! ## Replies (R385) -/

/-- The cause a refusal carries in its first byte. -/
def replyCause (ok : Bool) (data : List Byte) : Option Nat := if ok then none else some (data.getD 0 (BitVec.ofNat 8 cWORLD)).toNat

/-- A value for a k.ldg has come (R419): the register is written, or the program meets the fault. -/
def State.ldgReply (s : State) (m k d : Nat) (row : Word) (poison : Bool) (cause : Option Nat) : State :=
  match cause with
  | some e => s.martenFault m k e
  | none => s.modMarten m k fun x => { x with
      waits := x.waits.erase d
      k := if d = 0 then x.k else SMap.put 0 x.k d row
      kPoison := if d = 0 then x.kPoison else SMap.put false x.kPoison d poison }

/-- Whether a request brings data back. -/
def FabKind.brings : FabKind → Bool
  | .read | .atomic .. | .tileRead => true
  | _ => false

/-- The data of the row a command asked for. -/
def State.cmdAnswer (s : State) (n id row : Nat) (q : FabReq) (data : List Byte) (poison : Bool) (cause : Option Nat) : State :=
  let s := match (s.core n).cmd id, cause with
    | some m, none => (match m.putRows with | some y => s.barBytes y m.lid | none => s)
    | _, _ => s
  s.cmdReply n id row (if FabKind.brings q.kind && cause.isNone then some (rowOf data, poison) else none) cause

/-- A reply reaches who waits for it; a second one finds nobody. -/
def State.reply (s : State) (tag : Nat) (ok poison : Bool) (data : List Byte) : State :=
  match SMap.get none s.fab.reqs tag with
  | none => s
  | some q =>
    let s := { s with fab := { s.fab with reqs := SMap.erase s.fab.reqs tag } }
    let cause := replyCause ok data
    match q.src with
    | .acc n id => s.setReply n id { Reply.data1 (leNat data) poison with cause := cause }
    | .cmd n id row => s.cmdAnswer n id row q.req data poison cause
    | .step m k lid id code => s.stepReply m k lid id code (rowOf data) poison cause
    | .ldg m k lid d => if (s.marten m k).lid = lid then s.ldgReply m k d (BitVec.ofNat 64 (leNat data)) poison cause else s
    | .tlbi n => { s with tlbis := s.tlbis.map fun t => if t.core = n then { t with outside := t.outside - 1 } else t }
    | .wait queue lid k =>
      if cause.isNone then
        (match (s.queue queue).items.find? fun i => i.lid == lid with
         | some i =>
           let w := (parseRcd i.rcd).waitWord k
           if w.2 ≤ leNat data then s.meetWait queue lid k else s
         | none => s)
      else s
    | .rec_ n pa => s.modCore n fun c => { c with recs := c.recs.map fun e =>
        if e.pkg = q.peer ∧ e.pa = pa then { e with got := some (rowOf data, poison), cause := cause } else e }
    | .release world lid pa dseq => if cause.isNone then s.request world q.peer lid .none (writeReq pa (leBytes 8 dseq) false) else s
    | .peer .. | .none => s

/-! ## Reduction slots (R391, R392) -/

/-- The key of a slot. -/
def State.slotOf (s : State) (world rid chunk : Nat) : Option (Nat × RSlot) :=
  s.fab.slots.findSome? fun e => match e.2 with
    | some r => if r.world = world ∧ r.rid = rid ∧ r.chunk = chunk then some (e.1, r) else none
    | none => none

def State.freeRSlot (s : State) (k : Nat) : State := { s with fab := { s.fab with slots := SMap.erase s.fab.slots k } }

/-- The rank of a value, a binary64 number, under max or min (R68; log entry 99). -/
def redKey (op v : Nat) : Int :=
  if op = 1 then rankKey .fp64 v
  else if (floatVal .fp64 v).isNan then 2 ^ 70
  else -(rankKey .fp64 v)

/-- Two elements of one place joined (R60, R68, R392). -/
def joinEl (op : Nat) (a b : RedEl) : RedEl :=
  if op = 0 then ⟨a.val + b.val, a.status ||| b.status, 0, false⟩
  else
    let ka := redKey op a.val.toNat
    let kb := redKey op b.val.toNat
    if kb < ka then a
    else if ka < kb then b
    else { (if b.rank < a.rank then b else a) with tie := true }

/-- Elements of a packet joined to those of a slot, from element `off` on. -/
def joinEls (op : Nat) (a : List (Option RedEl)) (off : Nat) (b : List RedEl) : List (Option RedEl) :=
  (List.range (max a.length (off + b.length))).map fun i =>
    match a.getD i none, (if off ≤ i then b[i - off]? else none) with
    | some x, some y => some (joinEl op x y)
    | some x, none => some x
    | none, y => y

/-- No element. -/
def noEl : RedEl := ⟨0, 0, 0, false⟩

/-- An element as a result: converted once into OFMT (R61, R392). S of the element goes with the result in `status`; no rule names a
field or an event for it, and the core that receives the result takes the value alone (log entry 94). -/
def RSlot.out (r : RSlot) (e : RedEl) : RedEl :=
  let v := if r.op = 0 then Wfx.toVal r.b ⟨e.val, e.status⟩ else valOf .fp64 e.val.toNat
  { e with val := BitVec.ofNat 128 (convertVal (Fmt.ofCode (BitVec.ofNat 4 r.ofmt)) ((Rnd.ofCode (BitVec.ofNat 3 r.rnd)).getD .rne) v) }

/-- The result multicast on the group of a root (R392, R396), of max and min with the rank witness (R229). -/
def State.sendResult (s : State) (r : RSlot) : State :=
  let els := r.els.map (·.getD noEl)
  let send := fun (s : State) (l : List TensorPkt) => l.foldl (fun s p => s.replicate r.ndst p .none r.lid) s
  let s := send s (RedHdr.packets ⟨3, r.world, r.epoch, r.chunk, r.rid, 0, r.count - 1, 0⟩ (512 / (Fmt.ofCode (BitVec.ofNat 4 r.ofmt)).bits)
    (els.map r.out) r.poison)
  if r.op = 0 then s else send s (RedHdr.packets ⟨6, r.world, 0, r.chunk, r.rid, 0, 0, 0⟩ 32 els r.poison)

/-- The sum of a slot sent to its parent as one contribution. -/
def State.sendUp (s : State) (r : RSlot) : State :=
  let l := RedHdr.packets ⟨2, r.world, r.epoch, r.chunk, r.rid, r.ncin, r.count - 1, 0⟩ redPer (r.els.map (·.getD noEl)) r.poison
  if r.ndst = s.pkg then s.addTens (l.map fun p => ⟨.contribution none, p, .none, r.lid, false⟩)
  else
    let c := s.openConn true false r.world r.ndst
    l.foldl (fun s p => s.connSend c.2 r.lid (.tensor p)) c.1

/-- A slot is lost (R394). -/
def State.loseSlot (s : State) (k : Nat) (r : RSlot) : State := ((s.freeRSlot k).count 0x1A).slotLostEvent r s.pkg

/-- SLOT_LOST. -/
def execSlotLost (slot : Nat) (s : State) : Out :=
  .next (match SMap.get none s.fab.slots slot with | some r => s.loseSlot slot r | none => s)

/-- A packet of a contribution is applied to its slot: SEEN and COUNT change once every row of the input has been applied (R392). -/
def State.applyContribution (s : State) (k : Nat) (r : RSlot) (p : TensorPkt) : State :=
  let off := p.lrow * redPer
  let rows := SMap.get 0 r.got p.cin + (p.els.length + redPer - 1) / redPer
  let r := { r with
    els := joinEls r.op r.els off p.els, poison := (r.poison ++ p.poison.map (off + ·)).eraseDups, got := SMap.put 0 r.got p.cin rows }
  let r := if rows < p.total then r else { r with seen := r.seen ||| (1#64 <<< p.cin), count := r.count + p.ccnt + 1 }
  if r.seen ≠ r.expect then { s with fab := { s.fab with slots := SMap.set s.fab.slots k (some r) } }
  else if r.count ≠ r.ncon then s.loseSlot k r
  else if r.root then (s.freeRSlot k).sendResult r
  else (s.freeRSlot k).sendUp r

/-- What R392 does with a contribution before a slot is looked at: the latest epoch armed makes it stale. -/
def State.stale (s : State) (p : TensorPkt) : Bool := p.epoch < s.epochOf p.world p.rid p.chunk

/-- REDUCTION_CONTRIBUTION (R392, R433). One without a slot is held, counted once. -/
def execReductionContribution (hop : Option Nat) (p : TensorPkt) (s : State) : Out :=
  .next (match s.fab.tens.find? fun t => t.dest == .contribution hop && t.p == p with
    | none => s
    | some t =>
      let s' := { s with fab := { s.fab with tens := s.fab.tens.erase t } }
      if s.stale p then s'.count 0x18
      else match s.slotOf p.world p.rid p.chunk with
        | none =>
          if t.held then s
          else { s.count 0x19 with fab := { s.fab with tens := s.fab.tens.map fun u => if u = t then { u with held := true } else u } }
        | some (k, r) => if p.epoch ≠ r.epoch ∨ r.seen.getLsbD p.cin then s'.count 0x18 else s'.applyContribution k r p)

/-! ## Results (R229, R396, R406) -/

/-- What a packet of results is of an e.coll: a part of the result of chunk j, or the witness of chunk j. -/
def CollCmd.part (y : CollCmd) (p : TensorPkt) : Nat :=
  let j := p.chunk - y.cbase
  if p.tck = 6 then collRank j else 2 * j + p.lrow / 64

/-- The e.coll a packet of results is for, and the chunk: one that has not had it yet. -/
def Core.resultFor (c : Core) (p : TensorPkt) : Option (Cmd × CollCmd × Nat) :=
  c.cmds.findSome? fun m => match m.coll, m.st with
    | some y, .fabric _ =>
      let j := p.chunk - y.cbase
      if y.k.rid ≠ p.rid ∨ p.chunk < y.cbase ∨ y.chunks ≤ j then none
      else if m.acked.contains (y.part p) || !y.due.contains (y.part p) then none
      else some (m, y, j)
    | _, _ => none

/-- The tie flags set in the entries of chunks whose rank witness has come (R228). -/
def Core.rankTies (c : Core) (m : Cmd) (y : CollCmd) : Nat :=
  let o := (c.handle y.k.wh).row0 * 64 + 64
  (((List.range y.chunks).filter fun j => m.acked.contains (collRank j)).map fun j =>
    ((List.range (y.count j)).filter fun i => 2 ^ 15 ≤ c.spNat (o + 2 * (1024 * j + i)) 2).length).sum

/-- The result overwrites the chunk's source bytes; the header of the rank witness is written with it. -/
def Core.putResult (c : Core) (m : Cmd) (y : CollCmd) (j : Nat) (p : TensorPkt) : Core :=
  let b := y.k.ifmt.bits / 8
  let o := (c.collBytes y j).1 + 64 * p.lrow
  let c := c.putSpans ((List.range p.els.length).map fun i =>
    ⟨o + i * b, leBytes b ((p.els.getD i noEl).val.toNat), p.poison.contains i⟩)
  let c := if y.k.wen && m.taken.contains y.k.wh then
      c.putRows [⟨(c.handle y.k.wh).row0,
        rowOf (witHeader (if y.dar = .min then 8 else 7) y.k.ofmt.code.toNat 16 1 (p.ccnt + 1) y.len 0 0 (c.rankTies m y)), false⟩]
    else c
  c.answered m (y.part p)

/-- The rank witness of a chunk: winning ranks with tie flags, which SUM counts. -/
def Core.putRanks (c : Core) (m : Cmd) (y : CollCmd) (j : Nat) (p : TensorPkt) : Core :=
  let h := (c.handle y.k.wh).row0 * 64
  let o := h + 64 + 2 * 1024 * j
  let c := c.putSpans ((List.range (y.count j)).map fun i =>
    let e := p.els.getD i noEl
    ⟨o + 2 * i, leBytes 2 (e.rank % 2 ^ 15 + if e.tie then 2 ^ 15 else 0), p.poison.contains i⟩)
  let c := c.putSpans [⟨h + 16, leBytes 4 (c.rankTies { m with acked := m.acked ++ [collRank j] } y), false⟩]
  c.answered m (collRank j)

/-- REDUCTION_RESULT_DELIVERY (R406): one for a halted command waits (R267); a core with no e.coll for it counts DISCARD (R434). -/
def execReductionResultDelivery (core : Nat) (p : TensorPkt) (s : State) : Out :=
  .next (match s.fab.tens.find? fun t => t.dest == .result core && t.p == p with
    | none => s
    | some t =>
      let c := s.core core
      let s' := { s with fab := { s.fab with tens := s.fab.tens.erase t } }
      match (if c.spr.world.toNat = p.world then c.resultFor p else none) with
      | some (m, y, j) =>
        if s.lineHolds m then s else s'.setCore core (c.onView m fun v => if p.tck = 6 then v.putRanks m y j p else v.putResult m y j p)
      | none => if s.lineOf c.lid then s else s'.countAt (s.routerOf core) 0x16)

/-! ## Multicast (R395) -/

/-- MULTICAST_DELIVERY: a packet that has come in by a port is replicated to the group's members here. -/
def execMulticastDelivery (group port : Nat) (p : TensorPkt) (s : State) : Out :=
  .next (match s.fab.tens.find? fun t => t.dest == .mcast (4096 * port + group) && t.p == p with
    | none => s
    | some t => { s with fab := { s.fab with tens := s.fab.tens.erase t } }.replicate group p .none t.lid)

/-! ## The receiving side of a connection (R382 to R384) -/

/-- What became of a packet of a chunk put into a landing of a package: the e.put.land has one row less to wait for, and a cause is raised in
the task that issued it, once (R261, R385, R400). -/
def State.landReport (s : State) (pkg tag chunk : Nat) (cause : Option Nat) : State :=
  let its := fun (c : Core) (m : Cmd) => match m.i, m.st with
    | .ePutLand _ _ _ _ _ k, .fabric _ =>
      k.toNat == chunk && m.a.toNat % 16384 == tag && ((s.tileTarget m.lid c.run_ (tileOf m.a)).map Prod.fst) == some pkg
    | _, _ => false
  match s.cores.findSome? fun e => (e.2.cmds.find? (its e.2)).map fun m => (e.1, m) with
  | some (n, m) => s.cmdReply n m.id 0 none (if m.told then none else cause)
  | none => s

/-- A packet of an e.mcast was discarded for want of a key: WORLD in the task that issued it, once (R384). -/
def State.mcastDenied (s : State) (group : Nat) (p : TensorPkt) : State :=
  let its := fun (m : Cmd) => match m.i with
    | .eMcast _ _ _ _ _ g => g.toNat == group && !m.told && m.a.toNat % 16384 == p.tag && m.a.toNat / 65536 % 4096 == p.chunk
    | _ => false
  match s.cores.findSome? fun e => (e.2.cmds.find? its).map fun m => (e.1, m) with
  | some (n, m) => s.modCore n fun c => c.refused m 0 cWORLD
  | none => s

/-- A packet sent was discarded at the receiver, which has no key for its world or finds its tag false: it is withdrawn, and WORLD is raised in the
task that issued it (R384). -/
def State.denied (s : State) (c psn : Nat) : State :=
  match s.conn c with
  | none => s
  | some x =>
    match x.out.find? fun o => o.psn == psn with
    | none => s
    | some o =>
      let s := s.setConn c { x with out := x.out.map fun q => if q.psn = psn then { q with payload := .void } else q }
      match o.payload with
      | .request r => s.reply r.tagId false false []
      | .tensor p => if p.tck = 1 then s.landReport x.peer p.tag p.chunk (some cWORLD) else s
      | .multicast g _ p => s.mcastDenied g p
      | _ => s

/-- A payload is delivered inside the package. -/
def State.deliverAny (s : State) (c : Nat) (x : Conn) (pay : FabPayload) : State :=
  let tens := fun (d : TDest) (p : TensorPkt) => s.addTens [⟨d, p, .none, 0, false⟩]
  match pay with
  | .request r => { s with fab := { s.fab with serve := s.fab.serve ++ [(c, { r with world := x.world })] } }
  | .reply tag ok poison data => s.reply tag ok poison data
  | .tensor p =>
    if p.bad then s.count 0x15
    else
      (match p.tck with
       | 1 => s.addTens [⟨.landing p.core, p, .peer c p.tag p.chunk, 0, false⟩]
       | 2 => tens (.contribution (some c)) p
       | 3 | 6 => tens (.result p.core) p
       | _ => s)
  | .multicast g port p => if p.bad then s.count 0x15 else tens (.mcast (4096 * port + g)) p
  | .landed tag chunk ok => s.landReport x.peer tag chunk (if ok then none else some cHANDLE)
  | .setup .. | .noSetup _ | .denied | .void | .foreign .. => s
  | .cts k rows => { s with fab := { s.fab with ctsIn := s.fab.ctsIn ++ [(k, rows)] } }
  | .stepRow k r poison row => { s with fab := { s.fab with rowsIn := s.fab.rowsIn ++ [(k, r, poison, row)] } }

/-- What an ordered connection carries: writes and sends to a channel or a fabric-window address, control writes, and what answers them (R382). -/
def FabPayload.mayOrder : FabPayload → Bool
  | .request r => (match r.kind with | .write | .send _ => true | _ => false)
  | .reply .. | .cts .. | .void => true
  | _ => false

/-- A payload that an ordered connection does not carry is malformed there (R382; log entry 103). -/
def State.deliverPayload (s : State) (c : Nat) (x : Conn) (pay : FabPayload) : State :=
  if x.ordered && !FabPayload.mayOrder pay then s.count 0x15 else s.deliverAny c x pay

/-- C and the bitmap are sent (R383). -/
def State.sendAck (s : State) (c : Nat) (x : Conn) : State :=
  { s with fab := { s.fab with acks := s.fab.acks ++ [(c, (x.rx + 2 ^ 32 - 1) % 2 ^ 32, x.rxMap)] } }

/-- A packet's bit is set and C passes every packet received in a row (R383). -/
def Conn.slide (x : Conn) : Nat → Conn
  | 0 => x
  | n + 1 => if x.rxMap.getLsbD 0 then ({ x with rx := (x.rx + 1) % 2 ^ 32, rxMap := x.rxMap >>> 1 }).slide n else x
def Conn.receive (x : Conn) (i : Nat) : Conn := ({ x with rxMap := x.rxMap ||| (1#64 <<< i) }).slide 64

/-- Packets of an ordered connection held until every earlier one has been delivered (R382). -/
def State.deliverHeld (s : State) (c : Nat) (x : Conn) : List (Nat × FabPayload) → State
  | [] => s
  | e :: l => if (x.rx + 2 ^ 32 - e.1 - 1) % 2 ^ 32 < 2 ^ 31 then (s.deliverPayload c x e.2).deliverHeld c x l else s.deliverHeld c x l

/-- Held packets in PSN order, from the next to deliver. -/
def insertPsn (from_ : Nat) (e : Nat × FabPayload) : List (Nat × FabPayload) → List (Nat × FabPayload)
  | [] => [e]
  | f :: l => if (e.1 + 2 ^ 32 - from_) % 2 ^ 32 < (f.1 + 2 ^ 32 - from_) % 2 ^ 32 then e :: f :: l else f :: insertPsn from_ e l

/-- A contribution over a hop that finds no slot is reported as not received (R433). -/
def State.refusesContribution (s : State) (x : Conn) (pay : FabPayload) : Bool :=
  match pay with
  | .tensor p => x.hop && p.tck == 2 && !p.bad && !s.stale p && (s.slotOf p.world p.rid p.chunk).isNone
  | _ => false

/-- A connection a peer opens: by asking for it, or with its first request (R380 to R382). -/
def State.peerConn (s : State) (c : Nat) (pay : FabPayload) : Option Conn :=
  let ok := fun (src world : Nat) => src < s.npkg && src != s.pkg && c < 65535 && world < 16
  match pay with
  | .request r => if ok r.src r.world then some { world := r.world, peer := r.src, hop := false } else none
  | .setup src world mode hop => if ok src world then some { world := world, peer := src, hop := hop, ordered := mode == 1 } else none
  | _ => none

/-- Whether a mode is implemented: unordered delivery, and ordered delivery on endpoint connections (R380, R382). -/
def modeServed (mode : Nat) (hop : Bool) : Bool := mode == 0 || (mode == 1 && !hop)

/-- A packet that answers nothing and carries nothing is put on the wire. -/
def State.tell (s : State) (c psn : Nat) (pay : FabPayload) : State :=
  { s with fab := { s.fab with wire := s.fab.wire ++ [{ conn := c, psn := psn, ent := 0, payload := pay }] } }

/-- Whether packets of a world are taken in: with world 0 all, with another those under its key (R384). -/
def State.keyed (s : State) (world : Nat) (authentic : Bool) : Bool := world == 0 || ((s.worldRec world).fabric.isSome && authentic)

/-- A packet of an open connection (R383). -/
def State.connReceive (s : State) (conn psn : Nat) (x : Conn) (payload : FabPayload) : State :=
  let i := (psn + 2 ^ 32 - x.rx) % 2 ^ 32
  if 2 ^ 31 ≤ i || (i < 64 && x.rxMap.getLsbD i) then
    ((s.count 0x17).connEvent conn 4 0 1 0).sendAck conn x
  else if 64 ≤ i then s
  else if s.refusesContribution x payload then (s.count 0x19).sendAck conn x
  else
    let x' := x.receive i
    let x'' := if x.ordered then
        let all := insertPsn x.rx (psn, payload) x.held
        { x' with held := all.filter fun e => !((x'.rx + 2 ^ 32 - e.1 - 1) % 2 ^ 32 < 2 ^ 31) }
      else x'
    let s := (s.setConn conn x'').sendAck conn x''
    if x.ordered then s.deliverHeld conn x'' (insertPsn x.rx (psn, payload) x.held) else s.deliverPayload conn x'' payload

/-- FABRIC_PACKET_RECEIVE (R379, R380, R383, R384): a packet for another package is in transit; one that names no connection opened here is dropped
(log entry 103). -/
def execFabricPacketReceive (conn psn : Nat) (authentic : Bool) (payload : FabPayload) (s : State) : Out :=
  .next (match payload with
    | .foreign dst _ =>
      if dst = s.pkg then s
      else { s with fab := { s.fab with transit := s.fab.transit ++ [{ conn := conn, psn := psn, ent := 0, payload := payload }] } }
    | .setup _ world mode hop =>
      if !modeServed mode hop then s.tell conn psn (.noSetup mode)
      else if !s.keyed world authentic then s.tell conn psn .denied
      else match s.conn conn, s.peerConn conn payload with
        | none, some x => s.setConn conn x
        | _, _ => s
    | .noSetup _ => s
    | .denied => s.denied conn psn
    | _ =>
      match (s.conn conn).orElse fun _ => s.peerConn conn payload with
      | none => s
      | some x => if s.keyed x.world authentic then s.connReceive conn psn x payload else s.tell conn psn .denied)

/-! ## The sending side (R381, R383, R422, R425, R428) -/

/-- Whether a packet is acknowledged by C and a bitmap. -/
def ackedBy (cum : Nat) (map : BitVec 64) (psn : Nat) : Bool :=
  (cum + 2 ^ 32 - psn) % 2 ^ 32 < 2 ^ 31 || (let i := (psn + 2 ^ 32 - cum - 1) % 2 ^ 32; i < 64 && map.getLsbD i)

/-- A bitmap of packets from a PSN on. -/
def psnMap (from_ : Nat) (l : List Nat) : Word :=
  l.foldl (fun (m : Word) p => let i := (p + 2 ^ 32 - from_) % 2 ^ 32; if i < 64 then m ||| (1#64 <<< i) else m) 0

/-- Packets missing below the highest one a bitmap acknowledges. -/
def holesOf (cum : Nat) (map : BitVec 64) (out : List Sent) : List Sent :=
  out.filter fun o => let i := (o.psn + 2 ^ 32 - cum - 1) % 2 ^ 32; i < 64 && map >>> i != 0#64

/-- The holes an acknowledgement shows, each with how many in a row have shown it; three make a SACKGAP, and the hole counts anew (R422). -/
def Conn.showHoles (x : Conn) (holes : List Sent) : SMap Nat × Bool :=
  let n := holes.map fun o => (o.psn, SMap.get 0 x.gaps o.psn + 1)
  (n.foldl (fun m e => SMap.put 0 m e.1 (if e.2 = 3 then 0 else e.2)) [], n.any fun e => e.2 == 3)

/-- FABRIC_ACK_RECEIVE (R383, R422): packets acknowledged are freed and those held for the window leave; a congestion mark posts CMARK. -/
def execFabricAckReceive (conn cum : Nat) (bitmap : BitVec 64) (mark : Bool) (s : State) : Out :=
  .next (match s.conn conn with
    | none => s
    | some x =>
      let freed := x.out.filter fun o => ackedBy cum bitmap o.psn
      let out := x.out.filter fun o => !ackedBy cum bitmap o.psn
      let holes := holesOf cum bitmap out
      let shown := x.showHoles holes
      let s := s.setConn conn { x with out := out, cum := cum, gaps := shown.1 }
      let s := match shown.2, holes with
        | true, o :: _ => s.connEvent conn 2 o.psn (psnMap o.psn (holes.map Sent.psn)) o.lid
        | _, _ => s
      let s := if mark then
          (match freed.getLast? with
           | some o => s.connEvent conn 3 0 (BitVec.ofNat 64 (o.ent + 2 ^ 32)) o.lid
           | none => s.connEvent conn 3 0 (BitVec.ofNat 64 (x.ent + 2 ^ 32)) 0)
        else s
      s.connPump conn 64)

/-- TRANSPORT_RTO_EXPIRE (R422): TIMEOUT for the oldest packet; three in a row on one entropy value post PATHLOSS. -/
def execTransportRtoExpire (conn : Nat) (s : State) : Out :=
  .next (match s.conn conn with
    | none => s
    | some x =>
      match x.out with
      | [] => s
      | o :: _ =>
        let n := if x.losses ≠ 0 ∧ x.lossEnt = o.ent then x.losses + 1 else 1
        let s := s.setConn conn { x with lossEnt := o.ent, losses := if n = 3 then 0 else n }
        let s := s.connEvent conn 1 o.psn (psnMap o.psn (x.out.map Sent.psn)) o.lid
        if n = 3 then s.connEvent conn 5 0 (BitVec.ofNat 64 o.ent) o.lid else s)

/-- Packets resent with their PSNs, each on the next enabled entropy value; how many (R425, R428). -/
def State.resend (s : State) (c : Nat) (sel : Nat → Bool) : State × Nat :=
  match s.conn c with
  | none => (s, 0)
  | some x =>
    let out := x.out.map fun o => if sel o.psn then { o with ent := nextEnt x.mask o.ent } else o
    let again := out.filter fun o => sel o.psn
    let s := s.setConn c { x with out := out }
    ({ s with fab := { s.fab with wire := s.fab.wire ++ again.map fun o => { conn := c, psn := o.psn, ent := o.ent, payload := o.payload } } }, again.length)

/-- Packets named by a PSN and a bitmap. -/
def named (psn : Nat) (map : Word) (p : Nat) : Bool := let i := (p + 2 ^ 32 - psn) % 2 ^ 32; i < 64 && map.getLsbD i

/-- TRANSIT_HOLD_EXPIRE (R379). -/
def execTransitHoldExpire (idx : Nat) (s : State) : Out := .next { s with fab := { s.fab with transit := s.fab.transit.eraseIdx idx } }

/-- A change of a connection. -/
def State.modConn (s : State) (c : Nat) (f : Conn → Conn) : State := match s.conn c with | some x => s.setConn c (f x) | none => s

/-- What the firmware does with an event (R425). -/
def State.firmware (s : State) (e : Ev) : State :=
  match e.type with
  | 1 => (s.resend e.conn fun _ => true).1.modConn e.conn fun x => { x with window := max 1 (x.window / 2) }
  | 2 => (s.resend e.conn (named e.psn e.e1)).1
  | 3 => s.modConn e.conn fun x => if (match x.halved with | some t => decide (s.clock < t + x.rto * 3 / 2) | none => false) then x
    else { x with window := max 1 (x.window / 2), halved := some s.clock }
  | 5 => s.modConn e.conn fun x =>
      let m := x.mask &&& ~~~(1#16 <<< (e.e1.toNat % 16))
      if m = 0#16 then x else { x with mask := m }
  | 7 =>
    (match s.launch e.lid with | some l => s.rfail e.lid l.world (e.e1.toNat % 65536) | none => s)
  | _ => s

/-- FIRMWARE_EVENT_ACTION (R425): the first event of slot 0 is taken and acted on. -/
def execFirmwareEventAction (unit : Nat) (s : State) : Out :=
  let x := s.marten unit 0
  .next (match x.queue with
    | [] => s
    | e :: l => (s.setMarten unit 0 ({ x with queue := l }).refill).firmware e)

/-! ## Requests of other packages (R385, R386, R397, R405) -/

/-- Whether an entry of the grant table permits an access (R386). -/
def grantOk (g : BitVec 128) (world pa : Nat) (write : Bool) : Bool :=
  let w := (g.extractLsb' 2 4).toNat
  g.getLsbD 0 && w != 0 && w == world && (!write || g.getLsbD 1) && (g.extractLsb' 12 37).toNat ≤ pa / 4096 && pa / 4096 < (g.extractLsb' 76 37).toNat

/-- Whether a request may reach an address. -/
def State.grants (s : State) (world pa : Nat) (write : Bool) : Bool :=
  populated pa && (world == 0 || (List.range 64).any fun n => grantOk (s.grant n) world pa write)

/-- The world recorded for the block of a line, with what L2 holds of it. -/
def State.recorded (s : State) (line : Nat) : Nat :=
  match s.l2Line line with
  | some x => if x.dirty then x.world else (s.block (line / 8)).world
  | none => (s.block (line / 8)).world

/-- What a served request answers: accepted, poisoned, data. -/
structure Served where
  ok : Bool
  poison : Bool
  data : List Byte
  deriving DecidableEq, Repr

def refusedWith (cause : Nat) : Served := ⟨false, false, [BitVec.ofNat 8 cause]⟩

/-- A request to memory at its home slice. -/
def State.serveMem (s : State) (r : FabReq) : State × Served :=
  let pa := r.addr
  let line := pa / 64
  let other := s.recorded line != r.world
  match r.kind with
  | .read =>
    if !s.grants r.world pa false then (s, refusedWith cWORLD)
    else
      let s := s.homeLoad line r.world
      let po := other || s.linePoison line
      let v := s.delivered pa r.rows po
      (v.1, ⟨true, po, leBytes r.rows v.2⟩)
  | .write =>
    if !s.grants r.world pa true || (r.world == 0 && other) then (s, refusedWith cWORLD)
    else ((s.homeStore line r.world (r.data.length == 64) (r.compare != 0#128) false).storeBytes pa r.data, ⟨true, false, []⟩)
  | .atomic op n z _ =>
    if !s.grants r.world pa true || other then (s, refusedWith cWORLD)
    else
      let v := s.atomicHome r.world pa op n z r.operand.toNat r.compare.toNat false
      (v.1, ⟨true, v.2.2, leBytes n v.2.1⟩)
  | _ => (s, refusedWith cWORLD)

/-- A request to a tile (R388): a row past the offsets of a tile is refused (R400). -/
def State.serveTile (s : State) (r : FabReq) : State × Served :=
  let t := tileOf (BitVec.ofNat 64 r.addr)
  let n := t.txt + 16 * t.tyt
  let put := fun (d : Darith) (f : Fmt) (m : Rnd) =>
    let v := s.tilePut n r.world t.off d f m (rowOf r.data) (r.compare != 0#128) []
    (v.1, match v.2 with | none => (⟨true, false, []⟩ : Served) | some k => refusedWith k)
  if offPast r.addr then (s, refusedWith cBANK)
  else match r.kind with
  | .tileRead =>
    (match s.tileGet n r.world t.off with
     | .ok v => (s, ⟨true, v.2, bytesOf v.1⟩)
     | .error k => (s, refusedWith k))
  | .tileWrite d f m => put d f m
  | .send _ => put .none .fp32 .rne
  | _ => (s, refusedWith cWORLD)

/-- The core a tile request goes to. -/
def FabReq.tileCore (r : FabReq) : Option Nat :=
  match r.kind with
  | .tileRead | .tileWrite .. | .send _ => some ((tileOf (BitVec.ofNat 64 r.addr)).txt + 16 * (tileOf (BitVec.ofNat 64 r.addr)).tyt)
  | _ => none

/-- A request performs and its answer is made; channel lines with a bad header are discarded (R389); an invalidation answers once every unit has reported (R311). -/
def State.serveReq (s : State) (c : Nat) (r : FabReq) : State × Option Served :=
  match r.kind with
  | .read | .write | .atomic .. => let v := s.serveMem r; (v.1, some v.2)
  | .tileRead | .tileWrite .. => let v := s.serveTile r; (v.1, some v.2)
  | .send h =>
    let p := { noPkt with hdr := h }
    if p.bad || p.tck != 5 then (s.count 0x15, none) else let v := s.serveTile r; (v.1, some v.2)
  | .sig =>
    (match s.sigFile r.world (r.addr / 256 % 32) with
     | some f => (s.flagArrives f (r.addr % 256) (r.operand.toNat % 2 ^ 32) none, some ⟨true, false, []⟩)
     | none => (s, some (refusedWith cWORLD)))
  | .tlbi =>
    (match tlbiPage (BitVec.ofNat 64 r.addr) with
     | some page =>
       let t : Tlbi := { core := foreignCore, world := r.world, page := page, left := (List.range 256).map fun k => (k, none), outside := 0
                         id := 2 ^ 32 * c + r.tagId, operand := r.addr, asked := true }
       ({ s with tlbis := s.tlbis ++ [t] }, none)
     | none => (s, some ⟨true, false, []⟩))

/-- The key of a request in the combiner. -/
def faaKey (c : Nat) (r : FabReq) : Nat := 2 ^ 32 * c + r.tagId

/-- Requests combined into one are answered with the old value and the operands before theirs, modulo 2^n (R397). -/
def State.answerAll (s : State) (n old : Nat) (poison : Bool) : Nat → List (Nat × Word) → State
  | _, [] => s
  | sum, e :: l =>
    let s := s.connSend (e.1 / 2 ^ 32) 0 (.reply (e.1 % 2 ^ 32) true poison (leBytes n ((old + sum) % 2 ^ (8 * n))))
    s.answerAll n old poison (sum + e.2.toNat) l

/-- FABRIC_REQUEST_SERVE (R385): the oldest such request; one for a tile of a halted launch waits (R267). -/
def execFabricRequestServe (r : FabReq) (s : State) : Out :=
  .next (match s.fab.serve.find? fun e => e.2 == r with
    | none => s
    | some (c, _) =>
      let held := match FabReq.tileCore r with | some n => s.lineOf (s.core n).lid | none => false
      if held then s
      else
        let s := { s with fab := { s.fab with serve := s.fab.serve.erase (c, r) } }
        let v := s.serveReq c r
        match v.2 with
        | none => v.1
        | some a =>
          match SMap.get none v.1.fab.combined (faaKey c r) with
          | some g =>
            let s := { v.1 with fab := { v.1.fab with combined := SMap.erase v.1.fab.combined (faaKey c r) } }
            if a.ok then s.answerAll g.n (leNat a.data) a.poison 0 g.members
            else g.members.foldl (fun s e => s.connSend (e.1 / 2 ^ 32) 0 (.reply (e.1 % 2 ^ 32) a.ok a.poison a.data)) s
          | none => v.1.connSend c 0 (.reply r.tagId a.ok a.poison a.data))

/-- Whether two requests may combine (R397). -/
def faaSame (a b : FabReq) : Bool :=
  a.world == b.world && a.addr == b.addr &&
    (match a.kind, b.kind with
     | .atomic (.aop .add) n _ ar, .atomic (.aop .add) m _ ar' => n == m && ar == ar'
     | _, _ => false)

/-- Members of a waiting request, itself among them. -/
def State.members (s : State) (c : Nat) (r : FabReq) : List (Nat × Word) :=
  match SMap.get none s.fab.combined (faaKey c r) with
  | some g => g.members
  | none => [(faaKey c r, r.operand.setWidth 64)]

/-- FAA_COMBINE (R397): two waiting requests, by place, become one that carries the wrapped sum; it stands at the first's place. -/
def execFaaCombine (first second : Nat) (s : State) : Out :=
  .next (match s.fab.serve[first]?, s.fab.serve[second]? with
    | some (c, a), some (d, b) =>
      if first = second || !faaSame a b then s
      else
        let n := match a.kind with | .atomic _ n _ _ => n | _ => 8
        let sum : BitVec 128 := BitVec.ofNat 128 ((a.operand.toNat + b.operand.toNat) % 2 ^ (8 * n))
        let all := s.members c a ++ s.members d b
        let serve := (s.fab.serve.set first (c, { a with operand := sum })).eraseIdx second
        { s with fab := { s.fab with
            serve := serve
            combined := SMap.set (SMap.erase s.fab.combined (faaKey d b)) (faaKey c a) (some ⟨all, n⟩) } }
    | _, _ => s)

end Sys2Proof.Machine
end

