-- ==== Sys2Proof/Machine/Marten.lean ====
section
/-! DEFINITION. The communication core: its words (R415 to R441), its timers and its halt (R413, R426). An `exec` of a word issues it on the
program slot that `curM` and `curSlot` name; a slot whose program does not run issues nothing. -/
namespace Sys2Proof.Machine

/-! ## Issue -/

/-- What a word does: the next word, a word it goes on at without a transfer, a transfer to a target, a stall, a fault. -/
inductive KRes
  | next (s : State)
  | goto (s : State) (pc : Nat)
  | jump (s : State) (target : Nat)
  | stall
  | fault (cause : Nat)

/-- k0 reads as zero (R410). -/
def MSlot.rk (x : MSlot) (r : KReg) : Word := if r.toNat = 0 then 0 else SMap.get 0 x.k r.toNat
def MSlot.writeK (x : MSlot) (r : Nat) (v : Word) : MSlot :=
  if r = 0 then x else { x with k := SMap.put 0 x.k r v, kPoison := SMap.put false x.kPoison r false }

/-- Cycles pass: CYC, and the timers that run; a timer at 1 has reached 0 (R411, R426). -/
def MSlot.tick (x : MSlot) (n : Nat) : MSlot :=
  { x with cyc := x.cyc + BitVec.ofNat 64 n, timers := x.timers.map fun (e : Nat × Nat) => (e.1, max 1 (e.2 - n)) }

/-- The word after one that issues without a taken transfer, with the loop stack (R421). -/
def kNext (pc : Nat) : List Loop → Nat × List Loop
  | [] => (pc + 1, [])
  | l :: ls => if pc = l.last then (if 1 < l.lc then (l.first, { l with lc := l.lc - 1 } :: ls) else kNext pc ls) else (pc + 1, l :: ls)

/-- The loop stack after a taken transfer. -/
def kKeep (target : Nat) (ls : List Loop) : List Loop := ls.filter fun l => decide (l.first ≤ target) && decide (target ≤ l.last)

/-- A relative target. -/
def kTarget (pc : Nat) (d : Word) : Nat := (BitVec.ofNat 64 (pc + 1) + d).toNat

/-- The slot after a word: a taken transfer and a loop back edge cost one cycle more (R417). -/
def MSlot.advance (x : MSlot) : MSlot :=
  let n := kNext x.pc x.loops
  { x.tick (if n.1 = x.pc + 1 then 1 else 2) with pc := n.1, loops := n.2 }
def MSlot.transfer (x : MSlot) (t : Nat) : MSlot := { x.tick 2 with pc := t, loops := kKeep t x.loops }


/-- A skip is no taken transfer: where the word is a level's last the level's test comes first (R421; log entry 26). -/
def MSlot.skip (x : MSlot) (t : Nat) : MSlot :=
  let n := kNext x.pc x.loops
  if n.1 = x.pc + 1 then { x.tick 1 with pc := t, loops := n.2 } else { x.tick 2 with pc := n.1, loops := n.2 }

def MSlot.runs (x : MSlot) : Bool := x.run == .running

/-- A word issues: it stalls while a register it names waits for a k.ldg, and a poisoned register it reads is a fault (R417, R419). -/
def kIssue (reads writes : List KReg) (f : State → MSlot → KRes) (s : State) : Out :=
  let m := s.curM
  let k := s.curSlot
  let x := s.marten m k
  .next (if !x.runs || s.programOver x then s
    else if (reads ++ writes).any (fun r => x.waits.contains r.toNat) then s.modMarten m k fun x => x.tick 1
    else if reads.any (fun r => r.toNat != 0 && SMap.get false x.kPoison r.toNat) then s.martenFault m k cPOISON
    else match f s x with
      | .stall => s.modMarten m k fun x => x.tick 1
      | .fault c => s.martenFault m k c
      | .next s' => s'.modMarten m k fun x => if x.runs then x.advance else x
      | .goto s' t => s'.modMarten m k fun x => if x.runs then x.skip t else x
      | .jump s' t => s'.modMarten m k fun x => if x.runs then x.transfer t else x)

/-- The slot that issues, changed. -/
def State.modCur (s : State) (f : MSlot → MSlot) : State := s.modMarten s.curM s.curSlot f

/-- A word whose effect is one register. -/
def kWrite (reads : List KReg) (d : KReg) (v : State → MSlot → Word) (s : State) : Out :=
  kIssue reads [d] (fun s x => .next (s.modCur fun y => y.writeK d.toNat (v s x))) s

def sx18 (i : BitVec 18) : Word := i.signExtend 64
def zx18 (i : BitVec 18) : Word := i.setWidth 64

/-! ## Register operations (R418) -/

def execKNop (s : State) : Out := kIssue [] [] (fun s _ => .next s) s
def execKAdd (d a b : KReg) (s : State) : Out := kWrite [a, b] d (fun _ x => x.rk a + x.rk b) s
def execKSub (d a b : KReg) (s : State) : Out := kWrite [a, b] d (fun _ x => x.rk a - x.rk b) s
def execKAnd (d a b : KReg) (s : State) : Out := kWrite [a, b] d (fun _ x => x.rk a &&& x.rk b) s
def execKOr (d a b : KReg) (s : State) : Out := kWrite [a, b] d (fun _ x => x.rk a ||| x.rk b) s
def execKXor (d a b : KReg) (s : State) : Out := kWrite [a, b] d (fun _ x => x.rk a ^^^ x.rk b) s

/-- Shifts by 64 or more give 0. -/
def kShl (a : Word) (n : Nat) : Word := if 64 ≤ n then 0 else a <<< n
def kShr (a : Word) (n : Nat) : Word := if 64 ≤ n then 0 else a >>> n

def execKShl (d a b : KReg) (s : State) : Out := kWrite [a, b] d (fun _ x => kShl (x.rk a) (x.rk b).toNat) s
def execKShr (d a b : KReg) (s : State) : Out := kWrite [a, b] d (fun _ x => kShr (x.rk a) (x.rk b).toNat) s
def execKAddi (d a : KReg) (imm : BitVec 18) (s : State) : Out := kWrite [a] d (fun _ x => x.rk a + sx18 imm) s
def execKAndi (d a : KReg) (imm : BitVec 18) (s : State) : Out := kWrite [a] d (fun _ x => x.rk a &&& zx18 imm) s
def execKOri (d a : KReg) (imm : BitVec 18) (s : State) : Out := kWrite [a] d (fun _ x => x.rk a ||| zx18 imm) s
def execKShli (d a : KReg) (imm : BitVec 6) (s : State) : Out := kWrite [a] d (fun _ x => kShl (x.rk a) imm.toNat) s
def execKShri (d a : KReg) (imm : BitVec 6) (s : State) : Out := kWrite [a] d (fun _ x => kShr (x.rk a) imm.toNat) s
def execKLi (d : KReg) (imm : BitVec 22) (s : State) : Out := kWrite [] d (fun _ _ => imm.signExtend 64) s
def execKLih (d : KReg) (imm : BitVec 16) (s : State) : Out := kWrite [d] d (fun _ x => (x.rk d <<< 16) ||| imm.setWidth 64) s

/-- The registers k.mfs reads (R411). -/
def State.mfs (s : State) (m k : Nat) (x : MSlot) (n : Nat) : Option Word :=
  if n < 8 then some (SMap.get 0 x.mb n)
  else match n with
    | 8 => some (BitVec.ofNat 64 x.lid)
    | 9 => some (BitVec.ofNat 64 m)
    | 10 => some (BitVec.ofNat 64 s.pkg)
    | 11 => some x.cyc
    | 12 => some (BitVec.ofNat 64 (1024 * (k - 1)))
    | 13 => some (BitVec.ofNat 64 x.rank)
    | 14 => some (BitVec.ofNat 64 x.nr)
    | 15 => some (BitVec.ofNat 64 x.steps.length)
    | 16 => some (BitVec.ofNat 64 x.queue.length)
    | _ => none

/-- k.mfs (R411, R418). -/
def execKMfs (d : KReg) (n : BitVec 5) (s : State) : Out :=
  kIssue [] [d] (fun s x => match s.mfs s.curM s.curSlot x n.toNat with
    | some v => .next (s.modCur fun y => y.writeK d.toNat v)
    | none => .fault cILLEGAL) s

/-! ## Memory (R419) -/

/-- An LM address, where it is a word of LM. -/
def lmAddr (a : Word) : Option Nat := if a.toNat % 8 = 0 ∧ a.toNat < 16384 then some (a.toNat / 8) else none

def execKLd (d a : KReg) (imm : BitVec 18) (s : State) : Out :=
  kIssue [a] [d] (fun s x => match lmAddr (x.rk a + sx18 imm) with
    | some o => .next (s.modCur fun y => y.writeK d.toNat (SMap.get 0 x.lm o))
    | none => .fault cBANK) s
def execKSt (d a : KReg) (imm : BitVec 18) (s : State) : Out :=
  kIssue [a, d] [] (fun s x => match lmAddr (x.rk a + sx18 imm) with
    | some o => .next (s.modCur fun y => { y with lm := SMap.put 0 y.lm o (x.rk d) })
    | none => .fault cBANK) s

/-- k.ldg: a word of the launch's address space; one of another package is awaited. -/
def execKLdg (d a : KReg) (imm : BitVec 18) (s : State) : Out :=
  kIssue [a] [d] (fun s x =>
    let va := (x.rk a + sx18 imm).toNat
    let s := s.walkFor x.lid [va]
    if va % 8 ≠ 0 then .fault cMISALIGN
    else match s.translateFor x.lid va false with
      | .error k => .fault k
      | .ok leaf =>
        match s.leafLoc leaf va with
        | .mem pa _ =>
          let r := s.homeRead pa 8 x.world
          let v := BitVec.ofNat 64 r.2.1
          let p := r.2.2
          .next (r.1.modCur fun y => let y := y.writeK d.toNat v; if d.toNat = 0 then y else { y with kPoison := SMap.put false y.kPoison d.toNat p })
        | .dev pa =>
          if !(0x10000 ≤ pa - 2 ^ 48 && pa - 2 ^ 48 < 0x30000) then .next (s.modCur fun y => y.writeK d.toNat (BitVec.ofNat 64 (s.devRead (pa - 2 ^ 48) 8)))
          else .fault cWORLD
        | .fab p pa =>
          let r := s.request x.world p x.lid (.ldg s.curM s.curSlot x.lid d.toNat) ⟨0, 0, 0, .read, pa, 8, [], 0, 0⟩
          .next (r.modCur fun y => { y with waits := d.toNat :: y.waits })
        | _ => .fault cXLATE) s

/-! ## Transfers (R420, R421) -/

/-- A conditional branch. -/
def kBranch (d a : KReg) (imm : BitVec 18) (c : Word → Word → Bool) (s : State) : Out :=
  kIssue [d, a] [] (fun s x => if c (x.rk d) (x.rk a) then .jump s (kTarget x.pc (sx18 imm)) else .next s) s

def execKBeq (d a : KReg) (imm : BitVec 18) (s : State) : Out := kBranch d a imm (fun u v => u == v) s
def execKBne (d a : KReg) (imm : BitVec 18) (s : State) : Out := kBranch d a imm (fun u v => u != v) s
def execKBlt (d a : KReg) (imm : BitVec 18) (s : State) : Out := kBranch d a imm (fun u v => u.slt v) s
def execKJmp (imm : BitVec 22) (s : State) : Out := kIssue [] [] (fun s x => .jump s (kTarget x.pc (imm.signExtend 64))) s
def execKCall (d : KReg) (imm : BitVec 22) (s : State) : Out :=
  kIssue [] [d] (fun s x =>
    .jump (s.modCur fun y => y.writeK d.toNat (BitVec.ofNat 64 (x.pc + 1))) (kTarget x.pc (imm.signExtend 64))) s
def execKRet (a : KReg) (s : State) : Out :=
  kIssue [a] [] (fun s x => if 4096 ≤ (x.rk a).toNat then .fault cILLEGAL else .jump s (x.rk a).toNat) s

/-- k.loop: a count of 0 skips the body, whose last word then does not issue for the levels outside. -/
def execKLoop (a : KReg) (imm : BitVec 18) (s : State) : Out :=
  kIssue [a] [] (fun s x =>
    let n := (x.rk a).toNat % 2 ^ 32
    let last := x.pc + 1 + imm.toNat
    if n = 0 then .goto s (last + 1)
    else if 2 ≤ x.loops.length then .fault cILLEGAL
    else .next (s.modCur fun y => { y with loops := ⟨n, x.pc + 1, last⟩ :: y.loops })) s

/-- k.end (R412). -/
def execKEnd (s : State) : Out := kIssue [] [] (fun s _ => .next (s.endProgram s.curM s.curSlot .ended)) s

/-! ## Events (R422 to R426) -/

/-- k.ewait: an entry is popped; its merge lock holds until the k.eack. -/
def execKEwait (nb : Bool) (d : KReg) (s : State) : Out :=
  kIssue [] [d, d + 1] (fun s x =>
    if d.toNat = 0 ∨ d.toNat = 15 then .fault cILLEGAL
    else match x.queue with
      | [] => if nb then .next (s.modCur fun y => (y.writeK d.toNat 0).writeK (d.toNat + 1) 0) else .stall
      | e :: l =>
        let y := ({ x with queue := l, locks := if e.merges then x.locks ++ [(e, none)] else x.locks }).refill
        .next (s.modCur fun _ => (y.writeK d.toNat e.e0).writeK (d.toNat + 1) e.e1)) s

/-- k.eack: the fresh entry behind the lock, if any, is posted. -/
def execKEack (a : KReg) (s : State) : Out :=
  kIssue [a] [] (fun s x => .next (match x.locks.find? fun l => l.1.e0 == x.rk a with
    | some l => s.modCur fun y =>
        let y := { y with locks := y.locks.erase l }
        match l.2 with | some e => y.enqueue e | none => y
    | none => s)) s

def execKEmask (a : KReg) (s : State) : Out :=
  kIssue [a] [] (fun s x =>
    let v := x.rk a
    if v.getLsbD 0 || v >>> 8 != 0#64 then .fault cILLEGAL else .next (s.modCur fun y => { y with emask := v.setWidth 8 })) s

/-- k.timer. -/
def execKTimer (a b : KReg) (s : State) : Out :=
  kIssue [a, b] [] (fun s x =>
    let n := (x.rk b).toNat % 2 ^ 32
    .next (s.modCur fun y => { y with timers := SMap.put 0 y.timers ((x.rk a).toNat % 16) (if n = 0 then 0 else n + 2) })) s

/-! ## Connections (R427 to R430) -/

/-- k.conn. -/
def execKConn (d a : KReg) (s : State) : Out :=
  kIssue [a] [d] (fun s x =>
    let p := (x.rk a).toNat % 8192
    if p = s.pkg ∨ s.npkg ≤ p then .next (s.modCur fun y => y.writeK d.toNat (BitVec.allOnes 64))
    else
      let r := s.openConn false false x.world p
      .next (r.1.modCur fun y => y.writeK d.toNat (BitVec.ofNat 64 r.2))) s

/-- The connection a program may name: its world's endpoint connections and every hop connection. -/
def State.connFor (s : State) (x : MSlot) (a : Word) : Option Conn :=
  match s.conn a.toNat with
  | some c => if c.hop || c.world == x.world then some c else none
  | none => none

/-- k.retx. -/
def execKRetx (d a b : KReg) (s : State) : Out :=
  kIssue [a, b, b + 1] [d] (fun s x =>
    if b.toNat = 15 then .fault cILLEGAL
    else match s.connFor x (x.rk a) with
      | none => .next (s.modCur fun y => y.writeK d.toNat 0)
      | some _ =>
        let r := s.resend (x.rk a).toNat (named ((x.rk b).toNat % 2 ^ 32) (x.rk (b + 1)))
        .next (r.1.modCur fun y => y.writeK d.toNat (BitVec.ofNat 64 r.2))) s

/-- k.cctl: window or RTO; a launch slot sets nothing on a hop connection. -/
def execKCctl (rto : Bool) (d a b : KReg) (s : State) : Out :=
  kIssue [a, b] [d] (fun s x =>
    match s.connFor x (x.rk a) with
    | none => .next (s.modCur fun y => y.writeK d.toNat 0)
    | some c =>
      let old := if rto then c.rto else c.window
      let v := x.rk b
      let s' := if v = 0 ∨ (c.hop ∧ s.curSlot ≠ 0) then s
        else if rto then s.setConn (x.rk a).toNat { c with rto := max (v.toNat % 2 ^ 32) 1600 }
        else (s.setConn (x.rk a).toNat { c with window := min v.toNat 64 }).connPump (x.rk a).toNat 64
      .next (s'.modCur fun y => y.writeK d.toNat (BitVec.ofNat 64 old))) s

/-- k.path. -/
def execKPath (en : Bool) (d a b : KReg) (s : State) : Out :=
  kIssue [a, b] [d] (fun s x =>
    match s.connFor x (x.rk a) with
    | none => .next (s.modCur fun y => y.writeK d.toNat 0)
    | some c =>
      let bit := 1#16 <<< ((x.rk b).toNat % 16)
      let m := if en then c.mask ||| bit else c.mask &&& ~~~bit
      let m := if m = 0#16 ∨ (c.hop ∧ s.curSlot ≠ 0) then c.mask else m
      .next ((s.setConn (x.rk a).toNat { c with mask := m }).modCur fun y => y.writeK d.toNat (m.setWidth 64))) s

/-! ## Slots, groups, flags (R431 to R436) -/

/-- A slot descriptor (R431) read from LM, none where it holds a reserved or out-of-range value. -/
def MSlot.armDesc (x : MSlot) (o : Nat) : Option RSlot :=
  let f := fun (a n : Nat) => x.lmNat (o + a) n
  let opr := f 5 1
  let b := (BitVec.ofNat 16 (f 8 2)).toInt
  let root := f 24 1 == 1
  if 4096 ≤ f 2 2 ∨ 3 ≤ opr % 4 ∨ 5 ≤ opr / 4 % 8 ∨ 32 ≤ opr ∨ 14 ≤ f 6 1 ∨ f 7 1 ≠ 0 ∨ b < -1280 ∨ 1023 < b ∨ f 10 2 = 0 ∨ f 12 4 ≠ 0 ∨
      2 ≤ f 24 1 ∨ 64 ≤ f 25 1 ∨ (root ∧ f 25 1 ≠ 0) ∨ (if root then 4096 else 8192) ≤ f 26 2 ∨ f 28 4 ≠ 0 then none
  else
    some { world := x.world, rid := f 0 2, chunk := f 2 2, epoch := f 4 1, op := opr % 4, rnd := opr / 4, ofmt := f 6 1, b := b, ncon := f 10 2
           expect := BitVec.ofNat 64 (f 16 8), seen := 0, count := 0, root := root, ncin := f 25 1, ndst := f 26 2, lid := x.lid, els := [] }

/-- The lowest free slot of the port switch. -/
def State.freeRSlotNo (s : State) : Option Nat :=
  let used := s.fab.slots.filterMap fun e => e.2.map fun _ => e.1
  (List.range (min 2048 (used.length + 1))).find? fun k => !used.contains k

/-- Contributions of a chunk sent again under a later epoch (R445). -/
def State.recontribute (s : State) (r : RSlot) : State :=
  s.cores.foldl (fun s e =>
    e.2.cmds.foldl (fun s m =>
      match m.coll, m.st with
      | some y, .fabric _ =>
        let j := r.chunk - y.cbase
        if m.lid = r.lid ∧ y.k.rid = r.rid ∧ y.cbase ≤ r.chunk ∧ j < y.chunks ∧ !y.has m j then
          s.addTens ((e.2.collPkts y r.world r.epoch j).map fun p => ⟨.contribution none, p, .none, m.lid, false⟩)
        else s
      | _, _ => s) s) s

/-- k.arm (R432): what kD receives. -/
def State.arm (s : State) (r : RSlot) : State × Word :=
  let old := s.slotOf r.world r.rid r.chunk
  if (match old with | some o => decide (r.epoch ≤ o.2.epoch) | none => false) then (s, BitVec.ofInt 64 (-2))
  else
    let s := match old with | some o => s.freeRSlot o.1 | none => s
    match s.freeRSlotNo with
    | none => (s, BitVec.allOnes 64)
    | some k =>
      let key := epochKey r.world r.rid r.chunk
      let prior := SMap.get none s.fab.epochs key
      let again := match prior with | some e => e.2 == r.lid && decide (e.1 < r.epoch) | none => false
      let latest := match prior with | some e => max e.1 r.epoch | none => r.epoch
      let s := { s with fab := { s.fab with
        slots := SMap.set s.fab.slots k (some r), epochs := SMap.set s.fab.epochs key (some (latest, r.lid)) } }
      (if again then s.recontribute r else s, BitVec.ofNat 64 k)

/-- k.arm (R431, R432): a descriptor with a field out of range raises STREAM, B beyond the range of R58 too (log entry 93). -/
def execKArm (d a : KReg) (s : State) : Out :=
  kIssue [a] [d] (fun s x =>
    let o := (x.rk a).toNat
    if o % 32 ≠ 0 ∨ 16384 ≤ o then .fault cBANK
    else match x.armDesc o with
      | none => .fault cSTREAM
      | some r =>
        let v := s.arm r
        let took := decide (v.2.toNat < 2048)
        .next (v.1.modCur fun y => { y.writeK d.toNat v.2 with armed := if !took || y.armed.contains r.rid then y.armed else r.rid :: y.armed })) s

/-- k.mgrp (R434). -/
def execKMgrp (a b : KReg) (s : State) : Out :=
  kIssue [a, b] [] (fun s x =>
    let g := (x.rk a).toNat % 4096
    let o := (x.rk b).toNat
    let base := 1024 * (s.curSlot - 1)
    if o % 8 ≠ 0 ∨ 16344 < o ∨ g < base ∨ base + 1024 ≤ g then .fault cBANK
    else if x.lmNat (o + 6) 2 ≠ 0 then .fault cSTREAM
    else .next { s with fab := { s.fab with
      groups := SMap.put {} s.fab.groups g ⟨BitVec.ofNat 48 (x.lmNat o 6), BitVec.ofNat 256 (x.lmNat (o + 8) 32)⟩ } }) s

/-- k.rfail (R435). -/
def execKRfail (a : KReg) (s : State) : Out := kIssue [a] [] (fun s x => .next (s.rfail x.lid x.world ((x.rk a).toNat % 65536))) s

/-- k.sig (R436): it stalls while a cluster switched out queues all it may (R283). -/
def execKSig (a b : KReg) (s : State) : Out :=
  kIssue [a, b] [] (fun s x =>
    let v := (x.rk a).toNat
    match s.launch x.lid with
    | some l =>
      (match (l.clusters.headD [])[v / 256]? with
       | some cl =>
         if s.flagsFull cl then .stall else .next (s.flagArrives cl (v % 256) ((x.rk b).toNat % 2 ^ 32) none)
       | none => .fault cBANK)
    | none => .fault cBANK) s

/-! ## Ranks (R437, R438) -/

def execKRset (d a b : KReg) (s : State) : Out :=
  kIssue [d, a, b] [] (fun s x =>
    let rank := (x.rk d).toNat % 65536
    let nr := (x.rk a).toNat % 65536
    let rtab := (x.rk b).toNat
    if nr = 0 ∨ nr ≤ rank ∨ rtab % 2 ≠ 0 ∨ 16384 < rtab + 2 * nr then .fault cBANK
    else .next (s.modCur fun y => { y with rank := rank, nr := nr, rtab := rtab })) s
def execKPeer (d a : KReg) (imm : BitVec 18) (s : State) : Out :=
  kIssue [a] [d] (fun s x =>
    if x.nr = 0 then .fault cILLEGAL
    else .next (s.modCur fun y => y.writeK d.toNat (BitVec.ofInt 64 (((x.rank : Int) + (x.rk a).toInt + imm.toInt) % (x.nr : Int))))) s
def execKRpkg (d a : KReg) (s : State) : Out :=
  kIssue [a] [d] (fun s x =>
    if x.nr = 0 then .fault cILLEGAL
    else .next (s.modCur fun y => y.writeK d.toNat (BitVec.ofNat 64 (x.rankPkg ((x.rk a).toNat % x.nr))))) s

/-! ## Collective steps (R439 to R441) -/

/-- A step descriptor read from LM; a fault otherwise. `rrs` also checks the fields only k.rrs uses, of which a reserved RND is a reserved
value of the descriptor and raises STREAM as R441 has it (log entry 99). -/
def State.stepDesc (s : State) (x : MSlot) (a : Word) (rrs : Bool) : Except Nat StepOp :=
  let o := a.toNat
  let f := fun (p n : Nat) => x.lmNat (o + p) n
  if o % 32 ≠ 0 ∨ 16384 ≤ o then .error cBANK
  else
    let tile := f 8 1 == 1
    let rnd := Rnd.ofCode (BitVec.ofNat 3 (f 11 1))
    let t := tileOf (BitVec.ofNat 64 (f 0 8))
    if 2 ≤ f 8 1 ∨ f 14 2 ≠ 0 ∨ f 20 4 ≠ 0 ∨ f 24 8 ≠ 0 ∨ f 16 4 = 0 ∨ 65535 < f 16 4 ∨
        (rrs ∧ (14 ≤ f 9 1 ∨ 4 ≤ f 10 1 ∨ 8 ≤ f 11 1 ∨ rnd.isNone)) ∨ (tile ∧ tileBad (BitVec.ofNat 64 (f 0 8)) false) then .error cSTREAM
    else if f 0 8 % 64 ≠ 0 then .error cMISALIGN
    else if tile ∧ (s.tileTarget x.lid 0 t).isNone then .error cBANK
    else
      .ok { id := x.nextStep, kind := 0, addr := f 0 8, tile := tile, addr2 := 0, tile2 := false, fmt := Fmt.ofCode (BitVec.ofNat 4 (f 9 1))
            dar := match f 10 1 with | 1 => .add | 2 => .max | 3 => .min | _ => .none
            rnd := rnd.getD .rne, rid := f 12 2, rows := f 16 4, step := 0, from_ := 0, pfrom := 0, to_ := 0, pto := 0 }

/-- A step is posted: its partners hear of it, and where it waits for none its rows move. A partner's package that is not configured ends it
in error (R443). -/
def State.postStep (s : State) (x : MSlot) (t : StepOp) : State :=
  let lost := (t.receives && decide (s.npkg ≤ t.pfrom)) || (t.sends && decide (s.npkg ≤ t.pto))
  let t := { t with err := if lost then some 3 else none }
  let s := s.modCur fun y => { y with
    steps := y.steps ++ [t], nextStep := y.nextStep + 1, armed := if y.armed.contains t.rid then y.armed else t.rid :: y.armed }
  if t.kind = 3 ∨ t.kind = 4 then s.takeRows s.curM s.curSlot t.id t.rows else s.announce x t t.rows

/-- A step word: it stalls while 16 steps are outstanding or a k.ldg before it waits (R417, R442). -/
def kStep (reads : List KReg) (a : KReg) (rrs : Bool) (f : State → MSlot → StepOp → Except Nat StepOp) (s : State) : Out :=
  kIssue reads [] (fun s x =>
    if 16 ≤ x.steps.length || !x.waits.isEmpty then .stall
    else match s.stepDesc x (x.rk a) rrs with
      | .error k => .fault k
      | .ok t => match f s x t with
        | .error k => .fault k
        | .ok t => .next (s.postStep x t)) s

/-- A rank below NR with its package. -/
def MSlot.peerOf (x : MSlot) (v : Word) : Except Nat (Nat × Nat) :=
  if x.nr ≤ v.toNat then .error cBANK else .ok (v.toNat, x.rankPkg v.toNat)

def execKSend (a b : KReg) (step : BitVec 14) (s : State) : Out :=
  kStep [a, b] a false (fun _ x t => (x.peerOf (x.rk b)).map fun p => { t with kind := 0, step := step.toNat, to_ := p.1, pto := p.2 }) s
def execKRecv (a b : KReg) (step : BitVec 14) (s : State) : Out :=
  kStep [a, b] a false (fun _ x t => (x.peerOf (x.rk b)).map fun p => { t with kind := 1, step := step.toNat, from_ := p.1, pfrom := p.2 }) s
def execKRrs (a b : KReg) (step : BitVec 14) (s : State) : Out :=
  kStep [a, b, b + 1] a true (fun _ x t =>
    if b.toNat = 15 then .error cILLEGAL
    else match x.peerOf (x.rk b), x.peerOf (x.rk (b + 1)) with
      | .ok p, .ok q => .ok { t with kind := 2, step := step.toNat, from_ := p.1, pfrom := p.2, to_ := q.1, pto := q.2 }
      | .error k, _ => .error k
      | _, .error k => .error k) s
def execKCopy (a b : KReg) (s : State) : Out :=
  kStep [a, b] a false (fun s x t =>
    match s.stepDesc x (x.rk b) false with
    | .error k => .error k
    | .ok u => if u.rows ≠ t.rows then .error cSTREAM else .ok { t with kind := 3, addr2 := u.addr, tile2 := u.tile }) s
def execKMcast (a b : KReg) (tag : BitVec 14) (s : State) : Out :=
  kStep [a, b] a false (fun _ x t =>
    let v := (x.rk b).toNat
    if v / 4096 % 16 ≠ 0 ∨ 2 ^ 28 ≤ v then .error cILLEGAL else .ok { t with kind := 4, step := tag.toNat, addr2 := v }) s

/-- k.wait. -/
def execKWait (n : BitVec 18) (s : State) : Out :=
  kIssue [] [] (fun s x => if 16 < n.toNat then .fault cILLEGAL else if n.toNat < x.steps.length then .stall else .next s) s

/-! ## Timers and halts (R413, R426) -/

/-- MCORE_TIMER_EXPIRE: a timer that has reached 0 posts TIMER once and stops; timers pause with the program. -/
def execMcoreTimerExpire (unit slot timer : Nat) (s : State) : Out :=
  let x := s.marten unit slot
  .next (if x.runs && !s.programOver x && SMap.get 0 x.timers timer == 1 then
      s.setMarten unit slot ({ x with timers := SMap.put 0 x.timers timer 0 }.post ⟨8, noConn, 0, BitVec.ofNat 64 timer, x.lid⟩)
    else s)

/-- MCORE_HALT_STOP (R413): a running program of a halted launch stops and writes its record. -/
def execMcoreHaltStop (unit slot : Nat) (s : State) : Out :=
  let x := s.marten unit slot
  .next (match s.launch x.lid with
    | some l =>
      if slot ≠ 0 && l.line && x.runs then
        (s.modMarten unit slot fun x => { x with run := .stopped }).martenRecord unit slot 
          (if !l.leaving.isEmpty || l.preempted then cPREEMPT else if l.dbg then cBREAK else cHALT)
      else s
    | none => s)

end Sys2Proof.Machine
end

