-- ==== Sys2Proof/Machine/Bundle.lean ====
section
/-! DEFINITION. Fetch (R69 to R72): the bundles of a group, its slot words decoded in issue order, and the meaning of each word as a slot of
a group of several. -/
namespace Sys2Proof.Machine

/-! ## The meaning of a word as a slot -/

/-- A word that is no slot of a group. -/
def noSlot : SlotFn := fun _ s => .ok s .fall

/-- The meaning of an instruction as a slot of a group: the same one its `exec` issues alone. -/
def slotFn : Instr → SlotFn
  | .cNop _ => slotCNop
  | .cBr _ line => slotCBr line
  | .cJmp _ a => slotCJmp a
  | .cCall _ d line => slotCCall d line
  | .cRet _ a => slotCRet a
  | .cLoop _ count last => slotCLoop count last
  | .cBrk _ code => slotCBrk code
  | .cTrap _ code => slotCTrap code
  | .cTret _ => slotCTret
  | .cEnd _ => slotCEnd
  | .cWait _ l st k t => slotCWait l st k t
  | .cWaith _ cond h => slotCWaith cond h
  | .cWaitt _ a h => slotCWaitt a h
  | .cWaitl _ a => slotCWaitl a
  | .cScheck _ seg => slotCScheck seg
  | .cRelb _ a b => slotCRelb a b
  | .cAcqb _ a b => slotCAcqb a b
  | .cFinc _ a b => slotCFinc a b
  | .cFwait _ a b => slotCFwait a b
  | .cFarm _ a b act => slotCFarm a b act
  | .cFdis _ a => slotCFdis a
  | .cBpost _ a b => slotCBpost a b
  | .cBarr _ a => slotCBarr a
  | .cBwait _ a => slotCBwait a
  | .cLaunch _ a => slotCLaunch a
  | .cTlbi _ a scope => slotCTlbi a scope
  | .cScrub _ units => slotCScrub units
  | .aAdd _ d a b => slotAAdd d a b
  | .aSub _ d a b => slotASub d a b
  | .aAnd _ d a b => slotAAnd d a b
  | .aOr _ d a b => slotAOr d a b
  | .aXor _ d a b => slotAXor d a b
  | .aShl _ d a b => slotAShl d a b
  | .aShr _ d a b => slotAShr d a b
  | .aSar _ d a b => slotASar d a b
  | .aMul _ d a b => slotAMul d a b
  | .aMulh _ d a b z => slotAMulh d a b z
  | .aMin _ d a b z => slotAMin d a b z
  | .aMax _ d a b z => slotAMax d a b z
  | .aCmp _ cond p a b => slotACmp cond p a b
  | .aSel _ d a b p => slotASel d a b p
  | .aClz _ d a => slotAClz d a
  | .aPop _ d a => slotAPop d a
  | .aAddi _ d a imm => slotAAddi d a imm
  | .aAndi _ d a imm => slotAAndi d a imm
  | .aOri _ d a imm => slotAOri d a imm
  | .aXori _ d a imm => slotAXori d a imm
  | .aShli _ d a imm => slotAShli d a imm
  | .aShri _ d a imm => slotAShri d a imm
  | .aLi _ d imm => slotALi d imm
  | .aLih _ d imm => slotALih d imm
  | .aMov _ d a => slotAMov d a
  | .aMfs _ d n => slotAMfs d n
  | .aMts _ n a => slotAMts n a
  | .aPand _ d a b => slotAPand d a b
  | .aPor _ d a b => slotAPor d a b
  | .aPxor _ d a b => slotAPxor d a b
  | .aPnot _ d a => slotAPnot d a
  | .aQset _ q a wn => slotAQset q a wn
  | .aQget _ d q wn => slotAQget d q wn
  | .aHq _ d h => slotAHq d h
  | .lLd _ sel d a off => slotLLd sel d a off
  | .lSt _ sel d a off => slotLSt sel d a off
  | .lLdq _ sp q a off => slotLLdq sp q a off
  | .lStq _ q a off => slotLStq q a off
  | .lLdg _ size acq d a off => slotLLdg size acq d a off
  | .lStg _ size rel d a off => slotLStg size rel d a off
  | .lLdgv _ q16 hi acq d a off => slotLLdgv q16 hi acq d a off
  | .lStgv _ q16 hi rel d a off => slotLStgv q16 hi rel d a off
  | .lLdx _ sel acq d a off => slotLLdx sel acq d a off
  | .lStx _ sel ofl d a off => slotLStx sel ofl d a off
  | .lAop _ op w4 z ar d a b => slotLAop op w4 z ar d a b
  | .lCas _ size ar d a b => slotLCas size ar d a b
  | .lSaop _ op fmt d a b => slotLSaop op fmt d a b
  | .lFence _ kind scope => slotLFence kind scope
  | .lDrain _ scope => slotLDrain scope
  | .lCwb _ a => slotLCwb a
  | .lCinv _ a => slotLCinv a
  | .lCzero _ a => slotLCzero a
  | .lPf _ ex l2 a off => slotLPf ex l2 a off
  | .lTlbp _ d a => slotLTlbp d a
  | .vAdd t d a b r => slotVAdd t d a b r
  | .vSub t d a b r => slotVSub t d a b r
  | .vMul t d a b r => slotVMul t d a b r
  | .vFma t d a b r => slotVFma t d a b r
  | .vMin t d a b r => slotVMin t d a b r
  | .vMax t d a b r => slotVMax t d a b r
  | .vAbs t d a r => slotVAbs t d a r
  | .vNeg t d a r => slotVNeg t d a r
  | .vSadd t d a b r => slotVSadd t d a b r
  | .vAnd t d a b r => slotVAnd t d a b r
  | .vOr t d a b r => slotVOr t d a b r
  | .vXor t d a b r => slotVXor t d a b r
  | .vShl t d a b r => slotVShl t d a b r
  | .vShr t d a b r => slotVShr t d a b r
  | .vSar t d a b r => slotVSar t d a b r
  | .vCmp t cond wd a b r => slotVCmp t cond wd a b r
  | .vSel t d a b r => slotVSel t d a b r
  | .vCvt t from_ rnd d a w l => slotVCvt t from_ rnd d a w l
  | .vScl t qt blk32 d a r => slotVScl t qt blk32 d a r
  | .vPack t rnd blk32 d a r => slotVPack t rnd blk32 d a r
  | .vUnpk t rnd blk32 d a r => slotVUnpk t rnd blk32 d a r
  | .vRed t op d a r => slotVRed t op d a r
  | .vRedx t isMin d a r => slotVRedx t isMin d a r
  | .vPerm t d a b r => slotVPerm t d a b r
  | .vRot t d a b r => slotVRot t d a b r
  | .vRmg t d a b r => slotVRmg t d a b r
  | .vBc t d a r => slotVBc t d a r
  | .vIns t d a b r => slotVIns t d a b r
  | .vExt t d a b w l => slotVExt t d a b w l
  | .vIota t d a r => slotVIota t d a r
  | .vMovVv t d a r => slotVMovVv t d a r
  | .vMovVw wd a => slotVMovVw wd a
  | .vMovWv d wa => slotVMovWv d wa
  | .vWmax t d a b => slotVWmax t d a b
  | .vWmin t d a b => slotVWmin t d a b
  | .vWclamp t d a b => slotVWclamp t d a b
  | .vWmed t d a b => slotVWmed t d a b
  | .vWsum t d a b => slotVWsum t d a b
  | .vWtopk t d a b => slotVWtopk t d a b
  | .vAdjb t mode acc last a b => slotVAdjb t mode acc last a b
  | .fTsel _ ts a => slotFTsel ts a
  | .fEval _ fmt rg ts d a => slotFEval fmt rg ts d a
  | .fRcp _ fmt rg d a => slotFRcp fmt rg d a
  | .fRsq _ fmt rg d a => slotFRsq fmt rg d a
  | .fExp2 _ fmt rg d a => slotFExp2 fmt rg d a
  | .fLog2 _ fmt rg d a => slotFLog2 fmt rg d a
  | .xZero mt => slotXZero mt
  | .xLdw arr wid sp qw cols => slotXLdw arr wid sp qw cols
  | .xSwap arr => slotXSwap arr
  | .xMul mt qa beats pl sp dw sub => slotXMul mt qa beats pl sp dw sub
  | .xAcc mt qa beats pl sub => slotXAcc mt qa beats pl sub
  | .xRd mt fmt rnd vx => slotXRd mt fmt rnd vx
  | .xSt mt qa fmt rnd clr => slotXSt mt qa fmt rnd clr
  | .xCfg arr reg sx => slotXCfg arr reg sx
  | .eCpy h qs qd len dar ord ec => slotECpy h qs qd len dar ord ec
  | .eCpyWadd h qs qd len ord rnd bexp => slotECpyWadd h qs qd len ord rnd bexp
  | .eGath h qs qd len ord es xsh glb fmt => slotEGath h qs qd len ord es xsh glb fmt
  | .eScat h qs qd len dar ord es xsh glb fmt => slotEScat h qs qd len dar ord es xsh glb fmt
  | .eLand h es tag => slotELand h es tag
  | .eHset h ring full isz row rows => slotEHset h ring full isz row rows
  | .eHfree h => slotEHfree h
  | .eCbp h act => slotECbp h act
  | .eCbc h act => slotECbc h act
  | .ePut h qs len dar ord es dest be bar => slotEPut h qs len dar ord es dest be bar
  | .ePutLand h qs len ord es chunk => slotEPutLand h qs len ord es chunk
  | .eGet h qd len ord es rsp => slotEGet h qd len ord es rsp
  | .eRatom h ord es op w4 z => slotERatom h ord es op w4 z
  | .eColl h len dar ord es cbase => slotEColl h len dar ord es cbase
  | .eMcast h qs len ord es group => slotEMcast h qs len ord es group
  | .eSig ord es => slotESig ord es
  | .eCtxSave h es core units => slotECtxSave h es core units
  | .eCtxRest h es core units => slotECtxRest h es core units
  | .nopGroup | .kNop | .kAdd .. | .kSub .. | .kAnd .. | .kOr .. | .kXor .. | .kShl .. | .kShr .. | .kAddi .. | .kAndi ..
  | .kOri .. | .kShli .. | .kShri .. | .kLi .. | .kLih .. | .kMfs .. | .kLd .. | .kSt .. | .kLdg .. | .kBeq .. | .kBne ..
  | .kBlt .. | .kJmp .. | .kCall .. | .kRet .. | .kLoop .. | .kEnd | .kEwait .. | .kEack .. | .kEmask .. | .kTimer .. | .kConn ..
  | .kRetx .. | .kCctl .. | .kPath .. | .kArm .. | .kMgrp .. | .kRfail .. | .kSig .. | .kRset .. | .kPeer .. | .kRpkg ..
  | .kSend .. | .kRecv .. | .kRrs .. | .kCopy .. | .kMcast .. | .kWait .. | .asyncCauseTake .. | .witnessComplete ..
  | .adjbComplete .. | .fTableLoadComplete .. | .pendingResultDelivery .. | .loadResultArrival .. | .storeAckArrival ..
  | .xLdwComplete .. | .xPassCommit .. | .xStComplete .. | .engineCommandStart .. | .engineCommandComplete ..
  | .landingChunkArrival .. | .remoteAccessArrival .. | .orderedFlagArrival .. | .orderedFlagPerform .. | .flagIncrementApply ..
  | .barrierPostApply .. | .barrierArrivalApply .. | .barrierByteArrival .. | .pageWalkComplete .. | .tlbInvalidateArrival ..
  | .tlbiComplete .. | .stepComplete .. | .mcoreTimerExpire .. | .reductionContribution .. | .reductionResultDelivery ..
  | .multicastDelivery .. | .transportRtoExpire .. | .faaCombine .. | .clusterRelease .. | .launchCompletionRelease ..
  | .coreHaltStop .. | .weightStoreWriteStart .. | .clearToSendArrival .. | .stepRowArrival .. | .fabricRequestServe ..
  | .sweepBlock .. | .sweepStart .. | .clockGateEntry .. | .refreshWindowOpen .. | .refreshWindowClose .. | .dirRead ..
  | .dirReadExclusive .. | .dirUpgrade .. | .dirEvictionNotice .. | .l1Invalidate .. | .l1Downgrade .. | .hostSnoop ..
  | .hostHbmRead .. | .hostHbmWrite .. | .memoryRead .. | .memoryWrite .. | .sweepPause .. | .routerPacketReceive ..
  | .nonminTimeout .. | .pegRequest .. | .pegArrival .. | .linkFlitNak .. | .linkRetrainComplete .. | .bucketLeak ..
  | .linkExchangeTimeout .. | .fabricPacketReceive .. | .fabricAckReceive .. | .transitHoldExpire .. | .slotLost ..
  | .firmwareEventAction .. | .engineHaltStop .. | .mcoreHaltStop .. | .lportWrite .. | .launchWaitRecheck .. | .clusterDefect ..
  | .spcmdWopen .. | .spcmdKeyload .. | .spcmdWclose .. | .spcmdToken .. | .spcmdRekey .. | .spcmdInvalid .. | .registerWrite ..
  | .retentionEntry .. | .powerGateEntry .. | .powerThrottle .. | .debugHalt .. | .debugStep .. | .debugAccess ..
  | .backInvalidationResponse .. | .cxlCacheGrant .. | .weightStoreGranuleAssign .. | .debugResume .. | .burrowDelivery
  | .pegReissue | .launchDispatch | .spcmdConfig | .spcmdAttest | .spcmdWarm | .spcmdSleep | .spcmdLoad | .spcmdUnload
  | .coldStart | .sleepExit | .thermalTrip =>
    noSlot

/-! ## Bundles -/

/-- The classes of a bundle in presence order (R69). -/
def presence : List Slot := [.c, .a, .l, .v, .f, .x, .e]

/-- A slot word at an offset: what it decodes to with its meaning, none for a word no instruction has (R88). -/
def Core.itemAt (c : Core) (slot : Slot) (off : Nat) (second : Bool) : Item :=
  let i := match slot with
    | .x | .e => decode (.w64 slot (BitVec.ofNat 64 (lineNat c.text off 8)))
    | _ => decode (.w32 slot (BitVec.ofNat 32 (lineNat c.text off 4)))
  match i with
  | some i => ⟨some i, slotFn i, slot, off, second⟩
  | none => ⟨none, noSlot, slot, off, second⟩

/-- The words of a bundle from an offset, for the classes whose presence bits are set. -/
def Core.itemsFrom (c : Core) (hd : Byte) (second : Bool) (off : Nat) : Nat → List Slot → List Item
  | _, [] => []
  | k, sl :: l =>
    if hd.getLsbD k then c.itemAt sl off second :: c.itemsFrom hd second (off + sl.bytes) (k + 1) l
    else c.itemsFrom hd second off (k + 1) l

def Core.bundleItems (c : Core) (off : Nat) (second : Bool) : List Item :=
  c.itemsFrom (lineByte c.text off) second (off + 1) 0 presence

/-- What is fetched at an offset that holds no line end. -/
inductive Fetched
  /-- past the last offset (R72) -/
  | past
  /-- a header that fails check 1 of R88: its offset, whether it is the second bundle's -/
  | badHeader (off : Nat) (second : Bool)
  | nop
  /-- one slot alone -/
  | solo (i : Instr)
  | group (next : Nat) (items : List Item)

/-- Whether a bundle passes offset 63 of its line (R70). -/
def crossesLine (off : Nat) (hd : Byte) : Bool := decide (64 < off % 64 + bundleBytes hd)

/-- A header that may not stand second (R69). -/
def badSecond (hd : Byte) : Bool := hd == 0#8 || hd == 0x80#8 || !hd.getLsbD 7

/-- The group at an offset (R69, R70). A failing transfer target of the first bundle stands before the second header (R89). -/
def Core.fetch (c : Core) (off : Nat) : Fetched :=
  if 0x40000 ≤ off then .past
  else
    let hd := lineByte c.text off
    let n := off + bundleBytes hd
    if crossesLine off hd then .badHeader off false
    else if hd = 0x80#8 then .nop
    else
      let a := c.bundleItems off false
      if hd.getLsbD 7 then
        match a with
        | [⟨some i, _, _, _, _⟩] => .solo i
        | _ => .group n a
      else if n % 64 = 0 then .badHeader off false
      else
        let hd2 := lineByte c.text n
        if badSecond hd2 || crossesLine n hd2 then
          (if a.any fun it => c.badTarget off it.i then .group n a else .badHeader n true)
        else .group (n + bundleBytes hd2) (a ++ c.bundleItems n true)

end Sys2Proof.Machine
end

