-- ==== Sys2Proof/Machine/Debug.lean ====
section
/-! DEFINITION. A core's next group (R69, R102), and the debugger (R372, R373). -/
namespace Sys2Proof.Machine

/-! ## A group of a core -/

/-- A failure of check 1 at a header (R89). -/
def State.headerTrap (s : State) (n off header : Nat) (second : Bool) : State :=
  let c := s.core n
  if !c.handler && !c.async.isEmpty then s.takeAsync n
  else s.takeTrap n cILLEGAL 7 second 0 (BitVec.ofNat 64 header) off

/-- The core stands at the group it fetches next, past line ends (R69). -/
def State.atGroup (s : State) (n : Nat) : State := s.modCore n fun c => { c with pc := c.groupAt c.pc }

/-- The words of what is fetched at an offset, with the offset after them. -/
def Fetched.words (off : Nat) : Fetched → Nat × List Item
  | .solo i => (off + 1 + (slotOf i).bytes, [⟨some i, slotFn i, slotOf i, off + 1, false⟩])
  | .group next items => (next, items)
  | _ => (off + 1, [])

/-- One group of a core, or what keeps it from issuing. -/
def State.coreGroup (s : State) (n : Nat) : State :=
  let s := s.atGroup n
  let off := (s.core n).pc
  match (s.core n).fetch off with
  | .past => s.headerTrap n 0x40000 0x40000 false
  | .badHeader h second => s.headerTrap n off h second
  | f => let w := f.words off; issueGroup n off w.1 w.2 s

/-! ## The debugger -/

/-- Whether a core may be read and written by an invasive debugger: its world's level is 2 and its launch is held (R372, R373). -/
def State.debugged (s : State) (n : Nat) : Bool :=
  let c := s.core n
  (c.run == .stopped || c.run == .debug) && s.debugLevel c.spr.world.toNat == 2 &&
    (match s.launch c.lid with | some l => l.dbg | none => false)

/-- DEBUG_HALT (R373). -/
def execDebugHalt (lid : Nat) (s : State) : Out :=
  .next (match s.launch lid with
    | some l => if s.debugLevel l.world = 2 then s.modLaunch lid fun l => { l with line := true, dbg := true } else s
    | none => s)

/-- DEBUG_RESUME (R373): cores that a c.brk halted stand with the others, and the line falls. -/
def execDebugResume (lid : Nat) (s : State) : Out :=
  .next (match s.launch lid with
    | some l =>
      if l.dbg then
        ({ s with
          launches := SMap.set s.launches lid (some { l with dbg := false })
          cores := s.cores.map fun (e : Nat × Core) =>
            if e.2.lid == lid && e.2.run == RunState.debug then (e.1, { e.2 with run := .stopped, stopCause := 0 }) else e }).lowerLine lid
      else s
    | none => s)

/-- Whether a step of a core was a stall cycle. -/
def stalled (c d : Core) : Bool := d.spr.stall != c.spr.stall

/-- DEBUG_STEP (R373): one group of the core; the others stay stopped. The core then stops anew, with a record; after a stall cycle, which commits
nothing, it stands as it stood, and the step is taken again. A group that trapped leaves the core to its handler, which the line does not stop
(R267). -/
def execDebugStep (core : Nat) (s : State) : Out :=
  .next (if s.debugged core then
      let c := s.core core
      let t := (s.modCore core fun c => { c with run := .running }).coreGroup core
      let d := t.core core
      if d.run != .running || d.handler then t
      else if stalled c d then t.modCore core fun d => { d with run := c.run }
      else t.stopCore core cBREAK c.run
    else s)

/-- A special register written by the debugger: those a.mts writes, and those that only the hardware writes; LID, the world and the mode, and the
counters of what is outstanding are not values of their own (log entry 100). -/
def Sprs.debugPut (r : Sprs) (n : Nat) (v : Word) : Sprs :=
  match n with
  | 0 => { r with tx := v.setWidth _ }
  | 1 => { r with ty := v.setWidth _ }
  | 23 => { r with cyc := v }
  | 24 => { r with stall := v }
  | 26 => { r with wref := v }
  | n => if 8 ≤ n ∧ n ≤ 15 then { r with mb := SMap.put 0 r.mb (n - 8) v } else if sprWritable n then r.write n v else r

/-- A write of the debugger (R372). -/
def Core.debugWrite (c : Core) (v : VReg) : DbgItem → Core
  | .sreg n => { c with regs := c.regs.writeS n (v.setWidth 64) false }
  | .preg => { c with regs := (List.range 8).foldl (fun r i => r.writeP i (v.getLsbD i)) c.regs }
  | .qreg n => { c with regs := c.regs.writeQ n (v.setWidth 256) false }
  | .vreg n => { c with regs := c.regs.writeV n (BitVec.allOnes 1024) v 0 }
  | .wreg n => { c with regs := c.regs.writeW n (v.setWidth 128) }
  | .row off => if c.inPart off then c.writeRows [⟨off / 64, v.setWidth 512, false⟩] else c
  | .tile t r e =>
    let k := t * 16 + r
    let old := SMap.get 0 c.tiles k
    let m : TileRow := (BitVec.allOnes 64).setWidth 16384 <<< (64 * e)
    { c with
      tiles := SMap.put 0 c.tiles k ((old &&& ~~~m) ||| ((v.setWidth 64).setWidth 16384 <<< (64 * e)))
      tilePoison := SMap.put 0 c.tilePoison k (SMap.get 0 c.tilePoison k &&& ~~~(1#256 <<< e)) }
  | .special n => { c with spr := c.spr.debugPut n (v.setWidth 64) }
  | .handle _ => c

/-- What the debugger reads of an item (R372); an entry of the buffer table shows NFC in the layout of R237. -/
def Core.debugRead (c : Core) : DbgItem → VReg
  | .sreg n => (c.regs.rs n).setWidth 1024
  | .preg => BitVec.ofNat 1024 (flagsOf 8 c.regs.rp)
  | .qreg n => (c.regs.rq n).setWidth 1024
  | .vreg n => c.regs.rv n
  | .wreg n => (c.regs.rw n).setWidth 1024
  | .row off => (c.row (off / 64)).setWidth 1024
  | .tile t r e => ((c.tileRow t r).extractLsb' (64 * e) 64).setWidth 1024
  | .special n => (c.readSpr n).setWidth 1024
  | .handle n => (c.handle n).entry.setWidth 1024

/-- The value of a read the debugger may make, none of any other. -/
def State.debugRead (s : State) (n : Nat) (item : DbgItem) : Option VReg :=
  if s.debugged n then some ((s.core n).debugRead item) else none

/-- Items that exist. -/
def DbgItem.ok : DbgItem → Bool
  | .sreg n | .vreg n => decide (n < 32)
  | .qreg n => decide (n < 16)
  | .wreg n => decide (n < 4)
  | .tile t r e => decide (t < 8) && decide (r < 16) && decide (e < 256)
  | .special n => decide (n < 32)
  | .handle n => decide (n < 64)
  | _ => true

/-- DEBUG_ACCESS (R373): a read changes nothing (`State.debugRead` is its value); a write is committed state, an entry of the buffer table has none. -/
def execDebugAccess (core : Nat) (item : DbgItem) (write : Option VReg) (s : State) : Out :=
  .next (match write with
    | some v => if s.debugged core && DbgItem.ok item then s.modCore core fun c => c.debugWrite v item else s
    | none => s)

/-! ## The trace stream (R372, R374, R376) -/

/-- What a record of a core's trace says: a group that committed at an offset, a new value of CAUSE, the address and data of a load that has its data
or of a store, an entry into clock gating or an exit. -/
inductive TraceItem
  | group (off : Nat)
  | cause (v : Word)
  | load (va : Word) (data : List Byte)
  | store (va : Word) (data : List Byte)
  | gated (on : Bool)
  deriving DecidableEq, Repr

/-- A record, with CYC. -/
structure TraceRec where
  cyc : Word
  item : TraceItem
  deriving DecidableEq, Repr

/-- Loads and stores of the own scratchpad and the constant tables by an L instruction of a core, which then is `d`. -/
def Core.traceOwn (c d : Core) (i : Instr) : List TraceItem :=
  let at_ := fun (a : Reg) (off : BitVec 8) (u : Nat) => effAddr (c.regs.rs a.toNat) off u
  let bytes := fun (c : Core) (pair : Bool) (e : Word) => (rowsNamed pair e.toNat).flatMap fun r => bytesOf (c.row r)
  let half := fun (c : Core) (e : Word) => ((bytes c false e).drop (e.toNat / 32 % 2 * 32)).take 32
  match i with
  | .lLd _ sel _ a off => [.load (at_ a off 64) (bytes c (sel == .pair) (at_ a off 64))]
  | .lSt _ sel _ a off => [.store (at_ a off 64) (bytes d (sel == .pair) (at_ a off 64))]
  | .lLdq _ true _ a off => [.load (at_ a off 32) (half c (at_ a off 32))]
  | .lLdq _ false _ a off => [.load (at_ a off 32) (leBytes 32 (lineNat c.ctab ((at_ a off 32).toNat / 32 * 32) 32))]
  | .lStq _ _ a off => [.store (at_ a off 32) (half d (at_ a off 32))]
  | .lSaop _ _ _ _ a _ =>
    let e := c.regs.rs a.toNat
    [.load e (bytes c false e), .store e (bytes d false e)]
  | _ => []

/-- The store an access makes, as it joins the outstanding ones; what it has loaded, as it leaves them. -/
def Acc.traceStore (a : Acc) : List TraceItem :=
  match a.op with
  | .store n v => [.store a.e (leBytes n v.toNat)]
  | .aop _ n _ b => [.store a.e (leBytes n b.toNat)]
  | .cas n _ v => [.store a.e (leBytes n v.toNat)]
  | .czero => [.store a.e (leBytes 64 0)]
  | _ => []
def Acc.traceLoad (a : Acc) : List TraceItem :=
  match a.reply, a.op with
  | some r, .load n | some r, .aop _ n _ _ | some r, .cas n _ _ => [.load a.e (leBytes n r.data.toNat)]
  | _, _ => []

/-- Whether the core committed a group between two states: it ran, was not stalled, and did not take a trap in place of its group. -/
def Core.committed (c d : Core) : Bool :=
  c.run == .running && d.spr.cyc != c.spr.cyc && !stalled c d && d.run != .nested &&
    !(d.handler && !c.handler && d.spr.cause.toNat % 256 != cTRAPI)

/-- What a core puts into its trace stream in a step from s to t (log entry 112). Trace shows all of it at the levels trace and invasive; of a protected world without a
token CAUSE alone; of world 0 at off nothing (R372, R374). In retention it is suspended, power-gated and in package sleep there is none (R376). -/
def State.traceOf (n : Nat) (s t : State) : List TraceRec :=
  let c := s.core n
  let d := t.core n
  let w := c.spr.world.toNat
  let full := s.debugLevel w != 0
  let off := c.groupAt c.pc
  let live := ((c.fetch off).words off).2.filterMap fun it => it.i.filter fun i => c.guardTrue (guardOf i)
  let group := if c.committed d then .group off :: live.flatMap (c.traceOwn d) else []
  let moved := (d.accs.filter fun a => decide (c.seq ≤ a.id)).flatMap Acc.traceStore ++
    (c.accs.filter fun a => !d.accs.any fun b => b.id == a.id).flatMap Acc.traceLoad
  let cause := if d.spr.cause != c.spr.cause then [TraceItem.cause d.spr.cause] else []
  let gate := if d.gated != c.gated then [TraceItem.gated d.gated] else []
  if c.retention || c.powerOff || s.sec.power != .on then []
  else (if full then group ++ moved ++ cause ++ gate else if w = 0 then [] else cause).map fun i => ⟨d.spr.cyc, i⟩

/-! ## The no-op group -/

/-- NOP_GROUP (R69): a bundle with header 0x80 at the core's pc. -/
def execNopGroup (s : State) : Out :=
  let off := (s.core s.cur).pc
  .next (issueGroup s.cur off (off + 1) [] s)

end Sys2Proof.Machine
end

