-- ==== Sys2Proof/Machine/Dispatch.lean ====
section
/-! DEFINITION. The meaning of every instruction: one arm a constructor, each one direct call. -/
namespace Sys2Proof.Machine

def exec (i : Instr) (s : State) : Host.Outcome State Fault Refusal :=
  match i with
  | .nopGroup => Sys2Proof.Machine.execNopGroup s
  | .cNop g => Sys2Proof.Machine.execCNop g s
  | .cBr g line => Sys2Proof.Machine.execCBr g line s
  | .cJmp g a => Sys2Proof.Machine.execCJmp g a s
  | .cCall g d line => Sys2Proof.Machine.execCCall g d line s
  | .cRet g a => Sys2Proof.Machine.execCRet g a s
  | .cLoop g count last => Sys2Proof.Machine.execCLoop g count last s
  | .cBrk g code => Sys2Proof.Machine.execCBrk g code s
  | .cTrap g code => Sys2Proof.Machine.execCTrap g code s
  | .cTret g => Sys2Proof.Machine.execCTret g s
  | .cEnd g => Sys2Proof.Machine.execCEnd g s
  | .cWait g l st c t => Sys2Proof.Machine.execCWait g l st c t s
  | .cWaith g cond h => Sys2Proof.Machine.execCWaith g cond h s
  | .cWaitt g a h => Sys2Proof.Machine.execCWaitt g a h s
  | .cWaitl g a => Sys2Proof.Machine.execCWaitl g a s
  | .cScheck g seg => Sys2Proof.Machine.execCScheck g seg s
  | .cRelb g a b => Sys2Proof.Machine.execCRelb g a b s
  | .cAcqb g a b => Sys2Proof.Machine.execCAcqb g a b s
  | .cFinc g a b => Sys2Proof.Machine.execCFinc g a b s
  | .cFwait g a b => Sys2Proof.Machine.execCFwait g a b s
  | .cFarm g a b act => Sys2Proof.Machine.execCFarm g a b act s
  | .cFdis g a => Sys2Proof.Machine.execCFdis g a s
  | .cBpost g a b => Sys2Proof.Machine.execCBpost g a b s
  | .cBarr g a => Sys2Proof.Machine.execCBarr g a s
  | .cBwait g a => Sys2Proof.Machine.execCBwait g a s
  | .cLaunch g a => Sys2Proof.Machine.execCLaunch g a s
  | .cTlbi g a scope => Sys2Proof.Machine.execCTlbi g a scope s
  | .cScrub g units => Sys2Proof.Machine.execCScrub g units s
  | .aAdd g d a b => Sys2Proof.Machine.execAAdd g d a b s
  | .aSub g d a b => Sys2Proof.Machine.execASub g d a b s
  | .aAnd g d a b => Sys2Proof.Machine.execAAnd g d a b s
  | .aOr g d a b => Sys2Proof.Machine.execAOr g d a b s
  | .aXor g d a b => Sys2Proof.Machine.execAXor g d a b s
  | .aShl g d a b => Sys2Proof.Machine.execAShl g d a b s
  | .aShr g d a b => Sys2Proof.Machine.execAShr g d a b s
  | .aSar g d a b => Sys2Proof.Machine.execASar g d a b s
  | .aMul g d a b => Sys2Proof.Machine.execAMul g d a b s
  | .aMulh g d a b z => Sys2Proof.Machine.execAMulh g d a b z s
  | .aMin g d a b z => Sys2Proof.Machine.execAMin g d a b z s
  | .aMax g d a b z => Sys2Proof.Machine.execAMax g d a b z s
  | .aCmp g cond p a b => Sys2Proof.Machine.execACmp g cond p a b s
  | .aSel g d a b p => Sys2Proof.Machine.execASel g d a b p s
  | .aClz g d a => Sys2Proof.Machine.execAClz g d a s
  | .aPop g d a => Sys2Proof.Machine.execAPop g d a s
  | .aAddi g d a imm => Sys2Proof.Machine.execAAddi g d a imm s
  | .aAndi g d a imm => Sys2Proof.Machine.execAAndi g d a imm s
  | .aOri g d a imm => Sys2Proof.Machine.execAOri g d a imm s
  | .aXori g d a imm => Sys2Proof.Machine.execAXori g d a imm s
  | .aShli g d a imm => Sys2Proof.Machine.execAShli g d a imm s
  | .aShri g d a imm => Sys2Proof.Machine.execAShri g d a imm s
  | .aLi g d imm => Sys2Proof.Machine.execALi g d imm s
  | .aLih g d imm => Sys2Proof.Machine.execALih g d imm s
  | .aMov g d a => Sys2Proof.Machine.execAMov g d a s
  | .aMfs g d n => Sys2Proof.Machine.execAMfs g d n s
  | .aMts g n a => Sys2Proof.Machine.execAMts g n a s
  | .aPand g d a b => Sys2Proof.Machine.execAPand g d a b s
  | .aPor g d a b => Sys2Proof.Machine.execAPor g d a b s
  | .aPxor g d a b => Sys2Proof.Machine.execAPxor g d a b s
  | .aPnot g d a => Sys2Proof.Machine.execAPnot g d a s
  | .aQset g q a wn => Sys2Proof.Machine.execAQset g q a wn s
  | .aQget g d q wn => Sys2Proof.Machine.execAQget g d q wn s
  | .aHq g d h => Sys2Proof.Machine.execAHq g d h s
  | .lLd g sel d a off => Sys2Proof.Machine.execLLd g sel d a off s
  | .lSt g sel d a off => Sys2Proof.Machine.execLSt g sel d a off s
  | .lLdq g sp q a off => Sys2Proof.Machine.execLLdq g sp q a off s
  | .lStq g q a off => Sys2Proof.Machine.execLStq g q a off s
  | .lLdg g size acq d a off => Sys2Proof.Machine.execLLdg g size acq d a off s
  | .lStg g size rel d a off => Sys2Proof.Machine.execLStg g size rel d a off s
  | .lLdgv g q16 hi acq d a off => Sys2Proof.Machine.execLLdgv g q16 hi acq d a off s
  | .lStgv g q16 hi rel d a off => Sys2Proof.Machine.execLStgv g q16 hi rel d a off s
  | .lLdx g sel acq d a off => Sys2Proof.Machine.execLLdx g sel acq d a off s
  | .lStx g sel ofl d a off => Sys2Proof.Machine.execLStx g sel ofl d a off s
  | .lAop g op w4 z ar d a b => Sys2Proof.Machine.execLAop g op w4 z ar d a b s
  | .lCas g size ar d a b => Sys2Proof.Machine.execLCas g size ar d a b s
  | .lSaop g op fmt d a b => Sys2Proof.Machine.execLSaop g op fmt d a b s
  | .lFence g kind scope => Sys2Proof.Machine.execLFence g kind scope s
  | .lDrain g scope => Sys2Proof.Machine.execLDrain g scope s
  | .lCwb g a => Sys2Proof.Machine.execLCwb g a s
  | .lCinv g a => Sys2Proof.Machine.execLCinv g a s
  | .lCzero g a => Sys2Proof.Machine.execLCzero g a s
  | .lPf g ex l2 a off => Sys2Proof.Machine.execLPf g ex l2 a off s
  | .lTlbp g d a => Sys2Proof.Machine.execLTlbp g d a s
  | .vAdd t d a b r => Sys2Proof.Machine.execVAdd t d a b r s
  | .vSub t d a b r => Sys2Proof.Machine.execVSub t d a b r s
  | .vMul t d a b r => Sys2Proof.Machine.execVMul t d a b r s
  | .vFma t d a b r => Sys2Proof.Machine.execVFma t d a b r s
  | .vMin t d a b r => Sys2Proof.Machine.execVMin t d a b r s
  | .vMax t d a b r => Sys2Proof.Machine.execVMax t d a b r s
  | .vAbs t d a r => Sys2Proof.Machine.execVAbs t d a r s
  | .vNeg t d a r => Sys2Proof.Machine.execVNeg t d a r s
  | .vSadd t d a b r => Sys2Proof.Machine.execVSadd t d a b r s
  | .vAnd t d a b r => Sys2Proof.Machine.execVAnd t d a b r s
  | .vOr t d a b r => Sys2Proof.Machine.execVOr t d a b r s
  | .vXor t d a b r => Sys2Proof.Machine.execVXor t d a b r s
  | .vShl t d a b r => Sys2Proof.Machine.execVShl t d a b r s
  | .vShr t d a b r => Sys2Proof.Machine.execVShr t d a b r s
  | .vSar t d a b r => Sys2Proof.Machine.execVSar t d a b r s
  | .vCmp t cond wd a b r => Sys2Proof.Machine.execVCmp t cond wd a b r s
  | .vSel t d a b r => Sys2Proof.Machine.execVSel t d a b r s
  | .vCvt t from_ rnd d a w l => Sys2Proof.Machine.execVCvt t from_ rnd d a w l s
  | .vScl t qt blk32 d a r => Sys2Proof.Machine.execVScl t qt blk32 d a r s
  | .vPack t rnd blk32 d a r => Sys2Proof.Machine.execVPack t rnd blk32 d a r s
  | .vUnpk t rnd blk32 d a r => Sys2Proof.Machine.execVUnpk t rnd blk32 d a r s
  | .vRed t op d a r => Sys2Proof.Machine.execVRed t op d a r s
  | .vRedx t isMin d a r => Sys2Proof.Machine.execVRedx t isMin d a r s
  | .vPerm t d a b r => Sys2Proof.Machine.execVPerm t d a b r s
  | .vRot t d a b r => Sys2Proof.Machine.execVRot t d a b r s
  | .vRmg t d a b r => Sys2Proof.Machine.execVRmg t d a b r s
  | .vBc t d a r => Sys2Proof.Machine.execVBc t d a r s
  | .vIns t d a b r => Sys2Proof.Machine.execVIns t d a b r s
  | .vExt t d a b w l => Sys2Proof.Machine.execVExt t d a b w l s
  | .vIota t d a r => Sys2Proof.Machine.execVIota t d a r s
  | .vMovVv t d a r => Sys2Proof.Machine.execVMovVv t d a r s
  | .vMovVw wd a => Sys2Proof.Machine.execVMovVw wd a s
  | .vMovWv d wa => Sys2Proof.Machine.execVMovWv d wa s
  | .vWmax t d a b => Sys2Proof.Machine.execVWmax t d a b s
  | .vWmin t d a b => Sys2Proof.Machine.execVWmin t d a b s
  | .vWclamp t d a b => Sys2Proof.Machine.execVWclamp t d a b s
  | .vWmed t d a b => Sys2Proof.Machine.execVWmed t d a b s
  | .vWsum t d a b => Sys2Proof.Machine.execVWsum t d a b s
  | .vWtopk t d a b => Sys2Proof.Machine.execVWtopk t d a b s
  | .vAdjb t mode acc last a b => Sys2Proof.Machine.execVAdjb t mode acc last a b s
  | .fTsel g ts a => Sys2Proof.Machine.execFTsel g ts a s
  | .fEval g fmt rg ts d a => Sys2Proof.Machine.execFEval g fmt rg ts d a s
  | .fRcp g fmt rg d a => Sys2Proof.Machine.execFRcp g fmt rg d a s
  | .fRsq g fmt rg d a => Sys2Proof.Machine.execFRsq g fmt rg d a s
  | .fExp2 g fmt rg d a => Sys2Proof.Machine.execFExp2 g fmt rg d a s
  | .fLog2 g fmt rg d a => Sys2Proof.Machine.execFLog2 g fmt rg d a s
  | .xZero mt => Sys2Proof.Machine.execXZero mt s
  | .xLdw arr wid sp qw cols => Sys2Proof.Machine.execXLdw arr wid sp qw cols s
  | .xSwap arr => Sys2Proof.Machine.execXSwap arr s
  | .xMul mt qa beats pl sp dw sub => Sys2Proof.Machine.execXMul mt qa beats pl sp dw sub s
  | .xAcc mt qa beats pl sub => Sys2Proof.Machine.execXAcc mt qa beats pl sub s
  | .xRd mt fmt rnd vx => Sys2Proof.Machine.execXRd mt fmt rnd vx s
  | .xSt mt qa fmt rnd clr => Sys2Proof.Machine.execXSt mt qa fmt rnd clr s
  | .xCfg arr reg sx => Sys2Proof.Machine.execXCfg arr reg sx s
  | .eCpy h qs qd len dar ord ec => Sys2Proof.Machine.execECpy h qs qd len dar ord ec s
  | .eCpyWadd h qs qd len ord rnd bexp => Sys2Proof.Machine.execECpyWadd h qs qd len ord rnd bexp s
  | .eGath h qs qd len ord es xsh glb fmt => Sys2Proof.Machine.execEGath h qs qd len ord es xsh glb fmt s
  | .eScat h qs qd len dar ord es xsh glb fmt => Sys2Proof.Machine.execEScat h qs qd len dar ord es xsh glb fmt s
  | .eLand h es tag => Sys2Proof.Machine.execELand h es tag s
  | .eHset h ring full isz row rows => Sys2Proof.Machine.execEHset h ring full isz row rows s
  | .eHfree h => Sys2Proof.Machine.execEHfree h s
  | .eCbp h act => Sys2Proof.Machine.execECbp h act s
  | .eCbc h act => Sys2Proof.Machine.execECbc h act s
  | .ePut h qs len dar ord es dest be bar => Sys2Proof.Machine.execEPut h qs len dar ord es dest be bar s
  | .ePutLand h qs len ord es chunk => Sys2Proof.Machine.execEPutLand h qs len ord es chunk s
  | .eGet h qd len ord es rsp => Sys2Proof.Machine.execEGet h qd len ord es rsp s
  | .eRatom h ord es op w4 z => Sys2Proof.Machine.execERatom h ord es op w4 z s
  | .eColl h len dar ord es cbase => Sys2Proof.Machine.execEColl h len dar ord es cbase s
  | .eMcast h qs len ord es group => Sys2Proof.Machine.execEMcast h qs len ord es group s
  | .eSig ord es => Sys2Proof.Machine.execESig ord es s
  | .eCtxSave h es core units => Sys2Proof.Machine.execECtxSave h es core units s
  | .eCtxRest h es core units => Sys2Proof.Machine.execECtxRest h es core units s
  | .kNop => Sys2Proof.Machine.execKNop s
  | .kAdd d a b => Sys2Proof.Machine.execKAdd d a b s
  | .kSub d a b => Sys2Proof.Machine.execKSub d a b s
  | .kAnd d a b => Sys2Proof.Machine.execKAnd d a b s
  | .kOr d a b => Sys2Proof.Machine.execKOr d a b s
  | .kXor d a b => Sys2Proof.Machine.execKXor d a b s
  | .kShl d a b => Sys2Proof.Machine.execKShl d a b s
  | .kShr d a b => Sys2Proof.Machine.execKShr d a b s
  | .kAddi d a imm => Sys2Proof.Machine.execKAddi d a imm s
  | .kAndi d a imm => Sys2Proof.Machine.execKAndi d a imm s
  | .kOri d a imm => Sys2Proof.Machine.execKOri d a imm s
  | .kShli d a imm => Sys2Proof.Machine.execKShli d a imm s
  | .kShri d a imm => Sys2Proof.Machine.execKShri d a imm s
  | .kLi d imm => Sys2Proof.Machine.execKLi d imm s
  | .kLih d imm => Sys2Proof.Machine.execKLih d imm s
  | .kMfs d n => Sys2Proof.Machine.execKMfs d n s
  | .kLd d a imm => Sys2Proof.Machine.execKLd d a imm s
  | .kSt d a imm => Sys2Proof.Machine.execKSt d a imm s
  | .kLdg d a imm => Sys2Proof.Machine.execKLdg d a imm s
  | .kBeq d a imm => Sys2Proof.Machine.execKBeq d a imm s
  | .kBne d a imm => Sys2Proof.Machine.execKBne d a imm s
  | .kBlt d a imm => Sys2Proof.Machine.execKBlt d a imm s
  | .kJmp imm => Sys2Proof.Machine.execKJmp imm s
  | .kCall d imm => Sys2Proof.Machine.execKCall d imm s
  | .kRet a => Sys2Proof.Machine.execKRet a s
  | .kLoop a imm => Sys2Proof.Machine.execKLoop a imm s
  | .kEnd => Sys2Proof.Machine.execKEnd s
  | .kEwait nb d => Sys2Proof.Machine.execKEwait nb d s
  | .kEack a => Sys2Proof.Machine.execKEack a s
  | .kEmask a => Sys2Proof.Machine.execKEmask a s
  | .kTimer a b => Sys2Proof.Machine.execKTimer a b s
  | .kConn d a => Sys2Proof.Machine.execKConn d a s
  | .kRetx d a b => Sys2Proof.Machine.execKRetx d a b s
  | .kCctl rto d a b => Sys2Proof.Machine.execKCctl rto d a b s
  | .kPath en d a b => Sys2Proof.Machine.execKPath en d a b s
  | .kArm d a => Sys2Proof.Machine.execKArm d a s
  | .kMgrp a b => Sys2Proof.Machine.execKMgrp a b s
  | .kRfail a => Sys2Proof.Machine.execKRfail a s
  | .kSig a b => Sys2Proof.Machine.execKSig a b s
  | .kRset d a b => Sys2Proof.Machine.execKRset d a b s
  | .kPeer d a imm => Sys2Proof.Machine.execKPeer d a imm s
  | .kRpkg d a => Sys2Proof.Machine.execKRpkg d a s
  | .kSend a b step => Sys2Proof.Machine.execKSend a b step s
  | .kRecv a b step => Sys2Proof.Machine.execKRecv a b step s
  | .kRrs a b step => Sys2Proof.Machine.execKRrs a b step s
  | .kCopy a b => Sys2Proof.Machine.execKCopy a b s
  | .kMcast a b tag => Sys2Proof.Machine.execKMcast a b tag s
  | .kWait n => Sys2Proof.Machine.execKWait n s
  | .asyncCauseTake core => Sys2Proof.Machine.execAsyncCauseTake core s
  | .witnessComplete core => Sys2Proof.Machine.execWitnessComplete core s
  | .adjbComplete core => Sys2Proof.Machine.execAdjbComplete core s
  | .fTableLoadComplete core ts => Sys2Proof.Machine.execFTableLoadComplete core ts s
  | .pendingResultDelivery core => Sys2Proof.Machine.execPendingResultDelivery core s
  | .loadResultArrival core id => Sys2Proof.Machine.execLoadResultArrival core id s
  | .storeAckArrival core id => Sys2Proof.Machine.execStoreAckArrival core id s
  | .xLdwComplete core arr => Sys2Proof.Machine.execXLdwComplete core arr s
  | .xPassCommit core tile => Sys2Proof.Machine.execXPassCommit core tile s
  | .xStComplete core arr => Sys2Proof.Machine.execXStComplete core arr s
  | .engineCommandStart core id => Sys2Proof.Machine.execEngineCommandStart core id s
  | .engineCommandComplete core id => Sys2Proof.Machine.execEngineCommandComplete core id s
  | .landingChunkArrival core p => Sys2Proof.Machine.execLandingChunkArrival core p s
  | .remoteAccessArrival pkt => Sys2Proof.Machine.execRemoteAccessArrival pkt s
  | .orderedFlagArrival pkt => Sys2Proof.Machine.execOrderedFlagArrival pkt s
  | .orderedFlagPerform core pkt => Sys2Proof.Machine.execOrderedFlagPerform core pkt s
  | .flagIncrementApply cluster idx => Sys2Proof.Machine.execFlagIncrementApply cluster idx s
  | .barrierPostApply core id => Sys2Proof.Machine.execBarrierPostApply core id s
  | .barrierArrivalApply core id => Sys2Proof.Machine.execBarrierArrivalApply core id s
  | .barrierByteArrival bar bytes => Sys2Proof.Machine.execBarrierByteArrival bar bytes s
  | .pageWalkComplete core => Sys2Proof.Machine.execPageWalkComplete core s
  | .tlbInvalidateArrival core => Sys2Proof.Machine.execTlbInvalidateArrival core s
  | .tlbiComplete core => Sys2Proof.Machine.execTlbiComplete core s
  | .stepComplete unit slot id => Sys2Proof.Machine.execStepComplete unit slot id s
  | .mcoreTimerExpire unit slot timer => Sys2Proof.Machine.execMcoreTimerExpire unit slot timer s
  | .reductionContribution hop p => Sys2Proof.Machine.execReductionContribution hop p s
  | .reductionResultDelivery core p => Sys2Proof.Machine.execReductionResultDelivery core p s
  | .multicastDelivery group port p => Sys2Proof.Machine.execMulticastDelivery group port p s
  | .transportRtoExpire conn => Sys2Proof.Machine.execTransportRtoExpire conn s
  | .faaCombine first second => Sys2Proof.Machine.execFaaCombine first second s
  | .clusterRelease lid => Sys2Proof.Machine.execClusterRelease lid s
  | .launchCompletionRelease lid => Sys2Proof.Machine.execLaunchCompletionRelease lid s
  | .coreHaltStop core => Sys2Proof.Machine.execCoreHaltStop core s
  | .weightStoreWriteStart die => Sys2Proof.Machine.execWeightStoreWriteStart die s
  | .clearToSendArrival k rows => Sys2Proof.Machine.execClearToSendArrival k rows s
  | .stepRowArrival k row poison data => Sys2Proof.Machine.execStepRowArrival k row poison data s
  | .fabricRequestServe r => Sys2Proof.Machine.execFabricRequestServe r s
  | .sweepBlock die ctl => Sys2Proof.Machine.execSweepBlock die ctl s
  | .sweepStart die ctl => Sys2Proof.Machine.execSweepStart die ctl s
  | .clockGateEntry core => Sys2Proof.Machine.execClockGateEntry core s
  | .refreshWindowOpen core => Sys2Proof.Machine.execRefreshWindowOpen core s
  | .refreshWindowClose core => Sys2Proof.Machine.execRefreshWindowClose core s
  | .dirRead core line => Sys2Proof.Machine.execDirRead core line s
  | .dirReadExclusive core line => Sys2Proof.Machine.execDirReadExclusive core line s
  | .dirUpgrade core line => Sys2Proof.Machine.execDirUpgrade core line s
  | .dirEvictionNotice core line dirty => Sys2Proof.Machine.execDirEvictionNotice core line dirty s
  | .l1Invalidate core line => Sys2Proof.Machine.execL1Invalidate core line s
  | .l1Downgrade core line => Sys2Proof.Machine.execL1Downgrade core line s
  | .hostSnoop line inv => Sys2Proof.Machine.execHostSnoop line inv s
  | .hostHbmRead line => Sys2Proof.Machine.execHostHbmRead line s
  | .hostHbmWrite line data => Sys2Proof.Machine.execHostHbmWrite line data s
  | .memoryRead block world => Sys2Proof.Machine.execMemoryRead block world s
  | .memoryWrite block world lines compress shape => Sys2Proof.Machine.execMemoryWrite block world lines compress shape s
  | .sweepPause die ctl hold => Sys2Proof.Machine.execSweepPause die ctl hold s
  | .routerPacketReceive router hdr => Sys2Proof.Machine.execRouterPacketReceive router hdr s
  | .nonminTimeout pkt => Sys2Proof.Machine.execNonminTimeout pkt s
  | .pegRequest pkt => Sys2Proof.Machine.execPegRequest pkt s
  | .pegArrival router => Sys2Proof.Machine.execPegArrival router s
  | .linkFlitNak link => Sys2Proof.Machine.execLinkFlitNak link s
  | .linkRetrainComplete link => Sys2Proof.Machine.execLinkRetrainComplete link s
  | .bucketLeak link => Sys2Proof.Machine.execBucketLeak link s
  | .linkExchangeTimeout link => Sys2Proof.Machine.execLinkExchangeTimeout link s
  | .fabricPacketReceive conn psn authentic payload => Sys2Proof.Machine.execFabricPacketReceive conn psn authentic payload s
  | .fabricAckReceive conn cum bitmap mark => Sys2Proof.Machine.execFabricAckReceive conn cum bitmap mark s
  | .transitHoldExpire idx => Sys2Proof.Machine.execTransitHoldExpire idx s
  | .slotLost slot => Sys2Proof.Machine.execSlotLost slot s
  | .firmwareEventAction unit => Sys2Proof.Machine.execFirmwareEventAction unit s
  | .engineHaltStop cluster e => Sys2Proof.Machine.execEngineHaltStop cluster e s
  | .mcoreHaltStop unit slot => Sys2Proof.Machine.execMcoreHaltStop unit slot s
  | .lportWrite bytes => Sys2Proof.Machine.execLportWrite bytes s
  | .launchWaitRecheck queue => Sys2Proof.Machine.execLaunchWaitRecheck queue s
  | .clusterDefect cluster => Sys2Proof.Machine.execClusterDefect cluster s
  | .spcmdWopen wid => Sys2Proof.Machine.execSpcmdWopen wid s
  | .spcmdKeyload wid => Sys2Proof.Machine.execSpcmdKeyload wid s
  | .spcmdWclose wid => Sys2Proof.Machine.execSpcmdWclose wid s
  | .spcmdToken wid => Sys2Proof.Machine.execSpcmdToken wid s
  | .spcmdRekey wid => Sys2Proof.Machine.execSpcmdRekey wid s
  | .spcmdInvalid opc => Sys2Proof.Machine.execSpcmdInvalid opc s
  | .registerWrite off value => Sys2Proof.Machine.execRegisterWrite off value s
  | .retentionEntry core => Sys2Proof.Machine.execRetentionEntry core s
  | .powerGateEntry core => Sys2Proof.Machine.execPowerGateEntry core s
  | .powerThrottle on => Sys2Proof.Machine.execPowerThrottle on s
  | .debugHalt lid => Sys2Proof.Machine.execDebugHalt lid s
  | .debugStep core => Sys2Proof.Machine.execDebugStep core s
  | .debugAccess core item write => Sys2Proof.Machine.execDebugAccess core item write s
  | .backInvalidationResponse line => Sys2Proof.Machine.execBackInvalidationResponse line s
  | .cxlCacheGrant line state data => Sys2Proof.Machine.execCxlCacheGrant line state data s
  | .weightStoreGranuleAssign die granule world => Sys2Proof.Machine.execWeightStoreGranuleAssign die granule world s
  | .debugResume lid => Sys2Proof.Machine.execDebugResume lid s
  | .burrowDelivery => Sys2Proof.Machine.execBurrowDelivery s
  | .pegReissue => Sys2Proof.Machine.execPegReissue s
  | .launchDispatch => Sys2Proof.Machine.execLaunchDispatch s
  | .spcmdConfig => Sys2Proof.Machine.execSpcmdConfig s
  | .spcmdAttest => Sys2Proof.Machine.execSpcmdAttest s
  | .spcmdWarm => Sys2Proof.Machine.execSpcmdWarm s
  | .spcmdSleep => Sys2Proof.Machine.execSpcmdSleep s
  | .spcmdLoad => Sys2Proof.Machine.execSpcmdLoad s
  | .spcmdUnload => Sys2Proof.Machine.execSpcmdUnload s
  | .coldStart => Sys2Proof.Machine.execColdStart s
  | .sleepExit => Sys2Proof.Machine.execSleepExit s
  | .thermalTrip => Sys2Proof.Machine.execThermalTrip s

end Sys2Proof.Machine
end

