-- ==== Sys2Proof/Machine/Upset.lean ====
section
/-! DEFINITION. What happens inside the hardware without an instruction or a step of the table: uncorrectable errors of the storages (R123,
R143, R212, R292, R299, R301, R305), transient errors of reads (R255), evictions of an L2 slice (R292), findings of self-tests (R215, R285,
R286), and the security processor's writes to the registers of a sweep (R303). A mark stands beside the data, which stay as they were: nothing
reads them without the mark. -/
namespace Sys2Proof.Machine

/-- The tile rows of the k-th tile of a pass that a column of its plane reaches (R202). -/
def columnRows (sp : Sparsity) (k col : Nat) : List Nat :=
  let tr := tileSpread sp
  (List.range 16).filter fun r => k + tr.1 * (r / tr.2) == col / 256

/-- The tiles of the x.mul whose beats an array runs, first to last: those of the last pass issued there. -/
def Core.runningPass (c : Core) (arr : Bool) : List Pass :=
  let a := c.arr arr
  let mine := c.passes.filter fun p => (p.tile / 4 == 1) == arr && p.handler == a.passHandler
  if a.passMul && decide (c.tick < a.passStart + a.passBeats) then
    mine.drop (mine.length - 1 - mine.reverse.findIdx Pass.lead)
  else []

/-- A parity error in a column of a plane (R212): the column is poisoned, and with it the elements of a running pass that it feeds. -/
def Core.planeError (c : Core) (arr shadow : Bool) (col : Nat) : Core :=
  let a := c.arr arr
  let pl := if shadow then a.shadow else a.active
  let pl := { pl with col := SMap.set pl.col col { SMap.get {} pl.col col with poison := true } }
  let c := c.setArr arr (if shadow then { a with shadow := pl } else { a with active := pl })
  if shadow && !a.passDw then c
  else
    let run := c.runningPass arr
    { c with passes := c.passes.map fun p =>
        if run.contains p then { p with poison := (columnRows pl.sp (run.idxOf p) col).foldl (fun t r =>
          SMap.put 0 t r (SMap.get 0 t r ||| (1#256 <<< (col % 256)))) p.poison }
        else p }

/-- Whether a command reads global memory (R246, R250, R251, R254, R273). -/
def Cmd.readsGlobal (m : Cmd) : Bool :=
  match m.i with
  | .eCpy .. | .eCpyWadd .. => (match m.cpy with | some y => y.ss == .glb | none => false)
  | .eGath .. | .eScat .. => (match m.gath with | some y => !y.scat && y.glb | none => false)
  | .eGet _ _ _ _ _ rsp => !rsp
  | .eRatom .. | .eCtxRest .. => true
  | _ => false

/-- Reads that a command is to make once more before it gives up (R255). -/
def engineRetries : Nat := 3

/-- A read of a line of global memory by a running command returns a transient error: it is read again, and when every retry has failed the
command is abandoned with POISON (R255, R263). -/
def Core.readError (c : Core) (id line : Nat) : Core :=
  match c.cmd id with
  | none => c
  | some m =>
    let runs := match m.st with | .running _ | .fabric _ => true | _ => false
    if !runs || !m.readsGlobal then c
    else
      let k := match m.retry with | some (l, k) => if l = line then k + 1 else 1 | none => 1
      if engineRetries < k then (c.modCmd id fun m => { m with retry := none }).abandon m cPOISON (BitVec.ofNat 64 (64 * line))
      else c.modCmd id fun m => { m with retry := some (line, k) }

/-- A write of the security processor to a register of a sweep (R303): SWBASE, SWEND and WID are ignored while GO reads 1, DONE is cleared by
writing 1, GO by no write. -/
def State.sweepWrite (s : State) (k reg value : Nat) : State :=
  let w := s.sweep k
  match reg with
  | 0 =>
    let w := { w with wid := if w.go then w.wid else value % 16, pause := value / 32 % 2 == 1 }
    s.setSweep k (if value / 16 % 2 = 1 && !w.go && decide (w.base < w.end_) then { w with go := true, ptr := w.base, live := true } else w)
  | 1 => s.setSweep k (if w.go then w else { w with base := value / 512 % 2 ^ 40 })
  | 2 => s.setSweep k (if w.go then w else { w with end_ := value / 512 % 2 ^ 40 })
  | 3 => s.setSweep k (if value % 2 = 1 then { w with done := false } else w)
  | _ => s

/-- The logical cluster that a physical one serves. -/
def State.serves (s : State) (die pc : Nat) : Option Nat :=
  (List.range 32).find? fun cl => dieOf (clusterCore cl 0) == die && s.physCluster (clusterCore cl 0) == pc

/-- A defect found in service: CLUSTER_DEFECT of the cluster it stands in (R286); the spare is spare no longer (R285). -/
def State.defectAt (s : State) (die pc : Nat) : Out :=
  match s.serves die pc with
  | some cl => execClusterDefect cl s
  | none => .next (if (s.sister die).spare = pc then { s with sisters := SMap.set s.sisters die { s.sister die with spare := 15 } } else s)

/-- An error, an eviction or a finding takes place; one in a unit the package does not have is none. -/
def State.upset (s : State) : Upset → Out
  | .spRow n row => .next (if n < 256 ∧ row < 6144 then s.modCore n fun c => { c with spPoison := SMap.put false c.spPoison row true } else s)
  | .ctabLine n line =>
    .next (if n < 256 ∧ line < 1024 then s.modCore n fun c => { c with ctabPoison := SMap.put false c.ctabPoison line true } else s)
  | .plane n arr shadow col => .next (if n < 256 ∧ col < 4096 then s.modCore n fun c => c.planeError arr shadow col else s)
  | .l1Line n line => .next (if n < 256 then s.modCore n fun c => c.l1Mod line fun l => { l with poison := true } else s)
  | .l2Line line => .next (match s.l2Line line with | some x => s.setL2 line { x with poison := true } | none => s)
  | .blockState b =>
    .next (if populated (512 * b) then s.setBlock b { s.block b with poison := BitVec.allOnes 8 } else s)
  | .blockTag b => .next (if populated (512 * b) then s.setBlock b { s.block b with bad := true } else s)
  | .wsWord d w => .next (if d < 4 ∧ w < 2 ^ 25 then { s with wsPoison := SMap.put false s.wsPoison (d * 2 ^ 25 + w) true } else s)
  | .readError n id line => .next (if n < 256 then s.modCore n fun c => c.readError id line else s)
  | .evict line => .next (s.evictL2 line)
  | .sweepWrite d c r v => .next (if d < 4 ∧ c < 4 then s.sweepWrite (4 * d + c) r v else s)
  | .saveAbort cl => .next (s.abortDrain cl)
  | .badRow unit arr row =>
    if 288 ≤ unit || 264 ≤ row then .next s
    else
      let s := { s with badRows := s.badRows ++ [1024 * unit + 512 * b2n arr + row] }
      if rowsExceed (s.failing s.sec.conf unit) then s.defectAt (unit / 72) (unit % 72 % 12 / 4 + 3 * (unit % 72 / 24)) else .next s
  | .badCluster d pc =>
    if 4 ≤ d || 9 ≤ pc then .next s else { s with badClusters := s.badClusters ++ [9 * d + pc] }.defectAt d pc

end Sys2Proof.Machine
end

