-- ==== Sys2Proof/Machine/Turn.lean ====
section
/-! DEFINITION. Turns of the package (log entry 2): what a core or a communication core issues when it is its turn, which steps the package
takes of itself, and who moves next where the order of moves does not say so. -/
namespace Sys2Proof.Machine

/-! ## A core's turn -/

/-- Whether a core issues: it runs, and is not clock-gated but for a cause it is to take (R280). -/
def Core.issues (c : Core) : Bool := c.run == .running && (!c.gated || (!c.handler && !c.async.isEmpty))

/-- The state in which a core fetches: over the power limit a stall cycle comes before each group (R378). -/
def State.readyCore (s : State) (n : Nat) : State :=
  let c := s.core n
  let c := { c with gated := false, pc := c.groupAt c.pc }
  { s.setCore n (if s.sec.throttle then c.idleCycles 1 else c) with cur := n, turn := n }

/-- What a core issues: the meaning of a slot alone is its instruction's. -/
def issueFetched (s : State) (n off : Nat) : Fetched → Out
  | .past => .next (s.headerTrap n 0x40000 0x40000 false)
  | .badHeader h second => .next (s.headerTrap n off h second)
  | .nop => exec .nopGroup s
  | .solo i => exec i s
  | .group next items => .next (issueGroup n off next items s)

def State.coreTurn (s : State) (n : Nat) : Out :=
  if (s.core n).issues then
    let s := s.readyCore n
    let off := (s.core n).pc
    issueFetched s n off ((s.core n).fetch off)
  else .next s

/-! ## A communication core's turn -/

/-- The word at a program counter (R416): an unassigned one, and a pc past the last word, raise ILLEGAL. -/
def State.martenTurn (s : State) (m k : Nat) : Out :=
  let x := s.marten m k
  if !x.runs then .next s
  else if 4096 ≤ x.pc then .next (s.martenFault m k cILLEGAL)
  else match decodeK (SMap.get 0 x.prog x.pc) with
    | some i => exec i { s with curM := m, curSlot := k, turn := 256 + 4 * m + k }
    | none => .next (s.martenFault m k cILLEGAL)

/-! ## Units that exist -/

/-- The first unit an event names that the package does not have. -/
def badUnit (i : Instr) : Option Nat :=
  let below := fun (n k : Nat) => if k < n then none else some k
  let two := fun (a b : Option Nat) => match a with | some k => some k | none => b
  match i with
  | .asyncCauseTake n | .witnessComplete n | .adjbComplete n | .fTableLoadComplete n _ | .pendingResultDelivery n | .loadResultArrival n _
  | .storeAckArrival n _ | .xLdwComplete n _ | .xPassCommit n _ | .xStComplete n _ | .engineCommandStart n _ | .engineCommandComplete n _
  | .landingChunkArrival n _ | .orderedFlagPerform n _ | .barrierPostApply n _ | .barrierArrivalApply n _ | .pageWalkComplete n
  | .tlbInvalidateArrival n | .reductionResultDelivery n _ | .coreHaltStop n | .clockGateEntry n | .refreshWindowOpen n | .refreshWindowClose n
  | .dirRead n _ | .dirReadExclusive n _ | .dirUpgrade n _ | .dirEvictionNotice n _ _ | .l1Invalidate n _ | .l1Downgrade n _
  | .retentionEntry n | .powerGateEntry n | .debugStep n | .debugAccess n _ _ => below 256 n
  | .tlbiComplete n => below 257 n
  | .flagIncrementApply c _ | .clusterDefect c => below 32 c
  | .engineHaltStop c e => two (below 32 c) (below 3 e)
  | .stepComplete m k _ | .mcoreTimerExpire m k _ | .mcoreHaltStop m k => two (below 8 m) (below 4 k)
  | .firmwareEventAction m => below 8 m
  | .barrierByteArrival b _ => below 64 b
  | .weightStoreWriteStart d => below 4 d
  | .weightStoreGranuleAssign d g w => two (below 4 d) (two (below 256 g) (below 16 w))
  | .sweepBlock d c | .sweepStart d c | .sweepPause d c _ => two (below 4 d) (below 4 c)
  | .launchWaitRecheck q => below 32 q
  | .slotLost k => below 2048 k
  | _ => none

/-- Whether a constructor is a step the table gives no encoding: the steps that happen of themselves or from outside. -/
def isEvent (i : Instr) : Bool := encode i == .none

/-- A step of the package's own takes place (log entry 2). -/
def State.eventTurn (s : State) (i : Instr) : Out :=
  if !isEvent i then .next s
  else match badUnit i with
    | some n => .fault (.noSuchUnit n)
    | none => exec i s

/-- Steps a package without power can take (R375, R377). -/
def wakes : Instr → Bool
  | .coldStart | .sleepExit | .thermalTrip => true
  | _ => false

/-- A move, and whether the package has the power for it. -/
def State.move (s : State) : Choice → Out
  | .core n => if s.sec.power == .on && decide (n < 256) then s.coreTurn n else .next s
  | .marten m k => if s.sec.power == .on && decide (m < 8) && decide (k < 4) then s.martenTurn m k else .next s
  | .event i => if s.sec.power == .on || wakes i then s.eventTurn i else .next s
  | .upset u => s.upset u

/-! ## Steps the package takes of itself (log entry 2) -/

/-- Steps of one core that may be due. -/
def State.coreEvents (s : State) (n : Nat) (c : Core) : List (State → Out) :=
  (match s.launch c.lid with
   | some l => if c.run != .idle && (c.stopCause != 0 || l.finished || (l.line && c.run == .running && !c.handler)) then [execCoreHaltStop n] else []
   | none => []) ++
  (if c.walk.isSome then [execPageWalkComplete n] else []) ++
  (if c.pend.any (fun p => p.delay == 0) then [execPendingResultDelivery n] else []) ++
  (c.accs.filterMap fun a =>
    if a.isFence then none
    else match a.op with
      | .post _ => some (execBarrierPostApply n a.id)
      | .arrive => some (execBarrierArrivalApply n a.id)
      | .finc _ => none
      | _ => some (if a.acked then execStoreAckArrival n a.id else execLoadResultArrival n a.id)) ++
  (c.held.map fun h => execOrderedFlagPerform n h.acc) ++
  [false, true].flatMap (fun a => (if (c.arr a).ldw.isSome then [execXLdwComplete n a] else []) ++
    (if (c.arr a).st.isSome then [execXStComplete n a] else [])) ++
  (if c.wit.isSome then [execWitnessComplete n, execAdjbComplete n] else []) ++
  (c.cmds.flatMap fun m => [execEngineCommandStart n m.id, execEngineCommandComplete n m.id]) ++
  (if c.run == .running then [execRefreshWindowOpen n] else []) ++ (if c.refresh then [execRefreshWindowClose n] else []) ++
  (if c.tlbiWait then [execTlbiComplete n] else [])

/-- The routers a packet may go to next: along its circuit, across to its die, or to a neighbour in the mesh. -/
def State.nextRouters (s : State) (p : Pkt) : List Nat :=
  let a := p.at_
  (s.launches.flatMap fun e => match e.2 with
    | some l => (l.circs.filter fun c => p.circ && c.id == p.cid).flatMap fun c => c.hops.map Hop.router
    | none => []) ++ (if a / 128 ≠ p.dst / 128 then [p.dst] else [a + 1, a - 1, a + 12, a - 12])

/-- Whether an engine of a cluster runs a command. -/
def State.engineBusy (s : State) (cl e : Nat) : Bool :=
  (List.range 8).any fun j => (s.core (clusterCore cl j)).cmds.any fun m => m.onEngine && m.eng == e

/-- Steps of the network, the port switch and the scheduler that may be due. -/
def State.otherEvents (s : State) : List (State → Out) :=
  (match s.sec.cmd with
   | some (0x01, _) => [execSpcmdConfig] | some (0x02, w) => [execSpcmdWopen w] | some (0x03, w) => [execSpcmdKeyload w]
   | some (0x04, w) => [execSpcmdWclose w] | some (0x05, w) => [execSpcmdToken w] | some (0x06, _) => [execSpcmdAttest]
   | some (0x07, w) => [execSpcmdRekey w] | some (0x08, _) => [execSpcmdWarm] | some (0x09, _) => [execSpcmdSleep]
   | some (0x0A, _) => [execSpcmdLoad] | some (0x0B, _) => [execSpcmdUnload] | some (k, _) => [execSpcmdInvalid k]
   | none => []) ++
  (s.defects.map execClusterDefect) ++
  (s.clusters.flatMap fun e => match e.2.arrived with | i :: _ => [execFlagIncrementApply e.1 i.flag] | [] => []) ++
  (s.barIn.map fun b => execBarrierByteArrival b.1 b.2.1) ++
  (s.pkts.flatMap fun e => match e.2 with
    | some p =>
      if p.at_ = p.dst then [if p.kind = 3 then execOrderedFlagArrival e.1 else execRemoteAccessArrival e.1]
      else ((s.nextRouters p).filter fun r => (s.hopOk p r).isSome).map fun r => execRouterPacketReceive r p.hdr
    | none => []) ++
  (s.tlbis.flatMap fun t => (t.left.filterMap fun e => if e.2.isNone then some (execTlbInvalidateArrival e.1) else none) ++ [execTlbiComplete t.core]) ++
  (s.fab.tens.map fun t => match t.dest with
    | .landing n => execLandingChunkArrival n t.p
    | .contribution h => execReductionContribution h t.p
    | .result n => execReductionResultDelivery n t.p
    | .mcast g => execMulticastDelivery (g % 4096) (g / 4096) t.p) ++
  (s.fab.serve.map fun e => execFabricRequestServe e.2) ++
  (s.fab.ctsIn.map fun e => execClearToSendArrival e.1 e.2) ++
  (s.fab.rowsIn.map fun e => execStepRowArrival e.1 e.2.1 e.2.2.1 e.2.2.2) ++
  (s.martens.flatMap fun e =>
    let m := e.1 / 4
    let k := e.1 % 4
    (match s.launch e.2.lid with | some l => if l.line && e.2.runs then [execMcoreHaltStop m k] else [] | none => []) ++
    (e.2.timers.filterMap fun t => if t.2 = 1 then some (execMcoreTimerExpire m k t.1) else none) ++
    (e.2.steps.map fun t => execStepComplete m k t.id) ++
    (if k = 0 && !e.2.queue.isEmpty then [execFirmwareEventAction m] else [])) ++
  ([0, 1, 2, 3].map execWeightStoreWriteStart) ++
  (s.sweeps.filterMap fun e => if e.2.go && !e.2.pause then some (execSweepBlock (e.1 / 4) (e.1 % 4)) else none) ++
  (s.launches.flatMap fun e => match e.2 with
    | some l =>
      (if l.line then l.holds.flatMap (fun cl => ([0, 1, 2].filter (s.engineBusy cl)).map (execEngineHaltStop cl)) else []) ++
        (if l.finished then [execClusterRelease e.1, execLaunchCompletionRelease e.1] else [])
    | none => []) ++
  (s.queues.map fun e => execLaunchWaitRecheck e.1) ++
  [execLaunchDispatch]

/-- Whether a step changes the package. -/
def State.moves (s : State) (f : State → Out) : Bool :=
  match f s with
  | .next s' => s' != s
  | _ => false

/-- The first step the package takes of itself. -/
def State.ownEvent (s : State) : Option (State → Out) :=
  (s.cores.flatMap (fun e => s.coreEvents e.1 e.2) ++ s.otherEvents).find? s.moves

/-- The first unit after the one served last that issues: cores, then program slots. -/
def State.nextUnit (s : State) : Option Choice :=
  let order := (List.range 288).map fun k => (s.turn + 1 + k) % 288
  (order.find? fun u => if u < 256 then (s.core u).issues else (s.marten ((u - 256) / 4) ((u - 256) % 4)).runs).map fun u =>
    if u < 256 then .core u else .marten ((u - 256) / 4) ((u - 256) % 4)

/-- The port by which a packet in transit leaves. -/
def State.outPort (s : State) (w : Wire) : Wire :=
  match w.payload with
  | .foreign dst _ => { w with port := some (s.portOf (Config.portFor dst)) }
  | _ => w

/-- Nothing of the package moves: packets in transit leave by their ports (R379). -/
def State.idle (s : State) : State :=
  { s with fab := { s.fab with wire := s.fab.wire ++ s.fab.transit.map s.outPort, transit := [] } }

/-- What moves where the order of moves is empty. -/
def State.moveOwn (s : State) : Out :=
  if s.sec.power != .on then .next s
  else match s.ownEvent with
    | some f => f s
    | none =>
      match s.nextUnit with
      | some c => s.move c
      | none => .next s.idle

/-! ## An instruction placed where the next step fetches it -/

/-- The bytes of a bundle that holds one slot, with its stop bit (R69). -/
def soloBundle (i : Instr) : List Byte :=
  match encode i with
  | .w32 sl w => (BitVec.ofNat 8 (2 ^ sl.code + 128)) :: leBytes 4 w.toNat
  | .w64 sl w => (BitVec.ofNat 8 (2 ^ sl.code + 128)) :: leBytes 8 w.toNat
  | .header => [0x80]
  | _ => []

/-- A bundle at the start of the line where core 0 fetches; the core runs. -/
def State.placeBundle (s : State) (bytes : List Byte) : State :=
  let c := s.core 0
  let off := if c.pc < 0x40000 then c.pc / 64 * 64 else 0
  { s.setCore 0 { c with run := .running, gated := false, pc := off, text := putLineBytes c.text off bytes } with sched := [.core 0] }

/-- A word at the pc of program slot 1 of communication core 0; the slot runs. -/
def State.placeWord (s : State) (w : BitVec 32) : State :=
  let x := s.marten 0 1
  let pc := if x.pc < 4096 then x.pc else 0
  { s.setMarten 0 1 { x with run := .running, pc := pc, prog := SMap.put 0 x.prog pc w } with sched := [.marten 0 1] }

/-- An instruction of the table placed. -/
def State.placeInstr (s : State) (i : Instr) : State :=
  match encode i with
  | .kw w => s.placeWord w
  | .none => s
  | _ => s.placeBundle (soloBundle i)

end Sys2Proof.Machine
end

