-- ==== Sys2Proof/Machine/Step.lean ====
section
/-! DEFINITION. One step of the package (log entry 2), and a program word placed for the next one (log entry 3). -/
namespace Sys2Proof.Machine

/-- One step: the next move of the order `sched`, or where that is empty a move of the package's own choice. Every step counts in `clock`. -/
def step (s : State) : Host.Outcome State Fault Refusal :=
  match s.sched with
  | c :: l => State.move { s with sched := l, clock := s.clock + 1 } c
  | [] => State.moveOwn { s with clock := s.clock + 1 }

/-- The state in which the next step issues the instruction whose table bits are w (log entries 3 and 4). -/
def State.withFetchWord (s : State) (nbits w : Nat) : State :=
  match decodeTableWord nbits w with
  | some i => s.placeInstr i
  | none => s

end Sys2Proof.Machine
end

