-- ==== Sys2Proof/Safety.lean ====
section
/-! DEFINITION. The terms in which statements about the machine are made: what a sound state is, when an instruction alone in its group
executes, and the state its group commits to. -/
namespace Sys2Proof.Machine

/-- A step that neither faults nor refuses. -/
def Completes (o : Out) : Prop := ∃ t, o = .next t

/-- The memory keeps its canonical form. -/
def State.Sound (s : State) : Prop := Memory.wf s.mem

/-! ## An instruction alone in its group -/

/-- The slot of a group that holds one instruction, its group at `off` (R69). -/
def soloItem (i : Instr) (off : Nat) : Item := ⟨some i, noSlot, slotOf i, off + 1, false⟩

/-- What the slot is told of its group. -/
def soloCtx (i : Instr) (s : State) : Ctx :=
  let c := s.core s.cur
  ⟨s.cur, c.pc, c.pc + 1 + (slotOf i).bytes, c.pc + 1, slotOf i, false, c.segCount + 1, c.signature [soloItem i c.pc], { c with drain := none }⟩

/-- No cause is taken in place of the group (R264), the checks made before issue pass (R88), nothing stalls it (R98). -/
def Core.grouped (c : Core) (paired : Bool) (i : Instr) : Bool :=
  (c.handler || c.async.isEmpty) && (c.preIssue paired c.pc [soloItem i c.pc]).isNone && !c.groupStalls [soloItem i c.pc]

/-- When the slot of an instruction alone in its group executes: it is grouped, its guard is true (R76), it reads no poisoned register (R143). -/
def Core.issuesSolo (c : Core) (paired : Bool) (i : Instr) : Bool :=
  c.grouped paired i && c.guardTrue (guardOf i) && !(readsOf i).any c.poisoned

def State.issuesSolo (s : State) (i : Instr) : Bool := (s.core s.cur).issuesSolo (s.paired s.cur) i

/-- The state in which the slot of an instruction other than c.scrub runs: the group of the last l.drain is behind it (R158). -/
def State.begun (s : State) : State := s.modCore s.cur fun c => { c with drain := none }

/-- Whether an instruction is a c.scrub, whose units are zero before any slot of its group runs (R274). -/
def isScrub : Instr → Bool
  | .cScrub .. => true
  | _ => false

/-- What the slot of an instruction alone in its group comes to. -/
def soloSlot (i : Instr) (s : State) : SlotOut :=
  let it : Item := ⟨some i, slotFn i, slotOf i, (s.core s.cur).pc + 1, false⟩
  runItem (soloCtx i s) it (s.modCore s.cur fun c => c.begun [it])

/-- The group commits with what its slot made of the state, and the core's egress goes on (R74, R86, R103, R139). -/
def soloNext (i : Instr) (s s' : State) (k : Ctl) : State :=
  (s'.modCore s.cur fun c => c.commit (soloCtx i s) k).egress s.cur

/-- The group commits with one register result of latency n. -/
def soloResult (i : Instr) (s : State) (n : Nat) (w : RegWrite) : State :=
  soloNext i s (s.begun.modCore s.cur fun c => c.push n w) .fall

/-- The core when the results due at the end of its group have landed (R86). -/
def State.landed (s : State) : Core := (s.core s.cur).advance (s.core s.cur).handler

/-- A result on its way in a core: k more groups, its latency in cycles run at a tick (R86, R97). -/
def Core.pushAt (c : Core) (k ready : Nat) (w : RegWrite) : Core := { c with pend := c.pend ++ [⟨c.handler, k, w, ready⟩] }

/-- A core after k more committed groups of its mode that write nothing of their own (R86, R96). -/
def Core.advances (c : Core) : Nat → Core
  | 0 => c
  | k + 1 => (c.advances k).advance c.handler

/-- A core whose group falls through, its results landed: the loop end test, the cycle count, the scribe (R95, R103, R105). -/
def Core.fallen (x : Ctx) (c : Core) : Core :=
  { c.setStack (loopEnd x.off x.next c.stack).1 with
    pc := (loopEnd x.off x.next c.stack).2
    spr := { c.spr with cyc := c.spr.cyc + 1 }
    tick := c.tick + 1
    walkFault := none
    fwait := 0
    recs := []
    segCount := if c.handler then c.segCount else x.count
    segCrc := if c.handler then c.segCrc else x.crc }

/-- Where fetch goes after a group that makes no transfer, with the loop levels left (R103). -/
def State.follow (s : State) (i : Instr) : List Loop × Nat :=
  loopEnd (s.core s.cur).pc (soloCtx i s).next (s.core s.cur).stack

/-- An access but for the mark that it has left the egress, and for the acknowledgement that a write a shadow run discards has there (R287). -/
def Acc.unmarked (a : Acc) : Acc := { a with sent := false, reply := none }

/-- What the egress of core n may change: the marks of that core's accesses and the path classes it takes next (R332), the network, the flag
files' arrivals, the fabric, the counts of flits. -/
structure EgressFrame (n : Nat) (s t : State) : Prop where
  mem : t.mem = s.mem
  other : ∀ k, k ≠ n → t.core k = s.core k
  own : ∃ (l : List Acc) (r : SMap Nat), l.map Acc.unmarked = (s.core n).accs.map Acc.unmarked ∧ t.core n = { s.core n with accs := l, classRR := r }
  rest : { t with cores := [], pkts := [], nextPkt := 0, clusters := [], fab := {}, routerEvents := [] } =
    { s with cores := [], pkts := [], nextPkt := 0, clusters := [], fab := {}, routerEvents := [] }

/-! ## A program slot of a communication core -/

/-- The program slot that issues. -/
def State.curSlotState (s : State) : MSlot := s.marten s.curM s.curSlot

/-- When a word executes: its program runs, no register it names waits for a k.ldg, none it reads is poisoned (R417, R419). -/
def MSlot.issues (x : MSlot) (reads writes : List KReg) : Bool :=
  x.runs && !((reads ++ writes).any fun r => x.waits.contains r.toNat) &&
    !(reads.any fun r => r.toNat != 0 && SMap.get false x.kPoison r.toNat)

/-- A word that transfers nowhere and changes its slot by f. -/
def kFalls (s : State) (f : MSlot → MSlot) : State := (s.modCur f).modCur MSlot.advance

/-- When a word executes on the slot that issues: the launch of its program has not ended either (R409). -/
def State.kIssues (s : State) (reads writes : List KReg) : Bool :=
  s.curSlotState.issues reads writes && !s.programOver s.curSlotState

end Sys2Proof.Machine
end

