-- ==== Sys2Proof/Certificates/Slice0/Obligations.lean ====
section
/-! DEFINITION. The statements about the machine. Slot instructions are stated for an instruction alone in its group that executes
(`State.issuesSolo`); `soloResult` and `soloNext` are the states their group commits to, which ResultFrame and GroupFrame spell out. -/
open Sys2Proof Sys2Proof.Machine

/-! ## Encoding, fetch and the step -/

/-- Words the spec writes out decode to the instructions it writes beside them: the examples of R84, R97's chapter, R139, R171, R188, R219,
R247, R274, R278, R386 and the listing of the event program of chapter 24. -/
def Obligations.DecodeSpecWords : Prop :=
  decode (.w32 .a 0x20031840) = some (.aAddi 0 3 3 64) ∧
  decode (.w32 .c 0x0A104005) = some (.cLoop 0 (.spr 8) 5) ∧
  decode (.w32 .c 0x40002140) = some (.cFinc 0 4 5) ∧
  decode (.w32 .c 0x6400000F) = some (.cScrub 0 0xF) ∧
  decode (.w32 .l 0x00021800) = some (.lLd 0 .lo 2 3 0) ∧
  decode (.w32 .l 0x10071603) = some (.lLdg 0 .b4 true 7 2 3) ∧
  decode (.w32 .l 0x300452E0) = some (.lAop 0 .add false false true 4 10 11) ∧
  decode (.w32 .v 0x00441080) = some (.vAdd .s32 4 2 2 ⟨0, 0, 0⟩) ∧
  decode (.w32 .v 0x41041690) = some (.vCvt .bf16 .fp32 .rto 4 2 1 0) ∧
  decode (.w32 .v 0x81072140) = some (.vWmax .bf16 7 4 5) ∧
  decode (.w32 .v 0x8D492140) = some (.vAdjb .fp32 .split false true 4 5) ∧
  decode (.w32 .f 0x02062810) = some (.fEval 0 .bf16 4 false 6 5) ∧
  decode (.w64 .x 0x0624080048000000) = some (.xMul 1 2 1024 4 .sp4 false false) ∧
  decode (.w64 .e 0x0818010008000000) = some (.eHset 3 false true 0 0 1) ∧
  decode (.w64 .e 0x201080000849D002) = some (.ePutLand 2 1 1 ⟨false, true, .clu⟩ 7 2) ∧
  decode (.w64 .e 0x2428000000628008) = some (.eRatom 5 ⟨false, true, .fab⟩ 10 (.aop .add) true false) ∧
  decode (.kw 0x64400009) = some (.kBne 1 0 9) ∧
  decode (.kw 0x34C00002) = some (.kLi 3 2) ∧
  decode (.kw 0x6C3FFFF9) = some (.kJmp (-7))

/-- For every well-formed instruction that has an encoding, decoding its encoding gives it back, every operand at every value. -/
def Obligations.DecodeEncode : Prop :=
  ∀ i : Instr, i.wf = true → encode i ≠ .none → decode (encode i) = some i

namespace Sys2Proof.Claims

/-- The header of a bundle with one slot of a class and the stop bit (R69). -/
def header (sl : Slot) : Byte := BitVec.ofNat 8 (128 + 2 ^ sl.code)

/-- The word of a slot at a byte offset of a core's text, as its class stores it (R69). -/
def wordAt (c : Core) (sl : Slot) (off : Nat) : Encoded :=
  if sl.bytes = 8 then .w64 sl (BitVec.ofNat 64 (lineNat c.text off 8)) else .w32 sl (BitVec.ofNat 32 (lineNat c.text off 4))

/-- The state a step moves from: the order of moves one shorter, one more step counted. -/
def stepped (s : State) (l : List Choice) : State := { s with sched := l, clock := s.clock + 1 }

end Sys2Proof.Claims

open Sys2Proof.Claims

/-- A step of a core whose bundle holds one slot runs exactly the instruction its word decodes to, from the state in which the core stands
ungated at its group (and one cycle later under throttling).
A step of a program slot of a communication core runs the instruction the word at its pc decodes to.
A step named in the order of moves takes place, where its units exist; one that names a unit the package does not have stops the machine
with noSuchUnit (the model's choice, log entry 2).
Every instruction of the slot classes C, A, L, V, F, X and E means the same alone in its group, where `exec` issues it, as in a group of
several, where `slotFn` gives its slot. -/
def Obligations.StepRunsDecoded : Prop :=
  (∀ (s : State) (n : Nat) (l : List Choice) (sl : Slot) (i : Instr),
     s.sched = .core n :: l → s.sec.power = .on → n < 256 → (s.core n).issues = true →
     let t := (stepped s l).readyCore n
     let c := t.core n
     c.pc < 0x40000 → c.pc % 64 + (1 + sl.bytes) ≤ 64 → lineByte c.text c.pc = header sl →
     decode (wordAt c sl (c.pc + 1)) = some i →
     step s = exec i t) ∧
  (∀ (s : State) (m k : Nat) (l : List Choice) (i : Instr),
     s.sched = .marten m k :: l → s.sec.power = .on → m < 8 → k < 4 → (s.marten m k).runs = true → (s.marten m k).pc < 4096 →
     decode (.kw (SMap.get 0 (s.marten m k).prog (s.marten m k).pc)) = some i →
     step s = exec i { stepped s l with curM := m, curSlot := k, turn := 256 + 4 * m + k }) ∧
  (∀ (s : State) (i : Instr) (l : List Choice), s.sched = .event i :: l → s.sec.power = .on → encode i = .none →
     (badUnit i = none → step s = exec i (stepped s l)) ∧ (∀ k, badUnit i = some k → step s = .fault (.noSuchUnit k))) ∧
  (∀ (i : Instr) (s : State), (∃ sl w, encode i = .w32 sl w) ∨ (∃ sl w, encode i = .w64 sl w) → exec i s = issueSolo i (slotFn i) s)

/-! ## Issue, results and the frame -/

/-- R86 and R96: a result of latency n put on its way is written n groups of its mode later: until then the core is the one without it but
for the entry on its way, and then the one without it with the result written; a group of the other mode leaves it where it is, and so does
a group that a fault cancels. -/
def Obligations.ResultPipeline : Prop :=
  ∀ (c : Core) (w : RegWrite) (n k : Nat), 1 ≤ n →
    (k < n → (c.push n w).advances k = (c.advances k).pushAt (n - k) (c.tick + n) w) ∧
    (c.push n w).advances n = (c.advances n).deliver w ∧
    (c.push n w).advance (!c.handler) = (c.advance (!c.handler)).push n w ∧
    ∀ (s : State) (m cause cls code epc : Nat) (second : Bool) (fa : Word),
      ((s.takeTrap m cause cls second code fa epc).core m).pend = (s.core m).pend

/-- The frame of an instruction with one register result w of latency n. With n = 1 the own core is the one whose earlier results have
landed, with w written; with a greater n it has w on its way. Its group falls through, and nothing else changes: no byte of memory, no
other core, no other part of the package, but what waiting accesses of the core send to the network and the fabric.
The frame of a group with any transfer k and whatever its slot made of the state: its core commits, and nothing else changes. A group
that falls through, skips a loop body, traps by c.trap or changes banks has its core's results landed, the cycle counted and the loop end
test made (that a skipped body's group and a c.trap's make it: log entries 26 and 27). -/
def Obligations.Frames : Prop :=
  (∀ (i : Instr) (s : State) (n : Nat) (w : RegWrite), 1 ≤ n →
     EgressFrame s.cur
       (s.begun.modCore s.cur fun c =>
         (if n = 1 then (c.advance c.handler).deliver w else (c.advance c.handler).pushAt (n - 1) (c.tick + n) w).fallen (soloCtx i s))
       (soloResult i s n w) ∧
     ∀ a, (soloResult i s n w).byte a = s.byte a) ∧
  (∀ (i : Instr) (s s' : State) (k : Ctl),
     EgressFrame s.cur (s'.modCore s.cur fun c => c.commit (soloCtx i s) k) (soloNext i s s' k) ∧
     (∀ a, (soloNext i s s' k).byte a = s'.byte a) ∧
     ∀ c : Core,
       c.commit (soloCtx i s) .fall = (c.advance c.handler).fallen (soloCtx i s) ∧
       (∀ t, c.commit (soloCtx i s) (.skip t) = (c.advance c.handler).fallen { soloCtx i s with next := t }) ∧
       (∀ k, c.commit (soloCtx i s) (.trapi k) = { (c.advance c.handler).fallen (soloCtx i s) with pc := (soloCtx i s).next }) ∧
       (∀ b m n, c.commit (soloCtx i s) (.bank b m n) = ((c.advance c.handler).fallen (soloCtx i s)).setBanks b m n))

/-- R93, R94 and R164: s0 reads as zero, p0 as true and w0 as all ones, whatever is written to them, and such a write changes no register and counts as no
destination. -/
def Obligations.HardWired : Prop :=
  ∀ (c : Core) (v : Word) (b p : Bool) (m : Mask),
    c.regs.rs 0 = 0 ∧ c.regs.rp 0 = true ∧ c.regs.rw 0 = BitVec.allOnes 128 ∧
    c.deliver (.s 0 v p) = c ∧ c.deliver (.p 0 b) = c ∧ c.deliver (.w 0 m) = c ∧
    ∀ i, .s 0 ∉ writesOf i ∧ .p 0 ∉ writesOf i

/-- A register written reads as written, and every other register of its kind as before; a write to bits of a vector register reads there as
written and elsewhere as before (R93, R163, R164). -/
def Obligations.RegisterFile : Prop :=
  ∀ (r : Regs) (n k i : Nat) (v : Word) (b po : Bool) (q : Desc) (m : Mask) (mask val : VReg) (lp : BitVec 4),
    (n ≠ 0 → (r.writeS n v po).rs n = v ∧ (r.writeP n b).rp n = b ∧ (r.writeW n m).rw n = m) ∧ (r.writeQ n q po).rq n = q ∧
    ((r.writeV n mask val lp).rv n).getLsbD i = (if mask.getLsbD i then val.getLsbD i else (r.rv n).getLsbD i) ∧
    (k ≠ n → (r.writeS n v po).rs k = r.rs k ∧ (r.writeP n b).rp k = r.rp k ∧ (r.writeQ n q po).rq k = r.rq k ∧
      (r.writeW n m).rw k = r.rw k ∧ (r.writeV n mask val lp).rv k = r.rv k)

/-! ## Guards, checks before issue, traps -/

/-- R76: under a false guard an instruction makes no change of its own and raises nothing; its group commits, whatever the instruction. -/
def Obligations.FalseGuard : Prop :=
  ∀ (i : Instr) (g : Guard) (s : State), guardOf i = some g → (s.core s.cur).grouped (s.paired s.cur) i = true →
    (s.core s.cur).guardTrue (some g) = false →
    exec i s = .next (soloNext i s s.begun .fall)

namespace Sys2Proof.Claims

/-- A slot instruction: one with a word of the classes C, A, L, V, F, X or E. -/
def isSlot (i : Instr) : Bool :=
  match encode i with
  | .w32 .. | .w64 .. => true
  | _ => false

/-- The trap of a check before issue (R89): EPC at the group, FADDR at the word, the class of the word. -/
def checkTrap (s : State) (i : Instr) (cause : Nat) : State :=
  let off := (s.core s.cur).pc
  s.takeTrap s.cur cause (slotOf i).code false 0 (BitVec.ofNat 64 (off + 1)) off

/-- Nothing asynchronous is taken before a group (R264). -/
def noAsync (s : State) : Prop := (s.core s.cur).handler = true ∨ (s.core s.cur).async = []

end Sys2Proof.Claims

/-- R91 (with R161, R272, R274 and R310): in task mode every instruction of handler mode raises PRIV, and its group commits nothing.
R288: in a paired launch the instructions it may not run raise PRIV before issue, in either mode.
ILLEGAL before issue, whatever the guard and the mode: a reserved value of an encoding (R88 check 3), an a.mts of a register of kind ro
(R95), a target of c.br or c.call out of range; and under a true guard a target of c.jmp or c.ret out of range (R72, R108). -/
def Obligations.PrivilegedAndIllegalTraps : Prop :=
  (∀ (i : Instr) (s : State), isSlot i = true → i.wf = true → handlerOnly i = true → (s.core s.cur).handler = false →
     (s.core s.cur).async = [] → exec i s = .next (checkTrap s i cPRIV)) ∧
  (∀ (i : Instr) (s : State), isSlot i = true → i.wf = true → pairForbidden i = true → s.paired s.cur = true → noAsync s →
     exec i s = .next (checkTrap s i cPRIV)) ∧
  (∀ (i : Instr) (s : State), isSlot i = true → noAsync s →
     (i.wf = false ∨ mtsReadOnly i = true ∨ (s.core s.cur).badTarget (s.core s.cur).pc (some i) = true) →
     exec i s = .next (checkTrap s i cILLEGAL))

/-- SCHED before issue (R87): an instruction with a destination that a result of its mode has pending, which is no fault to read, once nothing
stalls its group (R98).
R143 and R167: an instruction that would read a poisoned register raises POISON at its own word and commits nothing. -/
def Obligations.OccupancyAndPoisonTraps : Prop :=
  (∀ (i : Instr) (s : State) (r : Res), isSlot i = true → i.wf = true → noAsync s → mtsReadOnly i = false →
     (s.core s.cur).badTarget (s.core s.cur).pc (some i) = false → (s.core s.cur).lacksPriv (s.paired s.cur) i = false →
     r ∈ writesOf i → (s.core s.cur).pending r = true →
     (s.core s.cur).groupStalls [soloItem i (s.core s.cur).pc] = false → (soloSlot i s).isStall = false →
     exec i s = .next (checkTrap s i cSCHED)) ∧
  (∀ (i : Instr) (s : State), isSlot i = true → (s.core s.cur).grouped (s.paired s.cur) i = true → (s.core s.cur).guardTrue (guardOf i) = true →
     (readsOf i).any (s.core s.cur).poisoned = true →
     exec i s = .next (checkTrap s i cPOISON))

/-- R98: a group whose encoding is in order and that must wait stalls whole, be its destinations pending or not: one cycle passes, counted in
CYC and STALL, and nothing else of the package changes. -/
def Obligations.StallIsWhole : Prop :=
  ∀ (i : Instr) (s : State), isSlot i = true → noAsync s →
    (s.core s.cur).badEncoding (s.paired s.cur) (s.core s.cur).pc [soloItem i (s.core s.cur).pc] = none →
    (s.core s.cur).groupStalls [soloItem i (s.core s.cur).pc] = true →
    exec i s = .next (s.modCore s.cur fun c => { c with
      tick := c.tick + 1, fwait := 0
      spr := { c.spr with cyc := c.spr.cyc + 1, stall := c.spr.stall + 1 } })

/-- R264: an asynchronous cause held pending is taken at a task group boundary in place of the group, the one that arrived first, and the others
stay pending. -/
def Obligations.AsyncFirst : Prop :=
  ∀ (i : Instr) (s : State) (a : AsyncCause) (l : List AsyncCause), isSlot i = true → (s.core s.cur).handler = false →
    (s.core s.cur).async = a :: l →
    exec i s = .next ((s.modCore s.cur fun c => { c with async := l }).takeTrap s.cur a.cause a.cls false 0 a.faddr (s.core s.cur).pc)

/-- R265: entry to the handler. CAUSE, FADDR and EPC are written, WORLD[8] is set, fetch goes to the line TVEC, the monitor and the handler's
loop stack are cleared, and everything else of the core stands but what the group waited for: the results pending in task mode, the
registers, the scratchpad. -/
def Obligations.TrapEntry : Prop :=
  ∀ (s : State) (n cause cls code epc : Nat) (second : Bool) (fa : Word), (s.core n).handler = false →
    let t := s.takeTrap n cause cls second code fa epc
    t.core n = { s.core n with
      handler := true, pc := (s.core n).spr.tvec.toNat, monitor := none, hloops := [], walkFault := none, recs := [], fwait := 0
      spr := { (s.core n).spr with cause := causeWord cause cls second code, faddr := fa, epc := BitVec.ofNat 64 epc } } ∧
    ((t.core n).readSpr 25).getLsbD 8 = true ∧ (t.core n).readSpr 16 = causeWord cause cls second code ∧
    (∀ l, s.launch (s.core n).lid = some l → t.launch (s.core n).lid = some { l with line := true }) ∧
    (∀ k, k ≠ n → t.core k = s.core k) ∧ (∀ a, t.byte a = s.byte a)

/-- R266: a fault in handler mode is never taken into the handler. CAUSE, FADDR and EPC keep the first trap's values, XCAUSE receives the
cause, the core stops with NESTED, and the launch ends. -/
def Obligations.NestedFault : Prop :=
  ∀ (s : State) (n cause cls code epc : Nat) (second : Bool) (fa : Word), (s.core n).handler = true →
    let t := s.takeTrap n cause cls second code fa epc
    (t.core n).spr = { (s.core n).spr with xcause := causeWord cause cls second code } ∧
    (t.core n).run = .nested ∧ (t.core n).stopCause = cNESTED ∧ (t.core n).regs = (s.core n).regs ∧
    (∀ l, s.launch (s.core n).lid = some l → ∃ m, t.launch (s.core n).lid = some m ∧ m.finished = true ∧ m.line = true) ∧
    (∀ k, k ≠ n → t.core k = s.core k) ∧ (∀ a, t.byte a = s.byte a)

/-- A trap and the return from it bring task mode back where it was: at the group EPC names, its registers and its results on their way
unchanged, its loop levels kept (R97, R110, R265). -/
def Obligations.TrapAndReturn : Prop :=
  ∀ (s : State) (n cause cls code epc : Nat) (second : Bool) (fa : Word), (s.core n).handler = false → epc < 2 ^ 64 →
    (∀ p ∈ (s.core n).pend, p.handler = false ∧ p.delay ≠ 0) → (∀ p ∈ (s.core n).passes, p.handler = false) →
    let t := (s.takeTrap n cause cls second code fa epc).core n
    let c := t.returnFromTrap t.spr.epc.toNat
    c.handler = false ∧ c.pc = epc ∧ c.regs = (s.core n).regs ∧ c.pend = (s.core n).pend ∧ c.passes = (s.core n).passes ∧
    c.loops = (s.core n).loops ∧ c.tiles = (s.core n).tiles

/-! ## The A slot -/

namespace Sys2Proof.Claims

/-- The register an integer instruction of the A slot writes and its value, from the values `s` of the general registers and `p` of the
predicates: the table of R117. -/
def aInteger (s : Reg → Word) (p : BitVec 3 → Bool) : Instr → Option (Reg × Word)
  | .aAdd _ d a b => some (d, s a + s b)
  | .aSub _ d a b => some (d, s a - s b)
  | .aAnd _ d a b => some (d, s a &&& s b)
  | .aOr _ d a b => some (d, s a ||| s b)
  | .aXor _ d a b => some (d, s a ^^^ s b)
  | .aShl _ d a b => some (d, BitVec.ofNat 64 ((s a).toNat * 2 ^ (s b).toNat))
  | .aShr _ d a b => some (d, BitVec.ofNat 64 ((s a).toNat / 2 ^ (s b).toNat))
  | .aSar _ d a b => some (d, if 64 ≤ (s b).toNat then (if (s a).msb then -1 else 0)
      else BitVec.ofInt 64 ((s a).toInt / ((2 ^ (s b).toNat : Nat) : Int)))
  | .aMul _ d a b => some (d, BitVec.ofNat 64 ((s a).toNat * (s b).toNat))
  | .aMulh _ d a b z => some (d, BitVec.ofInt 64 ((if z then ((s a).toNat : Int) * (s b).toNat else (s a).toInt * (s b).toInt) / 2 ^ 64))
  | .aMin _ d a b z => some (d, if (if z then (s a).toNat < (s b).toNat else (s a).toInt < (s b).toInt) then s a else s b)
  | .aMax _ d a b z => some (d, if (if z then (s a).toNat < (s b).toNat else (s a).toInt < (s b).toInt) then s b else s a)
  | .aSel _ d a b k => some (d, if p k then s a else s b)
  | .aClz _ d a => some (d, BitVec.ofNat 64 ((List.range 64).filter fun i => (s a).toNat < 2 ^ i).length)
  | .aPop _ d a => some (d, BitVec.ofNat 64 ((List.range 64).filter fun i => (s a).getLsbD i).length)
  | .aAddi _ d a imm => some (d, s a + imm.signExtend 64)
  | .aAndi _ d a imm => some (d, s a &&& imm.setWidth 64)
  | .aOri _ d a imm => some (d, s a ||| imm.setWidth 64)
  | .aXori _ d a imm => some (d, s a ^^^ imm.setWidth 64)
  | .aShli _ d a imm => some (d, BitVec.ofNat 64 ((s a).toNat * 2 ^ imm.toNat))
  | .aShri _ d a imm => some (d, BitVec.ofNat 64 ((s a).toNat / 2 ^ imm.toNat))
  | .aLi _ d imm => some (d, imm.signExtend 64)
  | .aLih _ d imm => some (d, BitVec.ofNat 64 ((s d).toNat * 2 ^ 16 + imm.toNat))
  | .aMov _ d a => some (d, s a)
  | _ => none

/-- What the other instructions of the A slot write: the comparisons and predicates (R118), special registers and stream registers read
(R119, R120), a handle sampled (R121), a special register written in handler mode (R119), a word of a stream register that is not bound
written (R120). -/
def aOther (c : Core) : Instr → Option RegWrite
  | .aCmp _ cond d a b =>
    let x := c.regs.rs a.toNat
    let y := c.regs.rs b.toNat
    some (.p d.toNat (match cond with
      | .eq => decide (x = y) | .ne => decide (x ≠ y)
      | .lt => decide (x.toInt < y.toInt) | .ge => decide (y.toInt ≤ x.toInt)
      | .lo => decide (x.toNat < y.toNat) | .hs => decide (y.toNat ≤ x.toNat)))
  | .aPand _ d a b => some (.p d.toNat (c.regs.rp a.toNat && c.regs.rp b.toNat))
  | .aPor _ d a b => some (.p d.toNat (c.regs.rp a.toNat || c.regs.rp b.toNat))
  | .aPxor _ d a b => some (.p d.toNat (c.regs.rp a.toNat ^^ c.regs.rp b.toNat))
  | .aPnot _ d a => some (.p d.toNat (!c.regs.rp a.toNat))
  | .aMfs _ d n => some (.s d.toNat (c.readSpr n.toNat) false)
  | .aMts _ n a => some (.spr n.toNat (c.regs.rs a.toNat))
  | .aQget _ d q wn => some (.s d.toNat (BitVec.ofNat 64 ((c.regs.rq q.toNat).toNat / 2 ^ (64 * wn.toNat))) false)
  | .aQset _ q a wn =>
    if (c.regs.rq q.toNat).getLsbD 246 then none else some (.qw q.toNat wn (c.regs.rs a.toNat))
  | .aHq _ d h =>
    let x := c.handle h.toNat
    some (.s d.toNat (if x.st = 0 then BitVec.ofNat 64 (2 ^ 16 * x.gen.toNat)
      else BitVec.ofNat 64 (x.st + (if x.ring then 4 else 0) + (if x.land then 8 else 0) + 2 ^ 16 * x.gen.toNat +
        2 ^ 32 * (if x.ring then (x.prod + 2 * (x.rows / 2 ^ x.isz) - x.cons) % (2 * (x.rows / 2 ^ x.isz)) else 0))) false)
  | _ => none

end Sys2Proof.Claims

/-- R117: each integer instruction of the A slot writes its value to its register, with latency 1, and completes whatever its operands. -/
def Obligations.AInteger : Prop :=
  ∀ (i : Instr) (s : State) (d : Reg) (v : Word),
    aInteger (fun a => (s.core s.cur).regs.rs a.toNat) (fun p => (s.core s.cur).regs.rp p.toNat) i = some (d, v) →
    s.issuesSolo i = true →
    exec i s = .next (soloResult i s 1 (.s d.toNat v false))

/-- R118 to R121: the comparisons, the predicates, a.mfs, a.mts, a.qget, a.qset and a.hq write what their entries say, with latency 1.
R192: a word of a stream register, or all of it, is written but for HND and BND, which stand. -/
def Obligations.AOther : Prop :=
  (∀ (i : Instr) (s : State) (w : RegWrite), aOther (s.core s.cur) i = some w → s.issuesSolo i = true →
     exec i s = .next (soloResult i s 1 w)) ∧
  (∀ (c : Core) (n i : Nat) (wn : BitVec 2) (v : Word) (q : Desc) (po : Bool),
     ((c.deliver (.qw n wn v)).regs.rq n).getLsbD i = (if 240 ≤ i ∧ i < 247 then (c.regs.rq n).getLsbD i
       else if i / 64 = wn.toNat then v.getLsbD (i % 64) else (c.regs.rq n).getLsbD i) ∧
     ((c.deliver (.q n q po)).regs.rq n).getLsbD i = (if 240 ≤ i ∧ i < 247 then (c.regs.rq n).getLsbD i else q.getLsbD i) ∧
     ∀ k, k ≠ n → (c.deliver (.qw n wn v)).regs.rq k = c.regs.rq k ∧ (c.deliver (.q n q po)).regs.rq k = c.regs.rq k)

/-! ## The C slot -/

namespace Sys2Proof.Claims

/-- The condition a waiting instruction of the C slot tests, none where it raises a fault instead: c.wait on the counters (R112), c.waith and
c.waitt on a handle (R113, R262), c.fwait on a flag of the own cluster (R280), c.bwait on a barrier (R362), both acquires that an earlier acquire
or fence of the task holds (R317, R318). c.nop waits for nothing. -/
def cCondition (s : State) : Instr → Option Bool
  | .cNop _ => some true
  | .cWait _ l st k t =>
    let c := s.core s.cur
    let within := fun (n : Nat) (imm : BitVec 4) => imm = 15 ∨ n ≤ imm.toNat
    some (decide (within c.ocl l ∧ within c.ocs st ∧ within c.occ k ∧ within c.oct t))
  | .cWaith _ cond h =>
    let x := (s.core s.cur).handle h.toNat
    (match cond with
     | .free => some (x.st == 0)
     | .full => if x.ring ∨ x.st = 0 then none else some (x.st == 2)
     | .quiet => if x.st = 0 then none else some (x.st == 2)
     | .ready => if !x.ring ∨ x.st = 0 then none else some (decide (1 ≤ x.available))
     | .room => if !x.ring ∨ x.st = 0 then none else some (decide (1 ≤ x.room)))
  | .cWaitt _ a h =>
    let c := s.core s.cur
    let t := (c.regs.rs a.toNat).toNat
    (match c.lands.find? fun l => l.h == h.toNat with
     | none => none
     | some l => if (l.nr + l.tr - 1) / l.tr ≤ t then none else some ((l.tileChunks t).all fun k => SMap.get false l.present k))
  | .cFwait _ a b =>
    let c := s.core s.cur
    let f := c.regs.rs a.toNat
    if ownFlagBad f then none
    else some (decide ((c.regs.rs b.toNat).toNat % 2 ^ 32 ≤ SMap.get 0 (s.cluster (clusterOf s.cur)).flags (f.toNat % 256)) && !c.acquireWaits)
  | .cBwait _ a =>
    let c := s.core s.cur
    let f := c.regs.rs a.toNat
    let b := s.barrier (f.toNat % 64)
    if s.paired s.cur ∨ barReserved f false ∨ (b.bound ∧ b.lidb ≠ c.lid) ∨ s.outsideSub c b ∨ b.err then none
    else some (match SMap.get none c.arrGen (f.toNat % 64) with | none => true | some g => b.gen != g && !c.acquireWaits)
  | _ => none

/-- Where a transfer goes and whether it keeps the loop levels (R104, R108); none where its target raises ILLEGAL. -/
def cTarget (c : Core) : Instr → Option (Nat × Bool)
  | .cBr _ line => some ((((c.pc / 64 : Nat) + line.toInt) * 64).toNat, false)
  | .cCall _ _ line => some ((((c.pc / 64 : Nat) + line.toInt) * 64).toNat, true)
  | .cJmp _ a => if (c.regs.rs a.toNat).toNat ≤ 0x3FFFF then some ((c.regs.rs a.toNat).toNat, false) else none
  | .cRet _ a => if (c.regs.rs a.toNat).toNat ≤ 0x3FFFF then some ((c.regs.rs a.toNat).toNat, true) else none
  | _ => none

/-- The link c.call puts on its way (R108): the first byte after the group. -/
def cLink (next : Nat) (c : Core) : Instr → Core
  | .cCall _ d _ => c.push 1 (.s d.toNat (BitVec.ofNat 64 next) false)
  | _ => c

/-- The trip count of c.loop (R102). -/
def trips (c : Core) : LoopCount → Nat
  | .imm n => n.toNat
  | .sreg a => (c.regs.rs a.toNat).toNat % 2 ^ 32
  | .spr n => (c.readSpr n.toNat).toNat % 2 ^ 32

end Sys2Proof.Claims

/-- R108, R112, R113, R280, R362: c.nop passes; c.wait, c.waith, c.waitt, c.fwait and c.bwait pass, changing nothing of their own, where their
condition holds, and stall one cycle where it does not.
R104, R108: c.br, c.call, c.jmp and c.ret commit their group and go on at their target, two cycles later (R99); c.br and c.jmp leave the
loop levels whose range holds the target, c.call and c.ret every level. -/
def Obligations.CWaitsAndTransfers : Prop :=
  (∀ (i : Instr) (s : State) (b : Bool), cCondition s i = some b → s.issuesSolo i = true →
     exec i s = .next (if b then soloNext i s s.begun .fall else s.stallCycle s.cur none (isFwait i))) ∧
  (∀ (i : Instr) (s : State) (t : Nat) (keep : Bool), cTarget (s.core s.cur) i = some (t, keep) → s.issuesSolo i = true →
     let u := soloNext i s (s.begun.modCore s.cur (cLink (soloCtx i s).next · i)) (.jump t keep)
     exec i s = .next u ∧ (u.core s.cur).pc = t ∧
     (u.core s.cur).spr.cyc = (s.core s.cur).spr.cyc + 3 ∧ (u.core s.cur).spr.stall = (s.core s.cur).spr.stall + 2 ∧
     (u.core s.cur).stack = (if keep then (s.core s.cur).stack
       else (s.core s.cur).stack.filter fun lv => decide (lv.first ≤ t ∧ t < lv.last + (s.core s.cur).groupBytes lv.last)))

/-- R102: c.loop pushes its level where its count is not zero and a level is free, and skips the body where it is zero.
R103: the loop end test. A level whose last group is another ends the test; one whose last group this is goes round again while more than
one trip is left, and otherwise is popped and the test repeated. Every group that falls through makes it. -/
def Obligations.CLoops : Prop :=
  (∀ (g : Guard) (count : LoopCount) (last : BitVec 11) (s : State), s.issuesSolo (.cLoop g count last) = true →
     let c := s.core s.cur
     let first := c.groupAt (soloCtx (.cLoop g count last) s).next
     let l := first + last.toNat
     (trips c count = 0 → exec (.cLoop g count last) s =
       .next (soloNext (.cLoop g count last) s s.begun (.skip (c.groupAt (l + c.groupBytes l))))) ∧
     (trips c count ≠ 0 → c.stack.length < (if c.handler then 2 else 4) → exec (.cLoop g count last) s =
       .next (soloNext (.cLoop g count last) s (s.begun.modCore s.cur fun c => c.setStack (⟨trips c count, first, l⟩ :: c.stack)) .fall)) ∧
     (trips c count ≠ 0 → (if c.handler then 2 else 4) ≤ c.stack.length → exec (.cLoop g count last) s =
       .next (s.takeTrap s.cur cSCHED 0 false 0 (BitVec.ofNat 64 (c.pc + 1)) c.pc))) ∧
  (∀ (i : Instr) (s s' : State) (off next : Nat) (lv : Loop) (l : List Loop),
     (let t := (soloNext i s s' .fall).core s.cur
      (t.stack, t.pc) = loopEnd (soloCtx i s).off (soloCtx i s).next (s'.core s.cur).stack) ∧
     loopEnd off next [] = ([], next) ∧
     (lv.last ≠ off → loopEnd off next (lv :: l) = (lv :: l, next)) ∧
     (lv.last = off → 1 < lv.lc → loopEnd off next (lv :: l) = ({ lv with lc := lv.lc - 1 } :: l, lv.first)) ∧
     (lv.last = off → lv.lc ≤ 1 → loopEnd off next (lv :: l) = loopEnd off next l))

/-- R106: c.scheck restarts the count and the signature where the mark of its segment agrees with them as they stand with its own group
included, and raises SCRIBE with both in FADDR where it does not; in handler mode its group passes.
R115 and R274: c.relb gives banks up, c.acqb takes them, from the group after; c.scrub zeroes units, or with an empty mask does nothing. -/
def Obligations.CScheckAndBanks : Prop :=
  (∀ (g : Guard) (seg : BitVec 11) (s : State), s.issuesSolo (.cScheck g seg) = true →
     let c := s.core s.cur
     let count := c.segCount + 1
     let crc := ~~~(c.signature [soloItem (.cScheck g seg) c.pc])
     (c.handler = true → exec (.cScheck g seg) s = .next (soloNext (.cScheck g seg) s s.begun .fall)) ∧
     (c.handler = false → SMap.get none c.marks seg.toNat = some (count, crc) →
       exec (.cScheck g seg) s = .next (soloNext (.cScheck g seg) s s.begun .restart) ∧
       ((soloNext (.cScheck g seg) s s.begun .restart).core s.cur).segCount = 0 ∧
       ((soloNext (.cScheck g seg) s s.begun .restart).core s.cur).segCrc = 0xFFFFFFFF) ∧
     (c.handler = false → SMap.get none c.marks seg.toNat ≠ some (count, crc) →
       exec (.cScheck g seg) s = .next (s.takeTrap s.cur cSCRIBE 0 false 0 (crc ++ count) c.pc))) ∧
  (∀ (g : Guard) (a b : Reg) (u : BitVec 5) (s : State),
     let c := s.core s.cur
     let f := (c.regs.rs a.toNat).toNat
     let n := (c.regs.rs b.toNat).toNat
     (s.issuesSolo (.cRelb g a b) = true → 0 < n → f + n ≤ c.banks → (c.cmds.any fun m => inBanks f n ((c.seen m).cmdWrites m)) = false →
       let t := soloNext (.cRelb g a b) s s.begun (.bank false f n)
       exec (.cRelb g a b) s = .next t ∧ ∀ k, SMap.get .none (t.core s.cur).owner k =
         if f ≤ k ∧ k < f + n then BankOwner.none else SMap.get .none c.owner k) ∧
     (s.issuesSolo (.cAcqb g a b) = true → 0 < n → f + n ≤ c.banks → ((List.range n).any fun k => c.bankHeld (f + k)) = false →
       let t := soloNext (.cAcqb g a b) s s.begun (.bank true f n)
       exec (.cAcqb g a b) s = .next t ∧ ∀ k, SMap.get .none (t.core s.cur).owner k =
         if f ≤ k ∧ k < f + n then BankOwner.task else SMap.get .none c.owner k) ∧
     (s.issuesSolo (.cScrub g u) = true → u ≠ 0 → c.scrubWaits u = false →
       let t := soloNext (.cScrub g u) s (s.begun.modCore s.cur fun c => c.scrubbed u) (.scrub u)
       exec (.cScrub g u) s = .next t ∧
       (u.getLsbD 0 = true → ∀ k, (t.core s.cur).regs.rs k = 0 ∧ (0 < k → (t.core s.cur).regs.rp k = false) ∧ (t.core s.cur).regs.rq k = 0) ∧
       (u.getLsbD 1 = true → ∀ k, (t.core s.cur).regs.rv k = 0 ∧ (0 < k → (t.core s.cur).regs.rw k = 0))) ∧
     (s.issuesSolo (.cScrub g 0) = true → exec (.cScrub g 0) s = .next (soloNext (.cScrub g 0) s s.begun .fall)))

namespace Sys2Proof.Claims

/-- The value of a scalar of the core that issues. -/
def sReg (s : State) (a : Reg) : Word := (s.core s.cur).regs.rs a.toNat

/-- The checks common to the barrier instructions pass (R357, R358, R363). -/
def barrierFree (s : State) (va : Word) (arrive : Bool) : Prop :=
  s.paired s.cur = false ∧ barReserved va arrive = false ∧
    ((s.barrier (va.toNat % 64)).bound = true → (s.barrier (va.toNat % 64)).lidb = (s.core s.cur).lid) ∧
    s.outsideSub (s.core s.cur) (s.barrier (va.toNat % 64)) = false ∧ (s.barrier (va.toNat % 64)).err = false

/-- The entry of the arm table a c.farm makes (R281). -/
def armEntry (s : State) (va vb : Word) (act : FAction) : Arm :=
  ⟨va.toNat % 256, vb.toNat % 2 ^ 32, (match act with | .wake => 1 | .start => 2 | .signal => 3), vb.toNat / 2 ^ 32,
    (s.cluster (clusterOf s.cur)).stamp, s.cur⟩

end Sys2Proof.Claims

/-- R277, R279, R281 and R282: c.finc puts an increment of sB[31:0] on its way as a cumulative release; c.farm arms entry ENT with a fresh stamp, or
fires it where the flag already stands at the threshold; c.fdis frees an entry or all, and with ZERO sets the flag to 0.
R358, R360 and R361: c.bpost binds its barrier and puts its bytes on their way, or raises SYNCOVF where PEND could not hold them; c.barr binds
it, fixes or keeps SUBG and BSCOPE, records the generation as the task's, and puts its arrival on its way as a cumulative release. -/
def Obligations.CFlagsAndBarriers : Prop :=
  (∀ (g : Guard) (a b : Reg) (act : FAction) (s : State),
     let va := sReg s a
     let vb := sReg s b
     let cl := clusterOf s.cur
     let f := va.toNat % 256
     let ent := va.toNat / 2 ^ 16 % 32
     let file := s.cluster cl
     let rest := { file with stamp := (file.stamp + 1) % 2 ^ 32 }
     (s.issuesSolo (.cFinc g a b) = true → va &&& 0xFFFFFFFFFF80FF00#64 = 0 → exec (.cFinc g a b) s = .next (soloNext (.cFinc g a b) s
       (s.begun.addAcc s.cur (.finc (vb.toNat % 2 ^ 32)) (.flags cl f) .none va false true false .clu) .fall)) ∧
     (s.issuesSolo (.cFinc g a b) = true → va &&& 0xFFFFFFFFFF80C000#64 = 0 → va.getLsbD 13 = true →
       ∀ k, s.launchCluster s.cur (va.toNat / 256 % 32) = some k → exec (.cFinc g a b) s = .next (soloNext (.cFinc g a b) s
         (s.begun.addAcc s.cur (.finc (vb.toNat % 2 ^ 32)) (.flags k f) .none va false true false
           (if dieOf (clusterCore k 0) = dieOf s.cur then .die else .pkg)) .fall)) ∧
     (s.issuesSolo (.cFarm g a b act) = true → ownFlagBad va = false → s.farmBad s.cur act (vb.toNat / 2 ^ 32) = false →
       let e := armEntry s va vb act
       exec (.cFarm g a b act) s = .next (soloNext (.cFarm g a b act) s
         (if e.t ≤ SMap.get 0 file.flags f
           then (s.begun.setCluster cl { rest with arms := SMap.put none file.arms ent none }).fireArm cl e
           else s.begun.setCluster cl { rest with arms := SMap.put none file.arms ent (some e) }) .fall)) ∧
     (s.issuesSolo (.cFdis g a) = true → ownFlagBad va = false →
       exec (.cFdis g a) s = .next (soloNext (.cFdis g a) s (s.begun.setCluster cl { file with
         arms := if va.getLsbD 21 then [] else SMap.put none file.arms ent none
         flags := if va.getLsbD 22 then SMap.put 0 file.flags f 0 else file.flags }) .fall))) ∧
  (∀ (g : Guard) (a b : Reg) (s : State),
     let c := s.core s.cur
     let va := sReg s a
     let vb := (sReg s b).toNat
     let n := va.toNat % 64
     let t := s.barrier n
     (s.issuesSolo (.cBpost g a b) = true → barrierFree s va false → (c.accs.any Acc.isPost) = false → vb < 2 ^ 40 → t.pend + vb < 2 ^ 40 →
       exec (.cBpost g a b) s = .next (soloNext (.cBpost g a b) s
         ((s.begun.setBarrier n { t with bound := true, lidb := c.lid }).addAcc s.cur (.post vb) (.barrier n) .none va false false false .pkg)
         .fall)) ∧
     (s.issuesSolo (.cBpost g a b) = true → barrierFree s va false → (c.accs.any Acc.isPost) = false → (2 ^ 40 ≤ vb ∨ 2 ^ 40 ≤ t.pend + vb) →
       exec (.cBpost g a b) s = .next (s.takeTrap s.cur cSYNCOVF 0 false 0 (BitVec.ofNat 64 n) c.pc)) ∧
     (s.issuesSolo (.cBarr g a) = true → barrierFree s va true →
       ∀ l ts, s.launch c.lid = some l → subgroupTiles l.w l.h (va.toNat / 256 % 2 ^ 14) = some ts → c.tile l.w ∈ ts →
       (va.toNat / 2 ^ 24 % 8 = 3 ∨ va.toNat / 2 ^ 24 % 8 = 4) →
       (t.bscope = 0 ∨ (t.bscope = va.toNat / 2 ^ 24 % 8 ∧ t.subg = va.toNat / 256 % 2 ^ 14)) → SMap.get none c.arrGen n ≠ some t.gen →
       exec (.cBarr g a) s = .next (soloNext (.cBarr g a) s
         (((s.begun.setBarrier n { t with bound := true, lidb := c.lid, bscope := va.toNat / 2 ^ 24 % 8, subg := va.toNat / 256 % 2 ^ 14 }).modCore s.cur
           fun c => { c with arrGen := SMap.put none c.arrGen n (some t.gen) }).addAcc s.cur .arrive (.barrier n) .none va false true false
             (if va.toNat / 2 ^ 24 % 8 = 4 then .fab else .pkg)) .fall)))

/-- R109 to R111: c.brk cancels its group and takes BREAK, or halts to the debugger where invasive debug is enabled; c.trap commits its group
and takes TRAPI with EPC after the group; c.tret returns to EPC once handler mode has nothing under way, and stops there where the halt line
stays up; c.end ends the task.
R114, R310 and R351: c.waitl moves, meets or leaves the monitor; c.tlbi starts an invalidation for the cores of its scope and holds the next group;
c.launch posts the record at sA, of this package's memory or another's, once everything of the task has performed; of memory of this package
it is the 128 bytes there, which stand. -/
def Obligations.CTrapsEndAndSystem : Prop :=
  (∀ (g : Guard) (code : BitVec 16) (s : State),
     (s.issuesSolo (.cBrk g code) = true → exec (.cBrk g code) s =
       .next (if s.debugLevel (s.core s.cur).spr.world.toNat = 2 then s.debugBreak s.cur code.toNat
         else s.takeTrap s.cur cBREAK 0 false code.toNat 0 (s.core s.cur).pc)) ∧
     (s.issuesSolo (.cTrap g code) = true → exec (.cTrap g code) s =
       .next (((soloNext (.cTrap g code) s s.begun (.trapi code.toNat)).takeTrap s.cur cTRAPI 0 false code.toNat 0 ((s.core s.cur).pc + 5)).modCore
         s.cur fun c => if c.run = .nested then { c with hoff := (s.core s.cur).pc } else c)) ∧
     (s.issuesSolo (.cTret g) = true → (s.core s.cur).handlerBusy = false → (s.core s.cur).spr.epc.toNat ≤ 0x3FFFF →
       exec (.cTret g) s =
         .next (((soloNext (.cTret g) s s.begun (.tret (s.core s.cur).spr.epc.toNat)).lowerLine (s.core s.cur).lid).haltAtReturn s.cur)) ∧
     (s.issuesSolo (.cEnd g) = true →
       exec (.cEnd g) s = .next ((soloNext (.cEnd g) s s.begun .finish).taskEnded s.cur (s.core s.cur).handler))) ∧
  (∀ (g : Guard) (a : Reg) (scope : Scope) (s : State) (leaf : Word) (pa : Nat) (sbit : Bool),
     let c := s.core s.cur
     let va := sReg s a
     let bits := szBits (va.toNat % 16)
     (s.issuesSolo (.cWaitl g a) = true → c.translate va false = .ok leaf → s.leafLoc leaf va.toNat = .mem pa sbit →
       let fresh : Monitor := ⟨pa / 64, sbit || c.l1State (pa / 64) == .i⟩
       (∀ m, c.monitor = some m → m.line = pa / 64 → m.fired = true →
         exec (.cWaitl g a) s = .next (soloNext (.cWaitl g a) s (s.begun.modCore s.cur fun c => { c with monitor := none }) .fall)) ∧
       (∀ m, c.monitor = some m → m.line = pa / 64 → m.fired = false → exec (.cWaitl g a) s = .next (s.stallCycle s.cur none false)) ∧
       ((c.monitor = none ∨ ∃ m, c.monitor = some m ∧ m.line ≠ pa / 64) →
         exec (.cWaitl g a) s = .next (soloNext (.cWaitl g a) s (s.begun.modCore s.cur fun c => { c with monitor := some fresh }) .fall))) ∧
     (s.issuesSolo (.cTlbi g a scope) = true → va.toNat / 32 % 2 ^ 7 = 0 → va.toNat < 2 ^ 56 →
       ∀ page, (page = none ∧ va.getLsbD 4 = true ∨ va.getLsbD 4 = false ∧ ∃ b, bits = some b ∧ page = some (va.toNat / 2 ^ b * 2 ^ (b - 12), 2 ^ (b - 12))) →
       exec (.cTlbi g a scope) s = .next (soloNext (.cTlbi g a scope) s
         { s.begun.modCore s.cur (fun c => { c with tlbiWait := true, seq := c.seq + 1 }) with
           tlbis := s.tlbis ++ [⟨s.cur, c.spr.world.toNat, page, (scopeCores s.cur scope).map fun k => (k, none),
             (if scope = .fab ∨ scope = .sys then s.npkg - 1 else 0), c.seq, va.toNat, false⟩] } .fall)) ∧
     (s.issuesSolo (.cLaunch g a) = true → va.toNat % 128 = 0 → c.translate va false = .ok leaf →
       (∀ o, s.leafLoc leaf va.toNat = .dev o → devAllowed c (o - 2 ^ 48) = true) → c.accs = [] → c.cmds = [] →
       ∀ (t : State) (rec_ : BitVec 1024), s.begun.readRec s.cur (s.leafLoc leaf va.toNat) = .got t rec_ false →
       (parseRcd rec_).world = c.spr.world.toNat → (t.queue (parseRcd rec_).queue).items.length < 64 →
       exec (.cLaunch g a) s = .next (soloNext (.cLaunch g a) s (t.takeRecord rec_ true) .fall))) ∧
  (∀ (s t : State) (n pa : Nat) (sbit : Bool) (rec_ : BitVec 1024), s.readRec n (.mem pa sbit) = .got t rec_ false →
     rec_.toNat = s.loadNat pa 128 ∧ ∀ a, t.byte a = s.byte a)

/-! ## The L slot -/

namespace Sys2Proof.Claims

/-- The bits of lane groups 0-1 and 2-3 of a vector register, and of all four. -/
def halfBits (hi : Bool) : VReg := if hi then BitVec.ofNat 1024 ((2 ^ 512 - 1) * 2 ^ 512) else BitVec.ofNat 1024 (2 ^ 512 - 1)

/-- What a row access loads (R146): one row into a half of the register, or a pair of rows, the even one low; poisoned rows poison their lanes. -/
def loaded (c : Core) (sel : RowSel) (d : Nat) (o : Nat) : RegWrite :=
  let r := o / 64
  let even := o / 128 * 2
  let mark := fun (k : Nat) (l : BitVec 4) => if c.rowPoison k then l else 0
  match sel with
  | .lo => .v d (halfBits false) (BitVec.ofNat 1024 (c.row r).toNat) 0b0011 (mark r 0b0011)
  | .hi => .v d (halfBits true) (BitVec.ofNat 1024 ((c.row r).toNat * 2 ^ 512)) 0b1100 (mark r 0b1100)
  | .pair => .v d (BitVec.allOnes 1024) (BitVec.ofNat 1024 ((c.row even).toNat + (c.row (even + 1)).toNat * 2 ^ 512)) 0b1111
      (mark even 0b0011 ||| mark (even + 1) 0b1100)

/-- The half rows of a vector register. -/
def low (v : VReg) : Row := BitVec.ofNat 512 v.toNat
def high (v : VReg) : Row := BitVec.ofNat 512 (v.toNat / 2 ^ 512)

/-- The rows a row access stores (R146). -/
def stored (sel : RowSel) (v : VReg) (o : Nat) : List RowWrite :=
  match sel with
  | .lo => [⟨o / 64, low v, false⟩]
  | .hi => [⟨o / 64, high v, false⟩]
  | .pair => [⟨o / 128 * 2, low v, false⟩, ⟨o / 128 * 2 + 1, high v, false⟩]

/-- An access of the own scratchpad at an offset goes on: it waits for nothing (R98), its bank belongs to the task (R115, R125), and, if it
writes, no witness form in flight has its rows (R234). -/
def ownFree (s : State) (e : Word) (pair load store : Bool) : Prop :=
  (s.core s.cur).ownBlocked s.cur (rowsNamed pair e.toNat) load store = false ∧ (s.core s.cur).owns e.toNat = true ∧
    (store = true → (rowsNamed pair e.toNat).any (s.core s.cur).witRows = false)

/-- The effective address of form M (R139). -/
def addr (s : State) (a : Reg) (off : BitVec 8) (unit : Nat) : Word := BitVec.ofInt 64 ((sReg s a).toNat + off.toInt * unit)

/-- A global access: its address, alignment and direction, what it does where it performs, where its value goes, whether it is an acquire or
a release, and what its commit does to the core besides (R148, R153, R154, R159, R287). -/
structure Global where
  e : Word
  align : Nat
  store : Bool
  op : AccOp
  dst : LDst
  acq : Bool
  rel : Bool
  monitor : Bool
  signed : List Byte

/-- The global accesses of the L slot. -/
def lGlobal (s : State) : Instr → Option Global
  | .lLdg _ size acq d a off =>
    let n := sizeBytes size
    some ⟨addr s a off n, n, false, .load n, .s d.toNat, acq, false, true, []⟩
  | .lStg _ size rel d a off =>
    let n := sizeBytes size
    some ⟨addr s a off n, n, true, .store n (BitVec.ofNat 1024 (sReg s d).toNat), .none, false, rel, false, leBytes n (sReg s d).toNat⟩
  | .lLdgv _ q16 hi acq d a off =>
    let n := if q16 then 16 else 64
    some ⟨addr s a off n, n, false, .load n, (if q16 then .low16 d.toNat hi else .half d.toNat hi), acq, false, true, []⟩
  | .lStgv _ q16 hi rel d a off =>
    let n := if q16 then 16 else 64
    let v := (s.core s.cur).regs.rv d.toNat
    let h := if hi then high v else low v
    some ⟨addr s a off n, n, true, .store n (BitVec.ofNat 1024 h.toNat), .none, false, rel, false, leBytes n h.toNat⟩
  | .lAop _ op w4 z ar d a b =>
    let n := if w4 then 4 else 8
    if s.paired s.cur then none else some ⟨sReg s a, n, true, .aop op n z (sReg s b), .s d.toNat, ar, ar, false, []⟩
  | .lCas _ size ar d a b =>
    let n := match size with | .w4 => 4 | .w8 => 8 | .q16 => 16
    let val := fun (k : Reg) => BitVec.ofNat 128 (if size = .q16
      then (sReg s k).toNat + 2 ^ 64 * ((s.core s.cur).regs.rs (k.toNat + 1)).toNat else (sReg s k).toNat % 2 ^ (8 * n))
    if s.paired s.cur then none
    else some ⟨sReg s a, n, true, .cas n (val d) (val b), (if size = .q16 then .s2 d.toNat else .s d.toNat), ar, ar, false, []⟩
  | .lCwb _ a => some ⟨sReg s a, 1, false, .cwb, .none, false, false, false, []⟩
  | .lCinv _ a => some ⟨sReg s a, 1, false, .cinv, .none, false, false, false, []⟩
  | .lCzero _ a => some ⟨sReg s a, 1, true, .czero, .none, false, false, false, leBytes 64 0⟩
  | _ => none

/-- The state in which a global access has joined the outstanding ones of its core. -/
def joined (s : State) (x : Global) (loc : Loc) : State :=
  let s := match loc with
    | .mem pa false => if x.monitor then s.modCore s.cur (fun c => { c with monitor := some ⟨pa / 64, false⟩ }) else s
    | _ => s
  let s := if x.signed = [] then s else s.modCore s.cur (fun c => c.signStore x.e x.signed)
  s.addAcc s.cur x.op loc x.dst x.e x.acq x.rel false (targetScope s.cur loc)

/-- The core and offset a remote address names (R150): the fields that must be zero are, the target lies in the launch, the offset in its
partition. -/
def remote (s : State) (e : Word) : Option (Nat × Nat) :=
  match s.launch (s.core s.cur).lid with
  | none => none
  | some l =>
    let o := e.toNat % 2 ^ 19
    let tx := e.toNat / 2 ^ 32 % 16
    let ty := e.toNat / 2 ^ 36 % 16
    if e.toNat / 2 ^ 19 % 2 ^ 13 = 0 ∧ e.toNat / 2 ^ 40 = 0 ∧ tx < l.w ∧ ty < l.h ∧ o < l.p * 4096
    then some (l.coreAt (s.core s.cur).run_ tx ty, o) else none

end Sys2Proof.Claims

/-- R146, R147: l.ld and l.ldq put what they read at issue on its way, with latency 4; l.st and l.stq write their rows as the group commits, no
other byte of the scratchpad.
R156: l.saop replaces each element of its row by its operation with the element of vB, and puts the old row on its way to vD with latency 4;
a poisoned row stays as it is and poisons vD (R143). -/
def Obligations.LOwnScratchpad : Prop :=
  (∀ (g : Guard) (sel : RowSel) (d a : Reg) (q : BitVec 4) (off : BitVec 8) (s : State),
     let c := s.core s.cur
     let e := addr s a off 64
     let f := addr s a off 32
     let half := fun (r : Row) => BitVec.ofNat 256 (r.toNat / (if f.getLsbD 5 then 2 ^ 256 else 1))
     let unbind := fun (x : Desc) => x &&& ~~~BitVec.ofNat 256 (0x7F * 2 ^ 240)
     (s.issuesSolo (.lLd g sel d a off) = true → ownFree s e (sel == .pair) true false →
       exec (.lLd g sel d a off) s = .next (soloResult (.lLd g sel d a off) s 4 (loaded c sel d.toNat e.toNat))) ∧
     (s.issuesSolo (.lSt g sel d a off) = true → ownFree s e (sel == .pair) false true →
       exec (.lSt g sel d a off) s = .next (soloNext (.lSt g sel d a off) s
         (s.begun.modCore s.cur fun c => c.writeRows (stored sel (c.regs.rv d.toNat) e.toNat)) .fall)) ∧
     (s.issuesSolo (.lLdq g true q a off) = true → (c.regs.rq q.toNat).getLsbD 246 = false → ownFree s f false true false →
       exec (.lLdq g true q a off) s = .next (soloResult (.lLdq g true q a off) s 4
         (.q q.toNat (unbind (half (c.row (f.toNat / 64)))) (c.rowPoison (f.toNat / 64))))) ∧
     (s.issuesSolo (.lLdq g false q a off) = true → (c.regs.rq q.toNat).getLsbD 246 = false → c.ownBlocked s.cur [] true false = false → f.toNat < 65536 →
       exec (.lLdq g false q a off) s = .next (soloResult (.lLdq g false q a off) s 4
         (.q q.toNat (unbind (BitVec.ofNat 256 (lineNat c.ctab (f.toNat / 32 * 32) 32))) (SMap.get false c.ctabPoison (f.toNat / 64))))) ∧
     (s.issuesSolo (.lStq g q a off) = true → ownFree s f false false true →
       let r := f.toNat / 64
       let old := (c.row r).toNat
       let v := (c.regs.rq q.toNat).toNat
       exec (.lStq g q a off) s = .next (soloNext (.lStq g q a off) s (s.begun.modCore s.cur fun c => c.writeRows
         [⟨r, BitVec.ofNat 512 (if f.getLsbD 5 then v * 2 ^ 256 + old % 2 ^ 256 else old / 2 ^ 256 * 2 ^ 256 + v), c.rowPoison r⟩]) .fall))) ∧
  (∀ (g : Guard) (op : AOp) (fmt : BitVec 3) (d a b : Reg) (s : State),
     let c := s.core s.cur
     let r := (sReg s a).toNat / 64
     let n := 8 * 2 ^ (fmt.toNat % 4)
     let signed := decide (fmt.toNat < 4)
     let el := fun (x i : Nat) => x / 2 ^ (n * i) % 2 ^ n
     let val := fun (x : Nat) => if signed ∧ 2 ^ (n - 1) ≤ x then (x : Int) - 2 ^ n else x
     let f := fun (x y : Nat) => match op with
       | .add => (x + y) % 2 ^ n | .and => x &&& y | .or => x ||| y | .xor => x ^^^ y | .xchg => y
       | .min => if val y < val x then y else x
       | .max => if val x < val y then y else x
     let new := ((List.range (512 / n)).map fun i => f (el (c.row r).toNat i) (el (c.regs.rv b.toNat).toNat i) * 2 ^ (n * i)).sum
     s.issuesSolo (.lSaop g op fmt d a b) = true → ownFree s (sReg s a) false true true →
     let t := if c.rowPoison r then s.begun else s.begun.modCore s.cur fun c => c.writeRows [⟨r, BitVec.ofNat 512 new, false⟩]
     exec (.lSaop g op fmt d a b) s = .next (soloNext (.lSaop g op fmt d a b) s (t.modCore s.cur fun y => y.push 4
       (.v d.toNat (halfBits false) (BitVec.ofNat 1024 (c.row r).toNat) 0b0011 (if c.rowPoison r then 0b0011 else 0))) .fall))

/-- R123 and R218: one operation's write of rows of the scratchpad. Every row it names holds what was written, with its mark; every other row
stands; each handle with a row among them clears WB and advances GEN by one, whatever the number of rows; the other handles stand. -/
def Obligations.ScratchpadWrite : Prop :=
  ∀ (c : Core) (ws : List RowWrite), (ws.map RowWrite.row).Nodup →
    (∀ w ∈ ws, (c.writeRows ws).row w.row = w.val ∧ (c.writeRows ws).rowPoison w.row = w.poison) ∧
    (∀ r, r ∉ ws.map RowWrite.row → (c.writeRows ws).row r = c.row r ∧ (c.writeRows ws).rowPoison r = c.rowPoison r) ∧
    (∀ h, (c.writeRows ws).handle h = if ws.any (fun w => decide ((c.handle h).row0 ≤ w.row ∧ w.row < (c.handle h).row0 + (c.handle h).rows))
      then { c.handle h with wb := false, gen := (c.handle h).gen + 1 } else c.handle h) ∧
    (c.writeRows ws).regs = c.regs ∧ (c.writeRows ws).spr = c.spr ∧ (c.writeRows ws).owner = c.owner

/-- R139, R148, R153, R154, R159: a global load, store, atomic or cache operation whose address is aligned and translates joins the outstanding
accesses of its core, its data read at issue; it performs later.
R140, R141: the same accesses raise MISALIGN with the address before translation, XLATE, WORLD or WPROT as translation finds, and stall for a
page walk where the TLB has no entry. -/
def Obligations.LGlobal : Prop :=
  (∀ (i : Instr) (s : State) (x : Global) (leaf : Word), lGlobal s i = some x → s.issuesSolo i = true → x.e.toNat % x.align = 0 →
     (s.core s.cur).translate x.e x.store = .ok leaf →
     (∀ pa, s.leafLoc leaf x.e.toNat = .dev pa → devAllowed (s.core s.cur) (pa - 2 ^ 48) = true) →
     exec i s = .next (soloNext i s (joined s.begun x (s.leafLoc leaf x.e.toNat)) .fall)) ∧
  (∀ (i : Instr) (s : State) (x : Global), lGlobal s i = some x → s.issuesSolo i = true →
     (x.e.toNat % x.align ≠ 0 → exec i s = .next (s.takeTrap s.cur cMISALIGN 2 false 0 x.e (s.core s.cur).pc)) ∧
     (∀ k, x.e.toNat % x.align = 0 → (s.core s.cur).translate x.e x.store = .fault k → exec i s = .next (s.takeTrap s.cur k 2 false 0 x.e (s.core s.cur).pc)) ∧
     (x.e.toNat % x.align = 0 → (s.core s.cur).translate x.e x.store = .walk → exec i s = .next (s.stallCycle s.cur (some x.e) false)))

/-- R150, R152, R332: l.ldx and l.stx reach the scratchpad of another task of the launch as outstanding accesses, each taking its path class, l.stx
counted by it;
an address R150 rejects raises BANK at the source.
R157 to R161: l.fence and l.drain issue at once, the next group after a drain waits; l.pf changes no value: no byte of memory, no register and no
row of any core, and it waits for a page walk where the TLB has no entry; l.tlbp puts its probe on its way once the translation is known, and never faults. -/
def Obligations.LRemoteAndOrder : Prop :=
  (∀ (g : Guard) (sel : RowSel) (acq ofl : Bool) (d a : Reg) (off : BitVec 8) (s : State),
     let e := addr s a off 64
     let n := if sel = .pair then 128 else 64
     let v := (s.core s.cur).regs.rv d.toNat
     (∀ m o, remote s e = some (m, o) →
       (s.issuesSolo (.lLdx g sel acq d a off) = true → exec (.lLdx g sel acq d a off) s = .next (soloNext (.lLdx g sel acq d a off) s
         ((s.begun.addAcc s.cur (.load n) (.core m o) (match sel with | .pair => .pair d.toNat | .hi => .half d.toNat true | .lo => .half d.toNat false)
           e acq false false (targetScope s.cur (.core m o))).modCore s.cur fun c => c.stepClass m) .fall)) ∧
       (s.issuesSolo (.lStx g sel ofl d a off) = true → exec (.lStx g sel ofl d a off) s = .next (soloNext (.lStx g sel ofl d a off) s
         ((s.begun.addAcc s.cur (.store n (match sel with | .pair => v | .hi => BitVec.ofNat 1024 (high v).toNat | .lo => BitVec.ofNat 1024 (low v).toNat))
           (.core m o) .none e false false ofl (targetScope s.cur (.core m o))).countStx s.cur m ofl) .fall))) ∧
     (remote s e = none →
       (s.issuesSolo (.lLdx g sel acq d a off) = true → exec (.lLdx g sel acq d a off) s = .next (s.takeTrap s.cur cBANK 2 false 0 e (s.core s.cur).pc)) ∧
       (s.issuesSolo (.lStx g sel ofl d a off) = true → exec (.lStx g sel ofl d a off) s = .next (s.takeTrap s.cur cBANK 2 false 0 e (s.core s.cur).pc)))) ∧
  (∀ (g : Guard) (kind : FenceKind) (scope : Scope) (ex l2 : Bool) (d a : Reg) (off : BitVec 8) (s : State),
     (s.issuesSolo (.lFence g kind scope) = true → exec (.lFence g kind scope) s = .next (soloNext (.lFence g kind scope) s
       (s.begun.addAcc s.cur (.fence kind) .none .none 0 false false false scope) .fall)) ∧
     (s.issuesSolo (.lDrain g scope) = true → exec (.lDrain g scope) s = .next (soloNext (.lDrain g scope) s
       ((s.begun.addAcc s.cur (.fence .full) .none .none 0 false false false scope).modCore s.cur fun c => { c with drain := some scope }) .fall)) ∧
     (s.issuesSolo (.lPf g ex l2 a off) = true → (s.core s.cur).translate (addr s a off 64) false = .walk →
       exec (.lPf g ex l2 a off) s = .next (s.stallCycle s.cur (some (addr s a off 64)) false)) ∧
     (s.issuesSolo (.lPf g ex l2 a off) = true → (s.core s.cur).translate (addr s a off 64) false ≠ .walk → ∃ t : State, exec (.lPf g ex l2 a off) s = .next (soloNext (.lPf g ex l2 a off) s t .fall) ∧
       (∀ k, t.byte k = s.byte k) ∧ ∀ n, (t.core n).regs = (s.core n).regs ∧ (t.core n).sp = (s.core n).sp ∧ (t.core n).accs = (s.core n).accs) ∧
     (s.issuesSolo (.lTlbp g d a) = true →
       let c := s.core s.cur
       let va := sReg s a
       (va.toNat < 2 ^ 56 → c.tlbFind c.spr.world.toNat va.toNat = none → c.walkFault = none →
         exec (.lTlbp g d a) s = .next (s.stallCycle s.cur (some va) false)) ∧
       (∀ w, (2 ^ 56 ≤ va.toNat ∧ w = 0x800#64) ∨ (va.toNat < 2 ^ 56 ∧ ∃ leaf, c.tlbFind c.spr.world.toNat va.toNat = some leaf ∧
           w = tlbpWord c.spr.world.toNat va (some leaf)) →
         exec (.lTlbp g d a) s = .next (soloNext (.lTlbp g d a) s
           (s.begun.addAcc s.cur (.tlbp w) .none (.s d.toNat) va false false false .task) .fall))))

/-! ## The V and F slots -/

namespace Sys2Proof.Claims

/-- Element i of n bits of a range of a vector register, and how many a range holds (R163). -/
def elem (v : VReg) (r : VRange) (n i : Nat) : Nat := v.toNat / 2 ^ (256 * r.l.toNat + n * i) % 2 ^ n
def count (r : VRange) (n : Nat) : Nat := 256 * 2 ^ r.w.toNat / n

/-- Whether a mask enables element i: by the bit of its lowest byte (R164). -/
def enables (w : Mask) (r : VRange) (n i : Nat) : Bool := w.getLsbD (32 * r.l.toNat + n * i / 8)

/-- The value of an integer element; an integer in n bits; the lesser and the greater of two floating elements as R68 ranks them. -/
def ival (t : Fmt) (x : Nat) : Int := if t.isSigned ∧ 2 ^ (t.bits - 1) ≤ x then (x : Int) - 2 ^ t.bits else x
def wrap (n : Nat) (x : Int) : Nat := (x % ((2 ^ n : Nat) : Int)).toNat
def below (t : Fmt) (x y : Nat) : Bool :=
  (floatVal t x).lt (floatVal t y) || ((floatVal t x).isZero && (floatVal t y).isZero && (floatVal t x).isNeg && !(floatVal t y).isNeg)

/-- Whether element x ranks below y: NaN highest, −0 below +0 (R68); whether x wins over y under max or min, where a NaN wins both. -/
def rankLt (t : Fmt) (x y : Nat) : Bool :=
  let nan := fun z => t.isFloat && (floatVal t z).isNan
  if nan y then !nan x else if nan x then false else if t.isFloat then below t x y else decide (ival t x < ival t y)
def wins (t : Fmt) (isMin : Bool) (x y : Nat) : Bool :=
  let nan := fun z => t.isFloat && (floatVal t z).isNan
  if isMin then (if nan x || nan y then nan x && !nan y else rankLt t x y) else rankLt t y x

/-- The result element of an elementwise instruction from the elements of vA, vB and vD (R169 to R171), with its format and operands. -/
def vElementwise : Instr → Option (Fmt × Reg × Reg × Reg × VRange × (Nat → Nat → Nat → Nat))
  | .vAdd t d a b r => some (t, d, a, b, r, fun x y _ => if t.isFloat then roundFloat t .rne ((floatVal t x).add (floatVal t y)) else (x + y) % 2 ^ t.bits)
  | .vSub t d a b r => some (t, d, a, b, r, fun x y _ => if t.isFloat then roundFloat t .rne ((floatVal t x).add (floatVal t y).neg)
      else (x + (2 ^ t.bits - y)) % 2 ^ t.bits)
  | .vMul t d a b r => some (t, d, a, b, r, fun x y _ => if t.isFloat then roundFloat t .rne ((floatVal t x).mul (floatVal t y)) else x * y % 2 ^ t.bits)
  | .vFma t d a b r => some (t, d, a, b, r, fun x y z =>
      if t.isFloat then roundFloat t .rne (((floatVal t x).mul (floatVal t y)).add (floatVal t z)) else (x * y + z) % 2 ^ t.bits)
  | .vMin t d a b r => some (t, d, a, b, r, fun x y _ =>
      if t.isFloat then (if (floatVal t x).isNan ∨ (floatVal t y).isNan then canonNan t else if below t y x then y else x)
      else if ival t x ≤ ival t y then x else y)
  | .vMax t d a b r => some (t, d, a, b, r, fun x y _ =>
      if t.isFloat then (if (floatVal t x).isNan ∨ (floatVal t y).isNan then canonNan t else if below t x y then y else x)
      else if ival t x ≤ ival t y then y else x)
  | .vAbs t d a r => some (t, d, a, 0, r, fun x _ _ =>
      if t.isFloat then (if (floatVal t x).isNan then canonNan t else x % 2 ^ (t.bits - 1))
      else if ival t x < 0 then (2 ^ t.bits - x) % 2 ^ t.bits else x)
  | .vNeg t d a r => some (t, d, a, 0, r, fun x _ _ =>
      if t.isFloat then (if (floatVal t x).isNan then canonNan t else (x + 2 ^ (t.bits - 1)) % 2 ^ t.bits) else (2 ^ t.bits - x) % 2 ^ t.bits)
  | .vSadd t d a b r => some (t, d, a, b, r, fun x y _ =>
      let z := ival t x + ival t y
      let m : Nat := if t.isSigned then 2 ^ (t.bits - 1) else 2 ^ t.bits
      if (m : Int) ≤ z then m - 1 else if t.isSigned ∧ z < -(m : Int) then m else if !t.isSigned ∧ z < 0 then 0 else wrap t.bits z)
  | .vAnd t d a b r => some (t, d, a, b, r, fun x y _ => x &&& y)
  | .vOr t d a b r => some (t, d, a, b, r, fun x y _ => x ||| y)
  | .vXor t d a b r => some (t, d, a, b, r, fun x y _ => x ^^^ y)
  | .vShl t d a b r => some (t, d, a, b, r, fun x y _ => x * 2 ^ y % 2 ^ t.bits)
  | .vShr t d a b r => some (t, d, a, b, r, fun x y _ => x / 2 ^ y)
  | .vSar t d a b r => some (t, d, a, b, r, fun x y _ =>
      if x < 2 ^ (t.bits - 1) then x / 2 ^ y else wrap t.bits (((x : Int) - 2 ^ t.bits) / ((2 ^ min y t.bits : Nat) : Int)))
  | .vMovVv t d a r => some (t, d, a, 0, r, fun x _ _ => x)
  | _ => none

/-- What a moving instruction gives element i from its registers (R177, R180 to R183), with its format, destination and range; `v` and `s` are the
values of the vector and of the general registers. -/
def vMoving (v : Reg → VReg) (s : Reg → Word) : Instr → Option (Fmt × Reg × VRange × (Nat → Nat))
  | .vPerm t d a b r => some (t, d, r, fun i =>
      let k := elem (v b) r t.bits i
      if k < count r t.bits then elem (v a) r t.bits k else 0)
  | .vRot t d a b r => some (t, d, r, fun i => elem (v a) r t.bits ((i + (s b).toNat) % count r t.bits))
  | .vRmg t d a b r => some (t, d, r, fun i => (v a).toNat / 2 ^ (8 * (((s b).toNat + i) % 128)) % 256)
  | .vBc t d a r => some (t, d, r, fun _ => (s a).toNat % 2 ^ t.bits)
  | .vIns t d a b r => some (t, d, r, fun i => if i = (s b).toNat then (s a).toNat % 2 ^ t.bits else elem (v d) r t.bits i)
  | .vIota t d a r => some (t, d, r, fun i => ((s a).toNat + i) % 2 ^ t.bits)
  | .vUnpk t rnd b32 d a r => some (t, d, r, fun i =>
      convertVal t rnd (q4Val (elem (v (a + 1)) r 8 (i / (if b32 then 32 else 16))) (elem (v a) r 4 i)))
  | _ => none

/-- A range written whole with no poison: the register entry that elements of n bits, element i being f i, make. -/
def Puts (s : State) (i : Instr) (lat : Nat) (d : Reg) (r : VRange) (bits : Nat) (f : Nat → Nat) : Prop :=
  ∃ v : VReg, exec i s = .next (soloResult i s lat (.v d.toNat (VRange.mask r) v (VRange.lanes r) 0)) ∧
    ∀ k, k < count r bits → elem v r bits k = f k

end Sys2Proof.Claims

/-- R163, R164, R169 to R171, R184: an elementwise instruction gives each enabled element of the range its result, a disabled one what vD held at
issue, with latency 2, or 4 for arithmetic in a floating format.
R177, R180 to R183: v.perm, v.rot, v.rmg, v.bc, v.ins, v.iota and v.unpk under merge; v.ext reads one element, 0 past the range. -/
def Obligations.VElementsAndMoves : Prop :=
  (∀ (i : Instr) (s : State) (t : Fmt) (d a b : Reg) (r : VRange) (f : Nat → Nat → Nat → Nat),
     vElementwise i = some (t, d, a, b, r, f) → i.wf = true → s.issuesSolo i = true →
     let v := fun (x : Reg) => (s.core s.cur).regs.rv x.toNat
     let lat := match i with
       | .vAnd .. | .vOr .. | .vXor .. | .vMovVv .. => 2
       | _ => if t.isFloat then 4 else 2
     Puts s i lat d r t.bits fun k =>
       if enables ((s.core s.cur).regs.rw r.m.toNat) r t.bits k then f (elem (v a) r t.bits k) (elem (v b) r t.bits k) (elem (v d) r t.bits k)
       else elem (v d) r t.bits k) ∧
  (∀ (s : State),
     let v := fun (x : Reg) => (s.core s.cur).regs.rv x.toNat
     (∀ (i : Instr) (t : Fmt) (d : Reg) (r : VRange) (f : Nat → Nat), vMoving v (sReg s) i = some (t, d, r, f) → i.wf = true →
       s.issuesSolo i = true →
       Puts s i (match i with | .vUnpk .. => 4 | _ => 2) d r t.bits fun k =>
         if enables ((s.core s.cur).regs.rw r.m.toNat) r t.bits k then f k else elem (v d) r t.bits k) ∧
     ∀ (t : Fmt) (d a b : Reg) (w l : BitVec 2), (Instr.vExt t d a b w l).wf = true → s.issuesSolo (.vExt t d a b w l) = true →
       let r : VRange := ⟨w, l, 0⟩
       let k := (sReg s b).toNat
       let x := elem (v a) r t.bits k
       exec (.vExt t d a b w l) s = .next (soloResult (.vExt t d a b w l) s 2 (.s d.toNat
         (if count r t.bits ≤ k then 0 else BitVec.ofInt 64 (if t.isInt then ival t x else (x : Int))) false)))

/-- R172, R173, R184: v.cmp writes each enabled element's comparison into every mask bit of its bytes and no other bit; v.sel selects by the mask; a mask
moves to and from a vector register.
R174 to R176: v.cvt, v.scl and v.pack fill the low part of the range with the converted elements, the scale bytes and the codes, the rest of the range
with zeros, with latency 4. -/
def Obligations.VMasksAndConversions : Prop :=
  (∀ (t : Fmt) (cond : VCond) (wd wa : BitVec 2) (d a b : Reg) (r : VRange) (s : State),
     let c := s.core s.cur
     let n := t.bits
     let v := fun (x : Reg) (k : Nat) => elem (c.regs.rv x.toNat) r n k
     let holds := fun (x y : Nat) =>
       let un := t.isFloat && ((floatVal t x).isNan || (floatVal t y).isNan)
       let lt := if t.isFloat then (floatVal t x).lt (floatVal t y) else decide (ival t x < ival t y)
       let eq := if t.isFloat then (floatVal t x).eqv (floatVal t y) else decide (x = y)
       match cond with
       | .eq => !un && eq | .ne => un || !eq | .lt => !un && lt | .ge => !un && !lt
       | .le => !un && (lt || eq) | .gt => !un && !(lt || eq) | .un => un
     ((Instr.vCmp t cond wd a b r).wf = true → s.issuesSolo (.vCmp t cond wd a b r) = true →
       ∃ m : Mask, exec (.vCmp t cond wd a b r) s =
           .next (soloResult (.vCmp t cond wd a b r) s (if t.isFloat then 4 else 2) (.w wd.toNat m)) ∧
         (∀ k, k < count r n → ∀ j, j < n / 8 → m.getLsbD (32 * r.l.toNat + n * k / 8 + j) =
           if enables (c.regs.rw r.m.toNat) r n k then holds (v a k) (v b k)
           else (c.regs.rw wd.toNat).getLsbD (32 * r.l.toNat + n * k / 8 + j)) ∧
         ∀ j, j < 32 * r.l.toNat ∨ 32 * r.l.toNat + 32 * 2 ^ r.w.toNat ≤ j → m.getLsbD j = (c.regs.rw wd.toNat).getLsbD j) ∧
     ((Instr.vSel t d a b r).wf = true → s.issuesSolo (.vSel t d a b r) = true →
       Puts s (.vSel t d a b r) 2 d r n fun k => if enables (c.regs.rw r.m.toNat) r n k then v a k else v b k) ∧
     (wd ≠ 0 → s.issuesSolo (.vMovVw wd a) = true →
       exec (.vMovVw wd a) s = .next (soloResult (.vMovVw wd a) s 2 (.w wd.toNat (BitVec.ofNat 128 (c.regs.rv a.toNat).toNat)))) ∧
     (s.issuesSolo (.vMovWv d wa) = true → Puts s (.vMovWv d wa) 2 d ⟨0, 0, 0⟩ 256 fun _ => (c.regs.rw wa.toNat).toNat)) ∧
  (∀ (t f : Fmt) (rnd : Rnd) (qt : QType) (b32 : Bool) (d a : Reg) (w l : BitVec 2) (r : VRange) (s : State),
     let c := s.core s.cur
     let q : VRange := ⟨w, l, 0⟩
     let size := if b32 then 32 else 16
     let x := fun k => elem (c.regs.rv a.toNat) r t.bits k
     let on := fun k => enables (c.regs.rw r.m.toNat) r t.bits k
     let cnt := count r t.bits
     ((Instr.vCvt t f rnd d a w l).wf = true → s.issuesSolo (.vCvt t f rnd d a w l) = true →
       Puts s (.vCvt t f rnd d a w l) 4 d q t.bits fun k => if k < count q (max f.bits t.bits)
         then convertVal t rnd (if f.isFloat then floatVal f (elem (c.regs.rv a.toNat) q f.bits k) else .ofInt (ival f (elem (c.regs.rv a.toNat) q f.bits k)) 0)
         else 0) ∧
     ((Instr.vScl t qt b32 d a r).wf = true → s.issuesSolo (.vScl t qt b32 d a r) = true →
       Puts s (.vScl t qt b32 d a r) 4 d r 8 fun j =>
         let vals := ((List.range cnt).filter fun k => k / size == j && on k).map fun k => valOf t (x k)
         if j < (cnt + size - 1) / size then qt.code.toNat * 64 + (match maxMag vals with
           | (0, _) => 0
           | (m, e) => (min (max (scaleK (match qt with | .uni => 7 | .e2m1 => 6 | .pow2 => 64 | .hyb => 32) m e + 32) 0) 63).toNat)
         else 0) ∧
     ((Instr.vPack t rnd b32 d a r).wf = true → s.issuesSolo (.vPack t rnd b32 d a r) = true →
       Puts s (.vPack t rnd b32 d a r) 4 d r 4 fun k =>
         if k < cnt ∧ on k then toQ4 (elem (c.regs.rv (a.toNat + 1)) r 8 (k / size)) rnd (valOf t (x k)) else 0))

/-- R178, R179: v.red reduces the enabled elements to one value, v.redx to the winner, its index and its tie flag; with no element enabled the identity of
the operation, or index 0xFFFF; the rest of the range becomes zero. -/
def Obligations.VReductions : Prop :=
  ∀ (t : Fmt) (op : RedOp) (isMin : Bool) (d a : Reg) (r : VRange) (s : State),
    let c := s.core s.cur
    let ids := (List.range (count r t.bits)).filter fun k => enables (c.regs.rw r.m.toNat) r t.bits k
    let x := fun k => elem (c.regs.rv a.toNat) r t.bits k
    let nan := fun k => t.isFloat && (floatVal t (x k)).isNan
    let beats := fun (k j : Nat) => wins t isMin (x k) (x j)
    let lat := if t.isFloat then 6 else 4
    ((Instr.vRed t op d a r).wf = true → s.issuesSolo (.vRed t op d a r) = true →
      ∃ y : Nat, Puts s (.vRed t op d a r) lat d r 256 (fun k => if k = 0 then y else 0) ∧ y < 2 ^ 64 ∧
        (op = .add → t.isInt → y = wrap 64 ((ids.map fun k => ival t (x k)).sum)) ∧
        (op = .and → y = wrap 64 (ival t ((ids.map x).foldr (· &&& ·) (2 ^ t.bits - 1)))) ∧
        (op = .or → y = wrap 64 (ival t ((ids.map x).foldr (· ||| ·) 0))) ∧
        (op = .xor → y = wrap 64 (ival t ((ids.map x).foldr (· ^^^ ·) 0))) ∧
        (ids = [] → op = .add → y = 0) ∧
        (t.isFloat → op = .add → ids ≠ [] → y = roundFloat t .rne (ids.foldl (fun z k => z.add (floatVal t (x k))) (.fin true 0 0))) ∧
        (op = (if isMin then .min else .max) → ids ≠ [] → ∃ k ∈ ids, (∀ j ∈ ids, beats j k = false) ∧
          y = if t.isInt then wrap 64 (ival t (x k)) else if nan k then canonNan t else x k) ∧
        (op = .min → ids = [] → y = if t.isFloat then infMag t else wrap 64 (ival t (if t.isSigned then 2 ^ (t.bits - 1) - 1 else 2 ^ t.bits - 1))) ∧
        (op = .max → ids = [] → y = if t.isFloat then 2 ^ (t.bits - 1) + infMag t else wrap 64 (ival t (if t.isSigned then 2 ^ (t.bits - 1) else 0)))) ∧
    ((Instr.vRedx t isMin d a r).wf = true → s.issuesSolo (.vRedx t isMin d a r) = true →
      ∃ y : Nat, Puts s (.vRedx t isMin d a r) lat d r 256 (fun k => if k = 0 then y else 0) ∧
        (ids = [] → y = 0xFFFF * 2 ^ 64) ∧
        (ids ≠ [] → ∃ k ∈ ids, (∀ j ∈ ids, beats j k = false ∧ (j < k → beats k j = true)) ∧
          y = (if nan k then canonNan t else x k) + k * 2 ^ 64 + if ids.any (fun j => j != k && !beats k j) then 2 ^ 80 else 0))

namespace Sys2Proof.Claims

/-- Field of a table header in the constant tables: `len` bytes from byte `at_` (R188). -/
def tabField (c : Core) (o at_ len : Nat) : Nat := lineNat c.ctab (o + at_) len

/-- The header checks of f.tsel (R188). -/
def tabGood (c : Core) (o : Nat) : Bool :=
  let f := tabField c o 0 1
  let n := tabField c o 2 2
  decide (8 ≤ f ∧ f ≤ 10 ∧ 2 ≤ n ∧ n ≤ 256 ∧ tabField c o 8 4 / 2 ^ 23 % 256 ≠ 255 ∧ tabField c o 5 3 = 0 ∧ tabField c o 12 52 = 0 ∧
    o + 64 + n * (if f = 10 then 4 else 2) ≤ 65536)

/-- f.eval on one value (R189); `y` gives the nodes. -/
def interpolated (t : FTable) (x : Val) : Val :=
  let y := fun i => floatVal (match t.nf with | 8 => .bf16 | 9 => .fp16 | _ => .fp32) (t.nodes.getD i 0)
  let last := t.n - 1
  let u := (x.add (floatVal .fp32 t.x0).neg).rne64.scale (-(if t.se < 128 then (t.se : Int) else (t.se : Int) - 256))
  let far := fun (mode : Nat) (end_ slope dist : Val) =>
    if mode = 0 then end_ else if mode = 1 then .fin false 0 0 else if mode = 2 then x
    else if x.isInf then
      if slope.isNan then .nan else if slope.isZero then end_ else .inf (slope.isNeg ^^ x.isNeg)
    else (end_.add (dist.mul slope)).rne64
  if x.isNan then .nan
  else if u.lt (.fin false 0 0) then far (t.modes % 4) (y 0) ((y 1).add (y 0).neg).rne64 u
  else if (Val.fin false last 0).lt u then far (t.modes / 4) (y last) ((y last).add (y (last - 1)).neg).rne64 (u.add (.fin true last 0)).rne64
  else
    let i := (u.floorUnit 0).toNat
    if i = last then y last else ((y i).add ((u.add (.fin true i 0)).mul ((y (i + 1)).add (y i).neg).rne64)).rne64

end Sys2Proof.Claims

/-- R185, R187 to R190: the special-function unit takes any operands; each result element is the function's value rounded once, 12 groups later;
f.eval on an empty slot gives the canonical NaN; f.tsel checks its header, ILLEGAL with the offset, and fills its slot 12 groups later.
R190: the special inputs of f.rcp, f.rsq, f.exp2 and f.log2, and powers of two, whose results are exact. -/
def Obligations.FFunctions : Prop :=
  (∀ (g : Guard) (fmt : FFmt) (rg : BitVec 3) (ts : Bool) (d a : Reg) (s : State),
     let c := s.core s.cur
     let t := fmt.fmt
     let r := if rg.toNat < 4 then (⟨0, BitVec.ofNat 2 rg.toNat, 0⟩ : VRange) else if rg = 4 then ⟨1, 0, 0⟩ else if rg = 5 then ⟨1, 2, 0⟩ else ⟨2, 0, 0⟩
     let on := fun (f : Val → Val) (k : Nat) => roundFloat t .rne (f (floatVal t (elem (c.regs.rv a.toNat) r t.bits k)))
     let tab := if ts then c.ftab1 else c.ftab0
     let o := (c.regs.rv a.toNat).toNat / 64 % 1024 * 64
     let nf := tabField c o 0 1
     let n := tabField c o 2 2
     (rg ≠ 7 →
       (s.issuesSolo (.fRcp g fmt rg d a) = true → Puts s (.fRcp g fmt rg d a) 12 d r t.bits (on Val.rcp)) ∧
       (s.issuesSolo (.fRsq g fmt rg d a) = true → Puts s (.fRsq g fmt rg d a) 12 d r t.bits (on Val.rsq)) ∧
       (s.issuesSolo (.fExp2 g fmt rg d a) = true → Puts s (.fExp2 g fmt rg d a) 12 d r t.bits (on Val.exp2)) ∧
       (s.issuesSolo (.fLog2 g fmt rg d a) = true → Puts s (.fLog2 g fmt rg d a) 12 d r t.bits (on Val.log2)) ∧
       (s.issuesSolo (.fEval g fmt rg ts d a) = true →
         Puts s (.fEval g fmt rg ts d a) 12 d r t.bits (match tab with | none => fun _ => canonNan t | some x => on (interpolated x)))) ∧
     (s.issuesSolo (.fTsel g ts a) = true →
       if tabGood c o then exec (.fTsel g ts a) s = .next (soloResult (.fTsel g ts a) s 12
         (.tab ts nf (tabField c o 1 1 % 16) n (tabField c o 4 1) (tabField c o 8 4)
           ((List.range n).map fun i => lineNat c.ctab (o + 64 + (if nf = 10 then 4 else 2) * i) (if nf = 10 then 4 else 2))))
       else exec (.fTsel g ts a) s = .next (s.takeTrap s.cur cILLEGAL 4 false 0 (BitVec.ofNat 64 o) c.pc))) ∧
  (∀ (t : FFmt) (neg : Bool) (m : Nat) (e : Int),
     let r := fun (v : Val) => roundFloat t.fmt .rne v
     let zero := Val.fin neg 0 e
     Val.rcp .nan = .nan ∧ Val.rsq .nan = .nan ∧ Val.exp2 .nan = .nan ∧ Val.log2 .nan = .nan ∧
     zero.rcp = .inf neg ∧ zero.rsq = .inf neg ∧ r zero.exp2 = r (.fin false 1 0) ∧ zero.log2 = .inf true ∧
     (Val.inf neg).rcp = .fin neg 0 0 ∧ (Val.inf false).rsq = .fin false 0 0 ∧ (Val.inf false).exp2 = .inf false ∧ (Val.inf false).log2 = .inf false ∧
     (Val.inf true).rsq = .nan ∧ (Val.inf true).exp2 = .fin false 0 0 ∧ (Val.inf true).log2 = .nan ∧
     (m ≠ 0 → (Val.fin true m e).rsq = .nan ∧ (Val.fin true m e).log2 = .nan) ∧
     (-60 ≤ e → e ≤ 60 →
       r (Val.fin neg 1 e).rcp = r (.fin neg 1 (-e)) ∧ r (Val.fin false 1 (2 * e)).rsq = r (.fin false 1 (-e)) ∧
       r (Val.fin neg e.natAbs 0).exp2 = r (.fin false 1 (if neg then -(e.natAbs : Int) else e.natAbs)) ∧
       r (Val.fin false 1 e).log2 = r (Val.ofInt e 0)))

/-! ## The X slot and the witness forms -/

namespace Sys2Proof.Claims

/-- Element of a tile: row r, column n (R191). -/
def tileAt (c : Core) (t r n : Nat) : Nat := (SMap.get 0 c.tiles (16 * t + r)).toNat / 2 ^ (64 * n) % 2 ^ 64

/-- The group of an instruction that only changes its core. -/
def coreNext (i : Instr) (s : State) (f : Core → Core) : State := soloNext i s (s.begun.modCore s.cur f) .fall

/-- The state an X slot with trap cause k and fault address a leaves (R209). -/
def xTrap (s : State) (k : Nat) (a : Nat) : State := s.takeTrap s.cur k 5 false 0 (BitVec.ofNat 64 a) (s.core s.cur).pc

/-- The bytes of a list of spans, each with its offset, in order. -/
def spanBytes (l : List SpanWrite) : List (Nat × Byte) := l.flatMap fun w => (List.range w.bytes.length).map fun k => (w.off + k, w.bytes.getD k 0)

/-- Held value j of group g of column k of a plane, and its K index; a column with nothing listed holds zeros (R191). -/
def held (p : Plane) (k g j : Nat) : Int := (((SMap.get {} p.col k).groups.getD g ⟨[], 0⟩).vals.getD j (0, 0)).2

/-- The product of group g of a streaming row with a column: S · u · v, its sign inverted under .sub, the halves of a double-width plane joined (R202). -/
def groupProduct (dw sub : Bool) (row : StreamRow) (a b : Column) (g : Nat) : Int × Int :=
  let sum := fun (x : Column) => ((x.groups.getD g ⟨[], 0⟩).vals.map fun v => row.p.getD (16 * g + v.1) 0 * v.2).sum
  let lv := match a.groups[g]? with | some x => x.lv | none => match b.groups[g]? with | some x => x.lv | none => 0
  let s := if dw then 256 * sum a + sum b else sum a
  (if sub then -s else s, row.lu.getD g 0 + lv)

/-- Element (n, ρ) of the image x.mul makes of the k-th tile it writes: the committed element, then each stream row ρ + j·Rp in order, each with its
sixteen groups in order, one rounding each (R65, R66, R202, R203). -/
def mulImage (c : Core) (arr : Arr) (d : SDesc) (pl rows : Nat) (sp : Sparsity) (dw sub : Bool) (tile k ρ n : Nat) : Nat :=
  let T := match sp with | .sp16 => 1 | .sp8 => 2 | _ => 4
  let Rp := if sp = .sp2 then 8 else 16
  let col := 256 * (k + T * (ρ / Rp)) + n
  ((List.range rows).filter fun r => r % Rp == ρ % Rp).foldl (fun e r => (List.range 16).foldl (fun e g =>
    let p := groupProduct dw sub (c.readStreamRow d pl r) (SMap.get {} arr.active.col col) (if dw then SMap.get {} arr.shadow.col col else {}) g
    accumulate e p.1 p.2) e) (tileAt c tile ρ n)

/-- The pass of a tile: its delay and its elements. -/
def passIs (p : Pass) (c : Core) (tile beats : Nat) (lead : Bool) (el : Nat → Nat → Nat) : Prop :=
  p.tile = tile ∧ p.lead = lead ∧ p.handler = c.handler ∧ p.delay = beats + 512 ∧
    ∀ ρ n, ρ < 16 → n < 256 → (SMap.get 0 p.rows ρ).toNat / 2 ^ (64 * n) % 2 ^ 64 = el ρ n

end Sys2Proof.Claims

/-- R199, R200, R209: x.ldw loads its columns from the scratchpad or the weight store into the shadow plane, which takes them when the load completes;
columns past the count hold zeros, a column of integers with no failed data (R302) holds the floors R199 gives; its checks raise STREAM, BANK and WORLD in that order.
R202 to R204, R208, R209: x.mul and x.acc put the image of each tile they write on its way, BEATS + 512 groups, and occupy their array for BEATS groups;
wrong plane tags raise SCHED, a wrong descriptor STREAM, rows outside the task's banks BANK. -/
def Obligations.XLoadsAndPasses : Prop :=
  (∀ (arr : Bool) (wid : Wid) (sp : Sparsity) (qw : BitVec 4) (cols : BitVec 12) (s : State),
     let i : Instr := .xLdw arr wid sp qw cols
     let c := s.core s.cur
     let a := c.arr arr
     let d := parseDesc (c.regs.rq qw.toNat)
     let ranges := (List.range cols.toNat).flatMap (c.ldwRanges d sp)
     let fit := s.wsFail (dieOf s.cur) c.spr.world.toNat ranges
     s.issuesSolo i = true → a.ldw = none → c.refresh = false → (d.space = true → s.wsWriteHeld (dieOf s.cur) = false) →
     (stationaryBad c qw.toNat d sp = true → exec i s = .next (xTrap s cSTREAM qw.toNat)) ∧
     (stationaryBad c qw.toNat d sp = false →
       (∀ o, d.space = false → c.spFail ranges = some o → exec i s = .next (xTrap s cBANK o)) ∧
       (∀ o, d.space = true → fit = some o → exec i s = .next (xTrap s cWORLD o)) ∧
       ((d.space = false → c.spFail ranges = none) → (d.space = true → fit = none) →
         ∃ op : LdwOp, exec i s = .next (coreNext i s fun c => c.setArr arr { a with ldw := some op }) ∧
           op.plane.wid = wid ∧ op.plane.sp = sp ∧ op.plane.cols = cols.toNat ∧ op.ws = d.space ∧
           (∀ k, cols.toNat ≤ k → SMap.get {} op.plane.col k = {}) ∧
           ((d.fmt = .s8 ∨ d.fmt = .s16 ∨ d.fmt = .z8) → ∀ k g j, k < cols.toNat → g < 16 → j < sp.held →
             (SMap.get {} op.plane.col k).poison = false →
             let row := if d.bound then c.streamRow d true k else (if d.space then d.base else d.base / 32 * 32) + k * d.rstr
             let o := row + (g * sp.held + j) * d.fmt.bits / 8
             let raw := if d.space then s.wsNat (dieOf s.cur) o (d.fmt.bits / 8) else c.spNat o (d.fmt.bits / 8)
             let top : Nat := match d.fmt with | .s8 => 7 | .s16 => 15 | _ => 8
             let q := ival d.fmt raw * 2 ^ ((match wid with | .sw => 9 | _ => 17) - 1) / 2 ^ top
             held op.plane k g j = match wid with | .sw => q | .dwh => q / 256 | .dwl => q % 256))) ∧
     ∀ (m : Nat) (t : State) (op : LdwOp), ((t.core m).arr arr).ldw = some op → (t.core m).opDue op.due = true →
       exec (.xLdwComplete m arr) t = .next (t.modCore m fun c => c.setArr arr { c.arr arr with shadow := op.plane, ldw := none })) ∧
  (∀ (mt : BitVec 3) (qa : BitVec 4) (beats : BitVec 12) (pl : BitVec 5) (sp : Sparsity) (dw sub : Bool) (s : State),
     let c := s.core s.cur
     let ai := mt.getLsbD 2
     let a := c.arr ai
     let d := parseDesc (c.regs.rq qa.toNat)
     let i : Instr := .xMul mt qa beats pl sp dw sub
     let j : Instr := .xAcc mt qa beats pl sub
     let w := pl.toNat * if dw then 2 else 1
     let rows := fun (i : Instr) => match i with | .xMul .. => beats.toNat / w | _ => beats.toNat / pl.toNat
     let ranges := fun i => (List.range (rows i)).flatMap (c.passRanges d pl.toNat)
     let good := if dw then a.active.wid = .dwh ∧ a.shadow.wid = .dwl ∧ a.active.sp = sp ∧ a.shadow.sp = sp else a.active.wid = .sw ∧ a.active.sp = sp
     let started := fun (i : Instr) (k : Bool) (ps : List Pass) => exec i s = .next (coreNext i s fun c => c.startPass ai beats.toNat (if k then w else pl.toNat)
       k (k && dw) (c.regs.rq qa.toNat) ps)
     (s.issuesSolo i = true → (dw = true → a.ldw = none) → c.ringWaits qa.toNat d (rows i) = false →
       (¬good → exec i s = .next (xTrap s cSCHED (soloCtx i s).word)) ∧
       (good → streamBad c qa.toNat d pl.toNat = true → exec i s = .next (xTrap s cSTREAM qa.toNat)) ∧
       (good → streamBad c qa.toNat d pl.toNat = false →
         (∀ o, c.spFail (ranges i) = some o → exec i s = .next (xTrap s cBANK o)) ∧
         (c.spFail (ranges i) = none → ∃ ps : List Pass, started i true ps ∧ ps.length = (match sp with | .sp16 => 1 | .sp8 => 2 | _ => 4) ∧
           ∀ k p, ps[k]? = some p →
             let tile := 4 * (mt.toNat / 4) + (mt.toNat % 4 + k) % 4
             passIs p c tile beats.toNat (k == 0) (mulImage c a d pl.toNat (rows i) sp dw sub tile k)))) ∧
     (s.issuesSolo j = true → c.ringWaits qa.toNat d (rows j) = false →
       (streamBad c qa.toNat d pl.toNat = true → exec j s = .next (xTrap s cSTREAM qa.toNat)) ∧
       (streamBad c qa.toNat d pl.toNat = false →
         (∀ o, c.spFail (ranges j) = some o → exec j s = .next (xTrap s cBANK o)) ∧
         (c.spFail (ranges j) = none → ∃ p : Pass, started j false [p] ∧ passIs p c mt.toNat beats.toNat true fun ρ n =>
           ((List.range (rows j)).filter fun r => r % 16 == ρ).foldl (fun e r =>
             let x := c.readStreamRow d pl.toNat r
             accumulate e (if sub then -(x.p.getD n 0) else x.p.getD n 0) (x.lu.getD (n / 16) 0)) (tileAt c mt.toNat ρ n)))) ∧
     ∀ (m k : Nat) (t : State), exec (.xPassCommit m k) t = .next (t.modCore m fun c => c.commitTile c.handler k))

/-- R198, R201, R205, R207: x.zero clears a tile and its marks; x.swap exchanges the planes, or waits for a load; x.cfg sets RDCUR or OSCALE; x.rd puts the
converted elements from RDCUR on their way with latency 6 and advances RDCUR.
R206, R209: x.st takes the converted elements of all sixteen rows at issue, .clr clears the tile at once, and the rows are written as one operation when the
store completes, no earlier acquire, fence or access the matrix orders before them open (R317); a descriptor with SPACE or FORM set raises STREAM, rows outside the task's banks BANK. -/
def Obligations.XTilesPlanesAndStore : Prop :=
  (∀ (mt : BitVec 3) (arr : Bool) (reg : XReg) (fmt : Fmt) (rnd : Rnd) (x : Reg) (s : State),
     let c := s.core s.cur
     let a := c.arr arr
     let b := c.arr (mt.getLsbD 2)
     let v := (sReg s x).toNat
     (s.issuesSolo (.xZero mt) = true → ∃ l p, exec (.xZero mt) s = .next (coreNext (.xZero mt) s fun c =>
         ({ c with tiles := l, tilePoison := p }).occupy (mt.getLsbD 2) 1 false) ∧
       ∀ k r, r < 16 → SMap.get 0 l (16 * k + r) = (if k = mt.toNat then 0 else c.tileRow k r) ∧
         SMap.get 0 p (16 * k + r) = if k = mt.toNat then 0 else c.tilePoisonRow k r) ∧
     (s.issuesSolo (.xSwap arr) = true → exec (.xSwap arr) s = .next (if a.ldw.isSome then s.stallCycle s.cur none false
       else coreNext (.xSwap arr) s fun c => c.setArr arr { a with active := a.shadow, shadow := a.active })) ∧
     (s.issuesSolo (.xCfg arr reg x) = true → exec (.xCfg arr reg x) s = .next (coreNext (.xCfg arr reg x) s fun c => c.setArr arr (match reg with
       | .rdcur => { a with rdcol := v % 256, rdrow := v / 256 % 16 }
       | .oscale => { a with oscale := if v % 4096 < 2048 then (v % 4096 : Int) else (v % 4096 : Int) - 4096 }))) ∧
     (fmt.isIF = true → s.issuesSolo (.xRd mt fmt rnd x) = true →
       let n := 1024 / fmt.bits
       let past := decide (256 ≤ b.rdcol + n)
       ∃ (w : VReg) (po : BitVec 4), exec (.xRd mt fmt rnd x) s = .next (coreNext (.xRd mt fmt rnd x) s fun c =>
           (c.setArr (mt.getLsbD 2) { b with
             rdcol := if past then 0 else b.rdcol + n
             rdrow := if past then (b.rdrow + 1) % 16 else b.rdrow }).push 6 (.v x.toNat (BitVec.allOnes 1024) w 0b1111 po)) ∧
         (∀ i, i < n → elem w ⟨2, 0, 0⟩ fmt.bits i = if 256 ≤ b.rdcol + i then 0
           else convertVal fmt rnd ((floatVal .fp64 ((c.tileRow mt.toNat b.rdrow).toNat / 2 ^ (64 * (b.rdcol + i)) % 2 ^ 64)).scale b.oscale)) ∧
         ∀ g, g < 4 → po.getLsbD g = (List.range (n / 4)).any fun i => (c.tilePoisonRow mt.toNat b.rdrow).getLsbD (b.rdcol + g * (n / 4) + i))) ∧
  (∀ (mt : BitVec 3) (qa : BitVec 4) (fmt : Fmt) (rnd : Rnd) (clr : Bool) (s : State),
     let i : Instr := .xSt mt qa fmt rnd clr
     let c := s.core s.cur
     let ai := mt.getLsbD 2
     let a := c.arr ai
     let d := parseDesc (c.regs.rq qa.toNat)
     let base := d.base / 32 * 32
     let len := 32 * fmt.bits
     let ranges := (List.range 16).map fun r => (base + r * d.rstr, len)
     let el := fun r n => convertVal fmt rnd ((floatVal .fp64 (tileAt c mt.toNat r n)).scale a.oscale)
     s.issuesSolo i = true → fmt.isIF = true → a.st = none → c.witHolds ranges = false →
     (d.space = true ∨ d.form = true → exec i s = .next (xTrap s cSTREAM qa.toNat)) ∧
     (d.space = false → d.form = false →
       (∀ o, c.spFail ranges = some o → exec i s = .next (xTrap s cBANK o)) ∧
       (c.spFail ranges = none → ∃ op : StOp, exec i s = .next (coreNext i s fun c =>
           let c := c.setArr ai { a with st := some op }
           if clr then c.zeroTile mt.toNat else c) ∧
         spanBytes op.writes = (List.range 16).flatMap fun r => (List.range len).map fun k =>
           (base + r * d.rstr + k, BitVec.ofNat 8 (el r (k / (fmt.bits / 8)) / 256 ^ (k % (fmt.bits / 8)))))) ∧
     ∀ (m : Nat) (b : Bool) (t : State) (op : StOp), ((t.core m).arr b).st = some op → (t.core m).opDue op.due = true →
       ((t.core m).before op.seq).ownBlocked m (op.writes.map fun w => w.off / 64) false true = false →
       exec (.xStComplete m b) t = .next (t.modCore m fun c => (c.writeSpans op.writes).setArr b { c.arr b with st := none }))

namespace Sys2Proof.Claims

/-- The witness forms with their operator codes (R217), formats, destinations and operands. -/
def witForm : Instr → Option (Nat × Fmt × Reg × Reg × Reg)
  | .vWmax t d a b => some (1, t, d, a, b)
  | .vWmin t d a b => some (2, t, d, a, b)
  | .vWclamp t d a b => some (3, t, d, a, b)
  | .vWmed t d a b => some (4, t, d, a, b)
  | .vWsum t d a b => some (5, t, d, a, b)
  | .vWtopk t d a b => some (6, t, d, a, b)
  | _ => none

/-- The fields of the handles word and of the shape word (R220, R221), and whether a reserved bit is set. -/
structure Words where
  h0 : Nat
  h1 : Nat
  h2 : Nat
  ww : Bool
  k : Nat
  nout : Nat
  ksm1 : Nat
  opc : Nat
  reserved : Bool

def operandWords (x y : Nat) : Words :=
  let h := fun lo => x / 2 ^ lo % 64
  ⟨h 0, h 8, h 16, x / 2 ^ 24 % 2 == 1, y % 2 ^ 15 + 1, y / 2 ^ 16 % 2 ^ 20, y / 2 ^ 36 % 32, y / 2 ^ 41 % 16,
    x != h 0 + h 8 * 2 ^ 8 + h 16 * 2 ^ 16 + x / 2 ^ 24 % 2 * 2 ^ 24 || y / 2 ^ 15 % 2 == 1 || decide (2 ^ 45 ≤ y)⟩

/-- Check 2 of R222: the handle that is a ring or lies past the partition, or the later one of two that are equal or overlap. -/
def handlesBad (c : Core) (w : Words) : Option Nat :=
  let x := c.handle
  let bad := fun h => (x h).ring || decide (c.banks * 64 < (x h).row0 + (x h).rows)
  let meet := fun a b => a == b || (decide ((x a).rows ≠ 0 ∧ (x b).rows ≠ 0 ∧ (x a).row0 < (x b).row0 + (x b).rows ∧ (x b).row0 < (x a).row0 + (x a).rows))
  if bad w.h0 then some w.h0 else if bad w.h1 then some w.h1 else if bad w.h2 then some w.h2
  else if meet w.h0 w.h1 then some w.h1 else if meet w.h0 w.h2 then some w.h2 else if meet w.h1 w.h2 then some w.h2 else none

/-- The bytes a witness form reads of HS and writes to HR and HW (R216, R223, R225). -/
def witSizes (opc : Nat) (n : Nat) (w : Words) : Nat × Nat × Nat :=
  let k := if opc = 6 then w.ksm1 + 1 else 1
  (w.nout * w.k * n / 8, w.nout * k * n / 8, 64 + if opc = 3 ∨ opc = 5 then (w.nout + 3) / 4 else w.nout * k * (if w.ww then 16 else 8) / 8)

/-- The first check of R222 that a witness form fails: cause and fault address. -/
def witFails (c : Core) (opc : Nat) (t : Fmt) (b : Reg) (w : Words) : Option (Nat × Nat) :=
  let lo := (c.regs.rs (b.toNat + 1)).toNat
  let hi := (c.regs.rs (b.toNat + 2)).toNat
  let size := witSizes opc t.bits w
  let holds := fun h => (c.handle h).rows * 64
  let buf := fun h => ((c.handle h).row0 * 64, (c.handle h).rows * 64)
  if w.reserved ∨ (w.opc ≠ 0 ∧ w.opc ≠ opc) ∨ (opc ≠ 6 ∧ w.ksm1 ≠ 0) ∨ 16 ≤ w.ksm1 ∨ (opc = 3 ∧ (2 ^ t.bits ≤ lo ∨ 2 ^ t.bits ≤ hi)) then some (cWITNESS, 1)
  else match handlesBad c w, c.spFail [buf w.h0, buf w.h1, buf w.h2] with
  | some h, _ => some (cHANDLE, h)
  | none, some o => some (cBANK, o)
  | none, none =>
    if (c.handle w.h0).st ≠ 2 then some (cHANDLE, w.h0)
    else if (c.handle w.h1).st ≠ 0 then some (cHANDLE, w.h1)
    else if (c.handle w.h2).st ≠ 0 then some (cHANDLE, w.h2)
    else if holds w.h0 < size.1 then some (cHANDLE, w.h0)
    else if holds w.h1 < size.2.1 then some (cHANDLE, w.h1)
    else if holds w.h2 < size.2.2 then some (cHANDLE, w.h2)
    else if opc ≠ 3 ∧ opc ≠ 5 ∧ !w.ww ∧ 128 < w.k then some (cWITNESS, 2)
    else if opc = 6 ∧ w.k < w.ksm1 + 1 then some (cWITNESS, 3)
    else if opc = 3 ∧ ((t.isFloat ∧ ((floatVal t lo).isNan ∨ (floatVal t hi).isNan)) ∨ rankLt t hi lo) then some (cWITNESS, 4)
    else if (opc = 3 ∧ w.k ≠ 1) ∨ ((opc = 3 ∨ opc = 5) ∧ w.ww) then some (cWITNESS, 5)
    else none

/-- A number of n bytes at byte b of a buffer from row0 on, among rows to be written. -/
def writtenNat (ws : List RowWrite) (row0 b : Nat) : Nat → Nat
  | 0 => 0
  | n + 1 =>
    (match ws.find? fun w => w.row == row0 + b / 64 with | some w => w.val.toNat / 2 ^ (8 * (b % 64)) % 256 | none => 0) +
      256 * writtenNat ws row0 (b + 1) n

/-- The state in which a long operation of the vector unit has started: its handles' states set, the operation in flight. -/
def withWit (i : Instr) (s : State) (l : List (Nat × Nat)) (op : WitOp) : State := coreNext i s fun c => { c.setStates l with wit := some op }

end Sys2Proof.Claims

/-- R217, R224 to R228: what a witness form in flight will write: for max, min, median and top-k the chosen contributors and their entries, for clamp and sum
the bounded values and their codes, in the header the operator, the format, the counts, HS with its generation and SUM, which counts the outputs marked. -/
def Obligations.WitnessResults : Prop :=
  ∀ (i : Instr) (s u : State) (opc : Nat) (t : Fmt) (d a b : Reg) (op : WitOp), witForm i = some (opc, t, d, a, b) → i.wf = true → s.issuesSolo i = true →
    let c := s.core s.cur
    let w := operandWords (sReg s a).toNat (sReg s b).toNat
    c.wit = none → witFails c opc t b w = none → exec i s = .next u → (u.core s.cur).wit = some op →
    let n := t.bits
    let src := (c.handle w.h0).row0 * 64
    let x := fun o e => c.spNat (src + (o * w.k + e) * n / 8) (n / 8)
    let k := if opc = 6 then w.ksm1 + 1 else 1
    let res := fun e => writtenNat op.writes (c.handle w.h1).row0 (e * n / 8) (n / 8)
    let head := fun b m => writtenNat op.writes (c.handle w.h2).row0 b m
    let width := if w.ww then 16 else 8
    let entry := fun e => head (64 + e * width / 8) (width / 8)
    let code := fun o => head (64 + o / 4) 1 / 4 ^ (o % 4) % 4
    let same := fun o p q => !rankLt t (x o p) (x o q) && !rankLt t (x o q) (x o p)
    let tied := fun o p => (List.range w.k).any fun q => q != p && same o p q
    let canonical := fun v => if t.isFloat && (floatVal t v).isNan then canonNan t else v
    let coded := opc == 3 || opc == 5
    let marked := fun o => if coded then code o != 0 else (List.range k).any fun j => decide (2 ^ (width - 1) ≤ entry (o * k + j))
    (head 0 1 = opc ∧ head 1 1 = t.code.toNat ∧ head 2 1 = (if coded then 2 else width) ∧ head 3 1 = k ∧ head 4 2 = w.k ∧ head 6 2 = 0 ∧
      head 8 4 = w.nout ∧ head 12 1 = w.h0 ∧ head 13 1 = 0 ∧ head 14 2 = (c.handle w.h0).gen.toNat ∧ head 16 4 = op.sum.toNat ∧
      op.sum.toNat = ((List.range w.nout).filter marked).length) ∧
    ∀ o, o < w.nout →
      (coded = false → ∀ j, j < k → ∃ e, e < w.k ∧ res (o * k + j) = canonical (x o e) ∧
        entry (o * k + j) = e + (if tied o e then 2 ^ (width - 1) else 0) ∧
        (opc = 1 → ∀ q, q < w.k → wins t false (x o q) (x o e) = false ∧ (q < e → wins t false (x o e) (x o q) = true)) ∧
        (opc = 2 → ∀ q, q < w.k → wins t true (x o q) (x o e) = false ∧ (q < e → wins t true (x o e) (x o q) = true)) ∧
        (opc = 4 → ((List.range w.k).filter fun q => rankLt t (x o q) (x o e)).length ≤ (w.k - 1) / 2 ∧
          (w.k - 1) / 2 < ((List.range w.k).filter fun q => !rankLt t (x o e) (x o q)).length ∧ ∀ q, q < e → same o e q = false) ∧
        (opc = 6 → ((List.range w.k).filter fun q => rankLt t (x o e) (x o q) || (same o e q && decide (q < e))).length = j)) ∧
      (opc = 3 →
        let v := x o 0
        let lo := (c.regs.rs (b.toNat + 1)).toNat
        let hi := (c.regs.rs (b.toNat + 2)).toNat
        (res o, code o) = if t.isFloat && (floatVal t v).isNan then (canonNan t, 3) else if rankLt t v lo then (lo, 1) else if rankLt t hi v then (hi, 2) else (v, 0)) ∧
      (opc = 5 →
        let z := ((List.range w.k).map fun e => ival t (x o e)).sum
        let m : Int := 2 ^ (n - 1)
        (res o, code o) = if m ≤ z then (2 ^ (n - 1) - 1, 1) else if z < -m then (2 ^ (n - 1), 2) else (wrap n z, 0))

/-- R222, R223: a witness form waits for the one in flight; otherwise the first check it fails cancels its group with that cause and address; where it passes, HS
goes to draining, HR and HW to filling, and it is in flight, to return them full, set WB on HW and write SUM to its register, Dw cycles later (R233).
R223, R232: when a long operation of the vector unit completes, its rows are written with their marks, each handle it named takes the state it gives back, WB is
set where it sets it, a handle it frees is free, its register takes SUM, PIDX[63:56] is 0 (R236), and nothing is in flight; the rows it does not write
stand. The buffer table then goes on with what waited for its handles (R234, R239). -/
def Obligations.WitnessIssueAndEnd : Prop :=
  (∀ (i : Instr) (s : State) (opc : Nat) (t : Fmt) (d a b : Reg), witForm i = some (opc, t, d, a, b) → i.wf = true → s.issuesSolo i = true →
     let c := s.core s.cur
     let w := operandWords (sReg s a).toNat (sReg s b).toNat
     let size := witSizes opc t.bits w
     (c.wit.isSome → exec i s = .next (s.stallCycle s.cur none false)) ∧
     (c.wit = none → match witFails c opc t b w with
       | some (k, f) => exec i s = .next (s.takeTrap s.cur k 3 false 0 (BitVec.ofNat 64 f) c.pc)
       | none => ∃ op : WitOp, exec i s = .next (withWit i s [(w.h0, 3), (w.h1, 1), (w.h2, 1)] op) ∧
           op.back = [(w.h0, 2), (w.h1, 2), (w.h2, 2)] ∧ op.setWb = some w.h2 ∧ op.free = none ∧ op.sd = d.toNat ∧ op.i = i ∧
           op.due = c.tick + 16 + (size.1 + 63) / 64 + (size.2.1 + 63) / 64 + (size.2.2 + 63) / 64 +
             (if opc = 4 ∨ opc = 6 then w.nout * ((w.k + 15) / 16) else 0))) ∧
  (∀ (s : State) (n : Nat) (w : WitOp), (s.core n).wit = some w → (s.core n).opDue w.due = true → (w.writes.map RowWrite.row).Nodup →
     (w.back.map Prod.fst).Nodup →
     let i : Instr := match w.i with | .vAdjb .. => .adjbComplete n | _ => .witnessComplete n
     ∃ c : Core, exec i s = .next (s.setCore n c.settle) ∧ c.wit = none ∧ (∀ k, c.regs.rs k = ((s.core n).regs.writeS w.sd w.sum false).rs k) ∧
       (w.free = none → c.regs = (s.core n).regs.writeS w.sd w.sum false) ∧
       c.spr = { (s.core n).spr with pidx := (s.core n).spr.pidx &&& 0xFFFFFFFFFFFFFF#64 } ∧
       (∀ x ∈ w.writes, c.row x.row = x.val ∧ c.rowPoison x.row = x.poison) ∧
       (∀ r, r ∉ w.writes.map RowWrite.row → c.row r = (s.core n).row r ∧ c.rowPoison r = (s.core n).rowPoison r) ∧
       (∀ h, w.free = some h → (c.handle h).st = 0 ∧ (c.handle h).wb = false ∧ (c.handle h).land = false) ∧
       (∀ h st, (h, st) ∈ w.back → w.free ≠ some h → (c.handle h).st = st) ∧
       (∀ h, w.setWb = some h → w.free ≠ some h → (c.handle h).wb = true) ∧
       ∀ h, h ∉ w.back.map Prod.fst → w.free ≠ some h → (c.handle h).st = ((s.core n).handle h).st)

namespace Sys2Proof.Claims

/-- The witness tile v.adjb reads at issue (R217, R230). -/
structure Tile where
  opc : Nat
  sfmt : Fmt
  width : Nat
  ksel : Nat
  k : Nat
  nout : Nat
  hs : Nat
  sgen : Nat
  rank : Bool
  per : Nat

def tileOf (c : Core) (h : Nat) : Tile :=
  let f := fun b n => c.spNat ((c.handle h).row0 * 64 + b) n
  let rank := f 0 1 == 7 || f 0 1 == 8
  ⟨f 0 1, Fmt.ofCode (BitVec.ofNat 4 (f 1 1)), if f 2 1 = 16 then 16 else 8, f 3 1, f 4 2, f 8 4, f 12 1 % 64, f 14 2, rank, if rank then 1 else f 4 2⟩

/-- contrib(o, i) of R232 for the gradient `g`, the entries and codes of the tile, and the task's own rank. -/
def contribution (c : Core) (m : AdjMode) (t : Fmt) (x : Tile) (hw own : Nat) (g : Nat → Nat) (o i : Nat) : Option Nat :=
  let base := (c.handle hw).row0 * 64 + 64
  let entry := fun e => c.spNat (base + e * x.width / 8) (x.width / 8)
  let idx := fun e => entry e % 2 ^ (x.width - 1)
  let src := fun j => c.spNat ((c.handle x.hs).row0 * 64 + (o * x.k + j) * x.sfmt.bits / 8) (x.sfmt.bits / 8)
  let same := fun p q => !rankLt x.sfmt (src p) (src q) && !rankLt x.sfmt (src q) (src p)
  match m with
  | .first =>
    if x.opc = 6 then (List.range x.ksel).foldl (fun y j => if idx (o * x.ksel + j) = i then some (g (o * x.ksel + j)) else y) none
    else if x.rank then (if idx o = own then some (g o) else none) else if idx o = i then some (g o) else none
  | .split =>
    if entry o < 2 ^ (x.width - 1) then (if idx o = i then some (g o) else none)
    else if same i (idx o) then some (roundFloat t .rne (Val.divNat (floatVal t (g o)) ((List.range x.k).filter fun j => same j (idx o)).length)) else none
  | .pass => if c.spNat (base + o / 4) 1 / 4 ^ (o % 4) % 4 = 0 then some (g o) else none

end Sys2Proof.Claims

/-- R222, R230 to R232: v.adjb waits for the operation in flight; otherwise, where its operands pass the checks, HG, HW and, for .split, HS go to draining and HD to
filling, and it is in flight, to write each element of HD: its contribution, the sum with what stood there under .acc, +0 or what stood there where there is none. -/
def Obligations.AdjointBroadcast : Prop :=
  ∀ (s : State) (t : Fmt) (m : AdjMode) (acc last : Bool) (a b : Reg),
    let i : Instr := .vAdjb t m acc last a b
    let c := s.core s.cur
    let w := operandWords (sReg s a).toNat (sReg s b).toNat
    let x := tileOf c w.h2
    let n := t.bits
    let buf := fun h => ((c.handle h).row0 * 64, (c.handle h).rows * 64)
    let fits := fun h bytes => bytes ≤ (c.handle h).rows * 64
    let up := if x.opc = 6 then x.ksel else 1
    let coded := x.opc = 3 ∨ x.opc = 5
    let g := fun j => c.spNat ((c.handle w.h0).row0 * 64 + j * n / 8) (n / 8)
    let old := fun e => c.spNat ((c.handle w.h1).row0 * 64 + e * n / 8) (n / 8)
    let trap := fun k f => exec i s = .next (s.takeTrap s.cur k 3 false 0 (BitVec.ofNat 64 f) c.pc)
    i.wf = true → s.issuesSolo i = true →
    (c.wit.isSome → exec i s = .next (s.stallCycle s.cur none false)) ∧
    (c.wit = none →
      (w.reserved ∨ w.ww → trap cWITNESS 1) ∧
      (w.reserved = false → w.ww = false →
        (∀ h, handlesBad c w = some h → trap cHANDLE h) ∧
        (handlesBad c w = none → c.spFail [buf w.h0, buf w.h1, buf w.h2] = none → (c.handle w.h0).st = 2 → (c.handle w.h1).st = (if acc then 2 else 0) →
          fits w.h0 (x.nout * up * n / 8) → fits w.h1 (x.nout * x.per * n / 8) →
          fits w.h2 (64 + if coded then (x.nout + 3) / 4 else x.nout * up * x.width / 8) →
          (m = .split → fits x.hs (x.nout * x.k * x.sfmt.bits / 8)) →
          let shape := w.nout = x.nout ∧ w.opc = x.opc ∧ w.ksm1 + 1 = x.ksel ∧ (x.rank = false → w.k = x.k)
          let allowed := match m with
            | .first => x.opc = 1 ∨ x.opc = 2 ∨ x.opc = 4 ∨ x.opc = 6 ∨ x.opc = 7 ∨ x.opc = 8
            | .split => x.opc = 1 ∨ x.opc = 2 ∨ x.opc = 4
            | .pass => coded
          let live := (c.handle w.h2).st = 2 ∧ (c.handle w.h2).wb = true
          let ranked := m = .split ∧ x.rank = true
          let source := m = .split → x.rank = false ∧ (c.handle x.hs).st = 2 ∧ (c.handle x.hs).gen.toNat = x.sgen
          (¬live → trap cWITNESS 6) ∧
          (live → ¬shape → trap cWITNESS 8) ∧
          (live → shape → ¬allowed → ¬ranked → trap cWITNESS 7) ∧
          (live → shape → allowed ∨ ranked → ¬source → trap cWITNESS 9) ∧
          (live → shape → allowed → source → ∃ op : WitOp,
            exec i s = .next (withWit i s ([(w.h0, 3), (w.h2, 3)] ++ (if m = .split then [(x.hs, 3)] else []) ++ [(w.h1, 1)]) op) ∧
            op.back = [(w.h0, 2), (w.h2, 2)] ++ (if m = .split then [(x.hs, 2)] else []) ++ [(w.h1, 2)] ∧ op.i = i ∧ op.setWb = none ∧
            op.free = (if last then some w.h2 else none) ∧
            ∀ e, e < x.nout * x.per → writtenNat op.writes (c.handle w.h1).row0 (e * n / 8) (n / 8) =
              match contribution c m t x w.h2 (w.k - 1) g (e / x.per) (e % x.per) with
              | none => if acc then old e else 0
              | some v => if acc then roundFloat t .rne ((floatVal t (old e)).add (floatVal t v))
                else if (floatVal t v).isNan then canonNan t else v))))

/-! ## The E slot: handles, engine commands, engines -/

namespace Sys2Proof.Claims

/-- Items of a ring, and those available to its consumer (R242). -/
def ringItems (x : Handle) : Nat := x.rows / 2 ^ x.isz
def ringFilled (x : Handle) : Nat := (x.prod + 2 * ringItems x - x.cons) % (2 * ringItems x)

/-- The trap of an E slot (R253). -/
def eTrap (s : State) (k : Nat) (a : Nat) : State := s.takeTrap s.cur k 6 false 0 (BitVec.ofNat 64 a) (s.core s.cur).pc

/-- A descriptor with HND and BND set to h and b, its other bits kept (R192, R243). -/
def rebound (q : Desc) (h : Nat) (b : Bool) : Desc :=
  let w := q.toNat % 2 ^ 240 + q.toNat / 2 ^ 247 * 2 ^ 247
  BitVec.ofNat 256 (w + (if b then h * 2 ^ 240 + 2 ^ 246 else 0))

/-- A landing descriptor breaks R260. -/
def landingBad (c : Core) (o : Nat) : Bool :=
  let f := tabField c o
  let nr := f 2 2
  let cpr := f 4 2
  let chb := f 6 2
  let scales := f 1 1 / 2 % 2 == 1
  decide (f 20 44 ≠ 0 ∨ 14 < f 0 1 ∨ 8 ≤ f 1 1 ∨ nr = 0 ∨ 4096 < nr ∨ cpr = 0 ∨ 64 < cpr ∨ chb = 0 ∨ chb % 64 ≠ 0 ∨ 16384 < chb ∨ f 8 4 % 64 ≠ 0 ∨
    f 12 4 % 64 ≠ 0 ∨ (if scales then f 16 2 = 0 ∨ 64 < f 16 2 else f 16 2 ≠ 0) ∨ f 18 2 = 0 ∨ nr < f 18 2 ∨
    4096 < nr * cpr + (if scales then nr else 0) ∨ 256 < (nr + f 18 2 - 1) / f 18 2)

/-- The bytes a landing needs of its buffer (R260). -/
def landingBytes (c : Core) (o : Nat) : Nat :=
  let f := tabField c o
  max (f 8 4 + f 2 2 * f 4 2 * f 6 2) (if f 1 1 / 2 % 2 = 1 then f 12 4 + f 2 2 * 64 else 0)

/-- The core once a command with its operands has joined its outstanding ones at a time (R245, R284). -/
def cmdIssued (i : Instr) (qs qd : Desc) (a b d : Word) (time : Nat) (c : Core) : Core :=
  (c.addCmd i qs qd a b d).modCmd c.seq fun m => { m with at_ := time }

/-- Whether a command of the buffer table goes through at issue, or the cause and address that cancel its group, against the table as it will stand when
every earlier command has completed (R239, R240, R241, R243, R260); none for other instructions. -/
def tableIssue (s : State) : Instr → Option (Option (Nat × Nat) × Word)
  | .eHset h ring _ isz row rows =>
    let c := s.core s.cur
    some (if rows = 0 ∨ c.banks * 64 < row.toNat + rows.toNat then some (cBANK, row.toNat * 64)
      else if (ring ∧ rows.toNat % 2 ^ isz.toNat ≠ 0) ∨ (c.projected.handle h.toNat).land then some (cHANDLE, h.toNat) else none, 0)
  | .eHfree _ => some (none, 0)
  | .eCbp h act =>
    let x := (s.core s.cur).projected.handle h.toNat
    let bad := match act with
      | .adv n => decide (ringItems x - ringFilled x < n.toNat)
      | .bind q => x.pq.isSome || ((s.core s.cur).projected.regs.rq q.toNat).getLsbD 246
      | .unb => false
    some (if !x.ring ∨ x.st = 0 ∨ bad = true then some (cHANDLE, h.toNat) else none, 0)
  | .eCbc h act =>
    let x := (s.core s.cur).projected.handle h.toNat
    let bad := match act with
      | .adv n => decide (ringFilled x < n.toNat)
      | .bind q => x.cq.isSome || ((s.core s.cur).projected.regs.rq q.toNat).getLsbD 246
      | .unb => false
    some (if !x.ring ∨ x.st = 0 ∨ bad = true then some (cHANDLE, h.toNat) else none, 0)
  | .eLand h es tag =>
    let c := s.core s.cur
    let a := (sReg s es).toNat
    let p := c.projected
    let x := p.handle h.toNat
    some (if 65536 ≤ a then some (cBANK, a) else if a % 64 ≠ 0 ∨ landingBad c a then some (cSTREAM, a)
      else if x.ring ∨ x.st ≠ 0 ∨ x.rows * 64 < landingBytes c a ∨ p.lands.any (fun l => l.tag == tag.toNat) ∨ 8 ≤ p.lands.length then some (cHANDLE, h.toNat)
      else none, sReg s es)
  | _ => none

end Sys2Proof.Claims

/-- R239 to R243, R260: e.hset, e.hfree, e.cbp, e.cbc and e.land join the outstanding commands of their core, or trap with the cause and address their rules
give; e.hfree never faults. Where nothing earlier is outstanding they take effect at once: the handle they name takes its new values, every other stands. -/
def Obligations.EHandles : Prop :=
  (∀ (i : Instr) (s : State) (a : Word) (t : Option (Nat × Nat)), tableIssue s i = some (t, a) → i.wf = true → s.issuesSolo i = true →
    exec i s = .next (match t with
      | some (k, f) => eTrap s k f
      | none => coreNext i s (cmdIssued i 0 0 a 0 0 s.clock))) ∧
  ∀ (c : Core) (h : BitVec 6), c.cmds = [] → c.wit = none →
    let x := c.handle h.toNat
    let after := fun i => c.addCmd i 0 0 0 0 0
    let others := fun (d : Core) => d.cmds = [] ∧ ∀ k, k ≠ h.toNat → d.handle k = c.handle k
    (∀ ring full isz row rows, let d := after (.eHset h ring full isz row rows);
      others d ∧ d.handle h.toNat = { row0 := row.toNat, rows := rows.toNat, ring := ring, st := if full || ring then 2 else 0
                                      gen := x.gen + 1, isz := if ring then isz.toNat else 0 } ∧
      ∀ q, (x.pq = some q ∨ x.cq = some q) → d.regs.rq q = rebound (c.regs.rq q) 0 false) ∧
    (let d := after (.eHfree h);
      others d ∧ d.handle h.toNat = { x with st := 0, wb := false, land := false, gen := x.gen + 1, pq := none, cq := none } ∧
      (∀ l, l ∈ d.lands ↔ l ∈ c.lands ∧ l.h ≠ h.toNat) ∧
      ∀ q, (x.pq = some q ∨ x.cq = some q) → d.regs.rq q = rebound (c.regs.rq q) 0 false) ∧
    (∀ n, let d := after (.eCbp h (.adv n));
      others d ∧ d.handle h.toNat = { x with prod := (x.prod + n.toNat) % (2 * ringItems x) } ∧ d.regs = c.regs) ∧
    (∀ n, let d := after (.eCbc h (.adv n));
      others d ∧ d.handle h.toNat = { x with cons := (x.cons + n.toNat) % (2 * ringItems x) } ∧ d.regs = c.regs) ∧
    (∀ q, let d := after (.eCbp h (.bind q));
      others d ∧ d.handle h.toNat = { x with pq := some q.toNat } ∧ d.regs.rq q.toNat = rebound (c.regs.rq q.toNat) h.toNat true) ∧
    (∀ q, let d := after (.eCbc h (.bind q));
      others d ∧ d.handle h.toNat = { x with cq := some q.toNat } ∧ d.regs.rq q.toNat = rebound (c.regs.rq q.toNat) h.toNat true) ∧
    ∀ es tag (a : Word), let d := c.addCmd (.eLand h es tag) 0 0 a 0 0;
      others d ∧ d.handle h.toNat = { x with land := true, st := 1 } ∧ ∃ l : Landing, d.lands = c.lands ++ [l] ∧ l.tag = tag.toNat ∧ l.h = h.toNat ∧
        l.nr = tabField c a.toNat 2 2 ∧ l.cpr = tabField c a.toNat 4 2 ∧ l.chb = tabField c a.toNat 6 2 ∧ l.doff = tabField c a.toNat 8 4 ∧
        l.present = [] ∧ l.arrived = []

namespace Sys2Proof.Claims

/-- A handle stands, or will when every earlier command has completed, free or full, and is no ring (R239). -/
def willBe (s : State) (h : BitVec 6) (st : Nat) : Prop :=
  ((s.core s.cur).projected.handle h.toNat).st = st ∧ ((s.core s.cur).projected.handle h.toNat).ring = false

/-- Bytes from an offset lie in the buffer of a handle and in banks of the task (R248, R253). -/
def inBuffer (s : State) (h : BitVec 6) (o n : Nat) : Prop :=
  let x := (s.core s.cur).projected.handle h.toNat
  (n = 0 ∨ x.row0 * 64 ≤ o ∧ o + n ≤ (x.row0 + x.rows) * 64) ∧ (s.core s.cur).spFail [(o, n)] = none

/-- A descriptor of raw bytes of the scratchpad: no reserved bit, SPACE or binding, and not the format that e.cpy alone accepts (R251, R400). -/
def rawBytes (d : SDesc) : Prop := d.reserved = false ∧ d.space = false ∧ d.bound = false ∧ d.fmt ≠ .wfx128

/-- A tile address with its reserved bits zero that names a core there is, and `rows` rows in its partition where they must lie there (R388, R400). -/
def tileGood (s : State) (a : Word) (land rsp : Bool) (rows : Nat) : Prop :=
  let v := a.toNat
  let fab := v / 2 ^ 56 % 2
  let off := v % 2 ^ 19
  let x := v / 2 ^ 32 % 16
  let y := v / 2 ^ 36 % 16
  let p := v / 2 ^ 40 % 2 ^ 13
  v = off + 2 ^ 32 * (v / 2 ^ 32 % 2 ^ 21) + 2 ^ 56 * fab ∧ (land = true → off < 2 ^ 14) ∧
    (if fab = 1 then p < s.npkg else p = 0 ∧ ∃ l, s.launch (s.core s.cur).lid = some l ∧ x < l.w ∧ y < l.h ∧ (rsp = true → off / 64 + rows ≤ 64 * l.p))

/-- What an engine command needs to join the outstanding commands of its core (R253, R272, R400 to R406), with the stream registers and the values it captures:
a copy, a gather or a scatter passes the checks of R253 in their order, which `cpyTrap` and `gathTrap` make. -/
def eReady (s : State) (i : Instr) (qs qd : Desc) (a b d : Word) : Prop :=
  let c := s.core s.cur
  let q := fun (k : BitVec 4) => c.regs.rq k.toNat
  let v := sReg s
  let word := (soloCtx i s).word
  let alone := s.paired s.cur = false
  match i with
  | .eCpy h x y len dar _ ec => qs = q x ∧ qd = q y ∧ a = v (ec.extractLsb' 0 5) ∧ b = 0 ∧ d = 0 ∧
      ∃ k, readCpy h qs qd len dar ec a = some k ∧ s.cpyTrap s.cur word x.toNat y.toNat k = none
  | .eCpyWadd h x y len _ rnd bexp => qs = q x ∧ qd = q y ∧ a = 0 ∧ b = 0 ∧ d = 0 ∧
      ∃ k, readWadd h qs qd len rnd bexp = some k ∧ s.cpyTrap s.cur word x.toNat y.toNat k = none
  | .eGath h x y len _ es xsh glb f => qs = q x ∧ qd = q y ∧ a = v es ∧ b = 0 ∧ d = 0 ∧
      s.gathTrap s.cur (Cmd.uses { id := 0, i := i, qs := qs, qd := qd, a := a, b := 0, c := 0, handler := c.handler, taken := [], st := .queued, poison := false })
        ⟨h.toNat, parseDesc qs, parseDesc qd, x.toNat, y.toNat, len.toNat, .none, a.toNat, xsh.toNat, glb, f, false⟩ = none
  | .eScat h x y len dar _ es xsh glb f => qs = q x ∧ qd = q y ∧ a = v es ∧ b = 0 ∧ d = 0 ∧
      s.gathTrap s.cur (Cmd.uses { id := 0, i := i, qs := qs, qd := qd, a := a, b := 0, c := 0, handler := c.handler, taken := [], st := .queued, poison := false })
        ⟨h.toNat, parseDesc qd, parseDesc qs, y.toNat, x.toNat, len.toNat, dar, a.toNat, xsh.toNat, glb, f, true⟩ = none
  | .ePut h x len dar _ es dest _ _ => qs = q x ∧ qd = 0 ∧ a = v es ∧ b = c.regs.rs (es.toNat + 1) ∧ d = c.regs.rs (es.toNat + 2) ∧ alone ∧
      rawBytes (parseDesc qs) ∧ willBe s h 2 ∧ inBuffer s h ((parseDesc qs).base / (if dest = .chan then 32 else 64) * (if dest = .chan then 32 else 64)) ((if dest = .chan then 56 else 64) * len.toNat) ∧
      (dest = .gva → a.toNat % 64 = 0) ∧ (dest ≠ .gva → tileGood s a false (dest == .rsp) len.toNat) ∧
      (dest = .chan → b.toNat / 2 ^ 48 = 0 ∧ 1 ≤ b.toNat / 2 ^ 32 ∧ b.toNat / 2 ^ 32 ≤ 4096 ∧ d.toNat < 2 ^ 32) ∧
      (dar ≠ .none → (parseDesc qs).fmt.isIF = true ∧ (parseDesc qs).form = false)
  | .ePutLand h x len _ es _ => qs = q x ∧ qd = 0 ∧ a = v es ∧ b = 0 ∧ d = 0 ∧ alone ∧ rawBytes (parseDesc qs) ∧ willBe s h 2 ∧
      inBuffer s h ((parseDesc qs).base / 64 * 64) (64 * len.toNat) ∧ tileGood s a true false 0
  | .eGet h x len _ es rsp => qs = 0 ∧ qd = q x ∧ a = v es ∧ b = 0 ∧ d = 0 ∧ alone ∧ rawBytes (parseDesc qd) ∧ willBe s h 0 ∧
      inBuffer s h ((parseDesc qd).base / 64 * 64) (64 * len.toNat) ∧ (if rsp then tileGood s a false true len.toNat else a.toNat % 64 = 0)
  | .eRatom h _ es op w4 _ => qs = 0 ∧ qd = 0 ∧ a = v es ∧ b = c.regs.rs (es.toNat + 1) ∧ d = (if op = .cas then c.regs.rs (es.toNat + 2) else 0) ∧ alone ∧
      a.toNat % (if w4 then 4 else 8) = 0 ∧ willBe s h 0 ∧ inBuffer s h ((c.projected.handle h.toNat).row0 * 64) 64
  | .eColl h len dar _ es _ => qs = 0 ∧ qd = 0 ∧ a = v es ∧ b = c.regs.rs (es.toNat + 1) ∧ d = 0 ∧ alone ∧
      let f := Fmt.ofCode (a.extractLsb' 16 4)
      let g := Fmt.ofCode (a.extractLsb' 20 4)
      let wit := a.getLsbD 27
      let w := a.extractLsb' 28 6
      f.isIF = true ∧ g.isIF = true ∧ f.bits = g.bits ∧ a.toNat / 2 ^ 24 % 8 ≤ 4 ∧ a.toNat < 2 ^ 40 ∧ b.toNat < 2 ^ 32 ∧
      (b.toNat % 2 ^ 16 < 1024 ∨ 2 ^ 16 - 1280 ≤ b.toNat % 2 ^ 16) ∧
      (wit = true → dar ≠ .wadd ∧ w ≠ h ∧ willBe s w 0 ∧ inBuffer s w ((c.projected.handle w.toNat).row0 * 64) (64 + 2 * len.toNat)) ∧ willBe s h 2 ∧
      inBuffer s h ((c.projected.handle h.toNat).row0 * 64) (len.toNat * f.bits / 8)
  | .eMcast h x len _ es _ => qs = q x ∧ qd = 0 ∧ a = v es ∧ b = 0 ∧ d = 0 ∧ alone ∧ a.toNat / 2 ^ 14 % 4 = 0 ∧ a.toNat < 2 ^ 28 ∧ rawBytes (parseDesc qs) ∧
      willBe s h 2 ∧ inBuffer s h ((parseDesc qs).base / 64 * 64) (64 * len.toNat)
  | .eSig _ es => qs = 0 ∧ qd = 0 ∧ a = v es ∧ b = c.regs.rs (es.toNat + 1) ∧ d = 0 ∧ alone ∧ a.toNat < 2 ^ 26
  | .eCtxSave h es k _ | .eCtxRest h es k _ => qs = 0 ∧ qd = 0 ∧ a = v es ∧ b = 0 ∧ d = 0 ∧ clusterCore (clusterOf s.cur) k.toNat ≠ s.cur ∧
      a.toNat % 4096 = 0 ∧ willBe s h 0
  | _ => False

end Sys2Proof.Claims

/-- R245, R247, R251 to R253, R272, R400 to R406: an engine command whose operands pass the checks of its rules joins the outstanding commands of its core with
what it captures at issue, and its group goes on; in a paired launch the commands to the fabric raise PRIV (R288).
R239, R244, R246, R249, R254, R284: an engine takes a command of its class when its turn has come, and its round robin moves past the core; a copy within the scratchpad then runs, and when it completes each
element stands at its destination, NaNs canonical, the rows it does not touch stand, and the command is no longer outstanding. -/
def Obligations.EngineCommands : Prop :=
  (∀ (i : Instr) (s : State), i.wf = true →
     (s.issuesSolo i = true → ∀ qs qd a b d, eReady s i qs qd a b d → exec i s = .next (coreNext i s (cmdIssued i qs qd a b d s.clock))) ∧
     (noAsync s → s.paired s.cur = true → (match i with
       | .ePut .. | .ePutLand .. | .eGet .. | .eRatom .. | .eColl .. | .eMcast .. | .eSig .. => True | _ => False) →
       exec i s = .next (eTrap s cPRIV (soloCtx i s).word))) ∧
  (∀ (n id : Nat) (s : State) (m : Cmd) (y : Cpy), (s.core n).cmd id = some m → m.cpy = some y → y.ss = .sp → y.ds = .sp →
     let c := s.core n
     let lines := fun l => (linesOf l).length
     (s.startsOn n m = none → exec (.engineCommandStart n id) s = .next s) ∧
     (∀ e, s.startsOn n m = some e → exec (.engineCommandStart n id) s = .next ((s.served n e).modCore n fun c => (c.modCmd m.id fun k =>
       { k with
         st := .running (c.tick + 7 + (max (lines ((c.seen m).cpySource y)) (lines ((c.seen m).cpyDest y)) +
           if y.dar = .none then 0 else lines ((c.seen m).cpyDest y)))
         eng := e }).onView m fun v => v.ringStates m)) ∧
     (c.relWaits m = true → exec (.engineCommandComplete n id) s = .next s) ∧
     ∀ due, m.st = .running due → c.opDue due = true → c.relWaits m = false → c.run ≠ .waiting → m.old = false → y.dar = .none → y.s.bound = false → y.d.bound = false →
       y.s.form = false → y.d.form = false → y.s.fmt = y.d.fmt → y.s.fmt.isIF = true → y.cols * y.s.fmt.bits / 8 ≤ y.d.rstr →
       let b := y.s.fmt.bits / 8
       let src := fun r j => y.s.base / 32 * 32 + r * y.s.rstr + j * b
       let dst := fun r j => y.d.base / 32 * 32 + r * y.d.rstr + j * b
       ∃ d : Core, exec (.engineCommandComplete n id) s = .next (s.setCore n d) ∧ d.cmd id = none ∧ d.regs.s = c.regs.s ∧ d.regs.v = c.regs.v ∧ d.spr = c.spr ∧
         (∀ r j, r < y.rows → j < y.cols → d.spNat (dst r j) b =
           let x := c.spNat (src r j) b
           if y.s.fmt.isFloat && (floatVal y.s.fmt x).isNan then canonNan y.s.fmt else x) ∧
         ∀ k, (∀ r, r < y.rows → k < dst r 0 / 64 ∨ (dst r 0 + y.cols * b - 1) / 64 < k) → d.row k = c.row k ∧ d.rowPoison k = c.rowPoison k)

/-- R151, R250, R261, R385, R390, R401: a packet of a landing whose chunk is not there yet puts its rows into the landing's buffer, each at its place, and no other row of
the core changes; a row of an e.put that reaches its core in the task's world and banks is written there; a packet short of its destination stays. -/
def Obligations.RowsArrive : Prop :=
  ∀ (s : State) (n : Nat) (p : TensorPkt) (t : TPkt) (l : Landing),
    let c := s.core n
    (s.fab.tens.find? (fun t => t.dest == .landing n && t.p == p) = some t → s.lineOf c.lid = false → c.run ≠ .idle → c.spr.world.toNat = p.world →
      c.lands.find? (fun l => l.tag == p.tag) = some l →
      let row := (c.handle l.h).row0 + if p.chunk < l.nr * l.cpr then (l.doff + p.chunk * l.chb) / 64 else l.soff / 64 + (p.chunk - l.nr * l.cpr)
      let size := if p.chunk < l.nr * l.cpr then l.chb / 64 else 1
      p.chunk < l.nr * l.cpr + (if l.scales then l.nr else 0) → p.ccnt + 1 = size → p.rows.length = p.nrow + 1 → p.lrow + p.nrow + 1 ≤ size →
      SMap.get false l.present p.chunk = false →
      ∃ u : State, exec (.landingChunkArrival n p) s = .next u ∧ u.fab.tens = s.fab.tens.erase t ∧
        (∀ i, i ≤ p.nrow → (u.core n).row (row + p.lrow + i) = p.rows.getD i 0) ∧
        (∀ k, k < row + p.lrow ∨ row + p.lrow + p.nrow < k → (u.core n).row k = c.row k) ∧
        ∀ k, k ≠ n → (u.core k).sp = (s.core k).sp) ∧
    ∀ (k m id i : Nat) (pk : Pkt) (x : Cmd) (y : PutRows), s.pkt k = some pk → pk.body = .engine m id i →
      (pk.at_ ≠ pk.dst → exec (.remoteAccessArrival k) s = .next s) ∧
      (pk.at_ = pk.dst → (s.core m).cmd id = some x → x.putRows = some y → y.dar = .none → (s.core pk.core).spr.world.toNat = s.worldOf x.lid →
        (s.core pk.core).owns (putOff x y i) = true →
        ∃ u : State, exec (.remoteAccessArrival k) s = .next u ∧ (u.core pk.core).row (putOff x y i / 64) = ((s.core m).putRow_ x y i).1 ∧
          ∀ r, r ≠ putOff x y i / 64 → (u.core pk.core).row r = (s.core pk.core).row r)

/-! ## The words of a communication core -/

namespace Sys2Proof.Claims

/-- A register of a program slot; k0 reads as zero (R410). -/
def kReg (x : MSlot) (r : KReg) : Word := if r = 0 then 0 else SMap.get 0 x.k r.toNat

/-- The registers a register word reads, the one it writes, and the value it gives (R411, R418, R438). -/
def kValue (s : State) (x : MSlot) : Instr → Option (List KReg × KReg × Word)
  | .kAdd d a b => some ([a, b], d, kReg x a + kReg x b)
  | .kSub d a b => some ([a, b], d, kReg x a - kReg x b)
  | .kAnd d a b => some ([a, b], d, kReg x a &&& kReg x b)
  | .kOr d a b => some ([a, b], d, kReg x a ||| kReg x b)
  | .kXor d a b => some ([a, b], d, kReg x a ^^^ kReg x b)
  | .kShl d a b => some ([a, b], d, BitVec.ofNat 64 ((kReg x a).toNat * 2 ^ min (kReg x b).toNat 64))
  | .kShr d a b => some ([a, b], d, BitVec.ofNat 64 ((kReg x a).toNat / 2 ^ min (kReg x b).toNat 64))
  | .kAddi d a imm => some ([a], d, kReg x a + imm.signExtend 64)
  | .kAndi d a imm => some ([a], d, kReg x a &&& imm.setWidth 64)
  | .kOri d a imm => some ([a], d, kReg x a ||| imm.setWidth 64)
  | .kShli d a imm => some ([a], d, BitVec.ofNat 64 ((kReg x a).toNat * 2 ^ imm.toNat))
  | .kShri d a imm => some ([a], d, BitVec.ofNat 64 ((kReg x a).toNat / 2 ^ imm.toNat))
  | .kLi d imm => some ([], d, imm.signExtend 64)
  | .kLih d imm => some ([d], d, BitVec.ofNat 64 ((kReg x d).toNat * 2 ^ 16 + imm.toNat))
  | .kMfs d n => match n.toNat with
    | 8 => some ([], d, BitVec.ofNat 64 x.lid)
    | 9 => some ([], d, BitVec.ofNat 64 s.curM)
    | 10 => some ([], d, BitVec.ofNat 64 s.pkg)
    | 11 => some ([], d, x.cyc)
    | 12 => some ([], d, BitVec.ofNat 64 (1024 * (s.curSlot - 1)))
    | 13 => some ([], d, BitVec.ofNat 64 x.rank)
    | 14 => some ([], d, BitVec.ofNat 64 x.nr)
    | 15 => some ([], d, BitVec.ofNat 64 x.steps.length)
    | 16 => some ([], d, BitVec.ofNat 64 x.queue.length)
    | k => if k < 8 then some ([], d, SMap.get 0 x.mb k) else none
  | .kPeer d a imm => if x.nr = 0 then none else some ([a], d, BitVec.ofInt 64 ((x.rank + (kReg x a).toInt + imm.toInt) % x.nr))
  | .kRpkg d a => if x.nr = 0 then none
      else some ([a], d, BitVec.ofNat 64 (x.lmNat (x.rtab + 2 * ((kReg x a).toNat % x.nr)) 2 % 8192))
  | _ => none

/-- The state after a word that falls through, where its program still runs. -/
def kAfter (s : State) : State := s.modCur fun x => if x.runs then x.advance else x

/-- The state after a taken transfer to t: two cycles, the loop levels that do not hold t discarded (R417, R421). -/
def kJump (s : State) (t : Nat) : State :=
  s.modCur fun x => { x.tick 2 with pc := t, loops := x.loops.filter fun l => decide (l.first ≤ t ∧ t ≤ l.last) }

/-- The state in which the program meets a fault (R414). -/
def kFault (s : State) (k : Nat) : State := s.martenFault s.curM s.curSlot k

end Sys2Proof.Claims

/-- R410, R411, R417, R418, R438: a register word writes its value and falls through; k.nop does nothing; a word stalls while a register it names waits for a
k.ldg; a poisoned register it reads is a fault; a slot whose program does not run, or whose launch has ended, issues nothing; k.mfs of a register there is not, and k.peer and k.rpkg with NR = 0, raise ILLEGAL.
R419: k.ld and k.st move a word of LM, which a later k.ld reads; k.ldg reads a word of the launch's address space, or asks another package for it; an LM
address out of place raises BANK, a misaligned global one MISALIGN, a translation its cause, the management window WORLD (R365). -/
def Obligations.KRegistersAndMemory : Prop :=
  (∀ (i : Instr) (s : State),
     let x := s.curSlotState
     (s.kIssues [] [] = true → exec .kNop s = .next (kFalls s id)) ∧
     (∀ r d v, kValue s x i = some (r, d, v) →
       (s.kIssues r [d] = true → exec i s = .next (kFalls s fun y =>
         if d = 0 then y else { y with k := SMap.put 0 y.k d.toNat v, kPoison := SMap.put false y.kPoison d.toNat false })) ∧
       (x.runs = false ∨ s.programOver x = true → exec i s = .next s) ∧
       (x.runs = true → s.programOver x = false → (∃ k ∈ r ++ [d], x.waits.contains k.toNat) → exec i s = .next (s.modCur fun y => y.tick 1)) ∧
       (x.runs = true → s.programOver x = false → (∀ k ∈ r ++ [d], x.waits.contains k.toNat = false) → (∃ k ∈ r, k ≠ 0 ∧ SMap.get false x.kPoison k.toNat = true) →
         exec i s = .next (kFault s cPOISON))) ∧
     (∀ d (n : BitVec 5), 17 ≤ n.toNat → s.kIssues [] [d] = true → exec (.kMfs d n) s = .next (kFault s cILLEGAL)) ∧
     (∀ d a imm, x.nr = 0 → s.kIssues [a] [d] = true → exec (.kPeer d a imm) s = .next (kFault s cILLEGAL) ∧ exec (.kRpkg d a) s = .next (kFault s cILLEGAL))) ∧
  (∀ (d a : KReg) (imm : BitVec 18) (s : State),
     let x := s.curSlotState
     let e := (kReg x a + imm.signExtend 64).toNat
     let put := fun (v : Word) (y : MSlot) =>
       if d = 0 then y else { y with k := SMap.put 0 y.k d.toNat v, kPoison := SMap.put false y.kPoison d.toNat false }
     (s.kIssues [a] [d] = true →
       (e % 8 = 0 → e < 16384 → exec (.kLd d a imm) s = .next (kFalls s (put (SMap.get 0 x.lm (e / 8))))) ∧
       (e % 8 ≠ 0 ∨ 16384 ≤ e → exec (.kLd d a imm) s = .next (kFault s cBANK)) ∧
       (e % 8 ≠ 0 → exec (.kLdg d a imm) s = .next (kFault s cMISALIGN)) ∧
       (e % 8 = 0 → (let w := s.walkFor x.lid [e];
         (∀ k, w.translateFor x.lid e false = .error k → exec (.kLdg d a imm) s = .next (kFault s k)) ∧
         ∀ leaf, w.translateFor x.lid e false = .ok leaf →
           (∀ pa z, w.leafLoc leaf e = .mem pa z → (w.homeLoad (pa / 64) x.world).linePoison (pa / 64) = false →
             exec (.kLdg d a imm) s = .next (kAfter ((w.homeLoad (pa / 64) x.world).modCur (put (BitVec.ofNat 64 ((w.homeLoad (pa / 64) x.world).loadNat pa 8)))))) ∧
           (∀ pa, w.leafLoc leaf e = .dev pa →
             (0x10000 ≤ pa - 2 ^ 48 ∧ pa - 2 ^ 48 < 0x30000 → exec (.kLdg d a imm) s = .next (kFault s cWORLD)) ∧
             (¬(0x10000 ≤ pa - 2 ^ 48 ∧ pa - 2 ^ 48 < 0x30000) →
               exec (.kLdg d a imm) s = .next (kAfter (w.modCur (put (BitVec.ofNat 64 (w.devRead (pa - 2 ^ 48) 8))))))) ∧
           ∀ p pa, w.leafLoc leaf e = .fab p pa →
             exec (.kLdg d a imm) s = .next (kAfter ((w.request x.world p x.lid (.ldg s.curM s.curSlot x.lid d.toNat) ⟨0, 0, 0, .read, pa, 8, [], 0, 0⟩).modCur
               fun y => { y with waits := d.toNat :: y.waits }))))) ∧
     (s.kIssues [a, d] [] = true →
       (e % 8 = 0 → e < 16384 → exec (.kSt d a imm) s = .next (kFalls s fun y => { y with lm := SMap.put 0 y.lm (e / 8) (kReg x d) })) ∧
       (e % 8 ≠ 0 ∨ 16384 ≤ e → exec (.kSt d a imm) s = .next (kFault s cBANK))))

/-- R412, R417, R420, R421: every branch, k.jmp, k.call, k.ret, k.loop and k.end completes in a next state: the branches, k.jmp and k.call go on at their target or fall
through, k.ret at a register below 4,096; k.loop pushes a level, or for a count of 0 goes on after its body; k.end ends the program. A k.ret past the program memory and a
k.loop as a third level raise ILLEGAL.
The word after the last of a loop body is its first while the count stays above 0, and a k.loop of count 0 that is itself a level's last makes the level's test before it
skips (log entry 26). -/
def Obligations.KTransfers : Prop :=
  ∀ (d a : KReg) (imm : BitVec 18) (disp : BitVec 22) (s : State),
    let x := s.curSlotState
    let near := (x.pc + 1 + imm.signExtend 64 : BitVec 64).toNat
    let far := (x.pc + 1 + disp.signExtend 64 : BitVec 64).toNat
    let u := kReg x d
    let v := kReg x a
    let n := v.toNat % 2 ^ 32
    let last := x.pc + 1 + imm.toNat
    (s.kIssues [d, a] [] = true →
      exec (.kBeq d a imm) s = .next (if u = v then kJump s near else kFalls s id) ∧
      exec (.kBne d a imm) s = .next (if u ≠ v then kJump s near else kFalls s id) ∧
      exec (.kBlt d a imm) s = .next (if u.toInt < v.toInt then kJump s near else kFalls s id)) ∧
    (s.kIssues [] [] = true → exec (.kJmp disp) s = .next (kJump s far) ∧ exec .kEnd s = .next (s.endProgram s.curM s.curSlot .ended)) ∧
    (s.kIssues [] [d] = true → exec (.kCall d disp) s = .next (kJump (s.modCur fun y =>
      if d = 0 then y else { y with k := SMap.put 0 y.k d.toNat (x.pc + 1), kPoison := SMap.put false y.kPoison d.toNat false }) far)) ∧
    (s.kIssues [a] [] = true →
      exec (.kRet a) s = .next (if v.toNat < 4096 then kJump s v.toNat else kFault s cILLEGAL) ∧
      exec (.kLoop a imm) s = .next (if n = 0 then s.modCur fun y => y.skip (last + 1)
        else if 2 ≤ x.loops.length then kFault s cILLEGAL
        else kAfter (s.modCur fun y => { y with loops := ⟨n, x.pc + 1, last⟩ :: y.loops }))) ∧
    ∀ (y : MSlot) (t : Nat),
      (y.loops = [] → y.advance = { y.tick 1 with pc := y.pc + 1 } ∧ y.skip t = { y.tick 1 with pc := t }) ∧
      ∀ (l : Loop) (ls : List Loop), y.loops = l :: ls →
        (y.pc ≠ l.last → y.advance = { y.tick 1 with pc := y.pc + 1 } ∧ y.skip t = { y.tick 1 with pc := t }) ∧
        (y.pc = l.last → 1 < l.lc → l.first ≠ y.pc + 1 →
          let back : MSlot := { y.tick 2 with pc := l.first, loops := { l with lc := l.lc - 1 } :: ls }
          y.advance = back ∧ y.skip t = back) ∧
        (y.pc = l.last → l.lc ≤ 1 → ls = [] →
          y.advance = { y.tick 1 with pc := y.pc + 1, loops := [] } ∧ y.skip t = { y.tick 1 with pc := t, loops := [] })

namespace Sys2Proof.Claims

/-- The connection a program names, where it may: its world's, or a hop connection (R428). -/
def kConn (s : State) (x : MSlot) (a : KReg) : Option Conn :=
  match s.conn (kReg x a).toNat with
  | some c => if c.hop || c.world == x.world then some c else none
  | none => none

/-- kD written. -/
def kPut (d : KReg) (v : Word) (y : MSlot) : MSlot :=
  if d = 0 then y else { y with k := SMap.put 0 y.k d.toNat v, kPoison := SMap.put false y.kPoison d.toNat false }

/-- A slot descriptor in LM that breaks R431. -/
def armBad (x : MSlot) (o : Nat) : Bool :=
  let f := fun b n => x.lmNat (o + b) n
  let b := f 8 2
  decide (4096 ≤ f 2 2 ∨ 2 < f 5 1 % 4 ∨ 4 < f 5 1 / 4 % 8 ∨ 32 ≤ f 5 1 ∨ 13 < f 6 1 ∨ f 7 1 ≠ 0 ∨ (1023 < b ∧ b < 2 ^ 16 - 1280) ∨ f 10 2 = 0 ∨ f 12 4 ≠ 0 ∨
    1 < f 24 1 ∨ 63 < f 25 1 ∨ (f 24 1 = 1 ∧ f 25 1 ≠ 0) ∨ (if f 24 1 = 1 then 4096 else 8192) ≤ f 26 2 ∨ f 28 4 ≠ 0)

end Sys2Proof.Claims

/-- R422, R424, R426: k.ewait pops the oldest event into two registers and keeps its merge lock, or stalls, or with .nb gives zeros; k.eack ends the lock and posts the entry
kept behind it; k.emask sets EMASK; k.timer starts or stops a timer, which posts TIMER once when it reaches 0.
R427 to R430: k.conn gives the number of the world's connection to a package, opening it, or −1; k.retx sends the named packets again, on their next entropy values, and
counts them; k.cctl reads and sets the window or the RTO; k.path reads and sets the entropy mask, never to nothing; a launch slot sets nothing on a hop connection. -/
def Obligations.KEventsAndConnections : Prop :=
  (∀ (a b d : KReg) (nb : Bool) (s : State),
     let x := s.curSlotState
     let v := kReg x a
     let n := (kReg x b).toNat % 2 ^ 32
     (1 ≤ d.toNat → d.toNat ≤ 14 → s.kIssues [] [d, d + 1] = true →
       (x.queue = [] → exec (.kEwait nb d) s = .next (if nb then kFalls s fun y => kPut (d + 1) 0 (kPut d 0 y) else s.modCur fun y => y.tick 1)) ∧
       (∀ e l, x.queue = e :: l → x.held = [] → exec (.kEwait nb d) s = .next (kFalls s fun y =>
         kPut (d + 1) e.e1 (kPut d (BitVec.ofNat 64 (e.type + 2 ^ 16 * e.conn + 2 ^ 32 * e.psn))
           { y with queue := l, locks := if 1 ≤ e.type ∧ e.type ≤ 5 then y.locks ++ [(e, none)] else y.locks })))) ∧
     (s.kIssues [a] [] = true →
       ((∀ l ∈ x.locks, l.1.e0 ≠ v) → exec (.kEack a) s = .next (kFalls s id)) ∧
       (∀ e l, x.locks = (e, none) :: l → e.e0 = v → exec (.kEack a) s = .next (kFalls s fun y => { y with locks := l })) ∧
       (∀ e r l, x.locks = (e, some r) :: l → e.e0 = v → exec (.kEack a) s = .next (kFalls s fun y => { y with locks := l }.enqueue r)) ∧
       exec (.kEmask a) s = .next (if v.toNat < 256 ∧ v.toNat % 2 = 0 then kFalls s fun y => { y with emask := BitVec.ofNat 8 v.toNat }
         else kFault s cILLEGAL)) ∧
     (s.kIssues [a, b] [] = true → exec (.kTimer a b) s = .next (kFalls s fun y =>
       { y with timers := SMap.put 0 y.timers (v.toNat % 16) (if n = 0 then 0 else n + 2) })) ∧
     ∀ (m k t : Nat), exec (.mcoreTimerExpire m k t) s = .next (if (s.marten m k).runs ∧ s.programOver (s.marten m k) = false ∧ SMap.get 0 (s.marten m k).timers t = 1
       then s.modMarten m k fun y => { y with timers := SMap.put 0 y.timers t 0 }.enqueue ⟨8, 0xFFFF, 0, BitVec.ofNat 64 t, y.lid⟩ else s)) ∧
  (∀ (d a b : KReg) (flag : Bool) (s : State),
     let x := s.curSlotState
     let v := kReg x b
     let num := (kReg x a).toNat
     let p := num % 8192
     (s.kIssues [a] [d] = true → exec (.kConn d a) s = .next (if p = s.pkg ∨ s.npkg ≤ p then kFalls s (kPut d (BitVec.allOnes 64))
       else kAfter ((s.openConn false false x.world p).1.modCur (kPut d (BitVec.ofNat 64 (s.openConn false false x.world p).2))))) ∧
     (b ≠ 15 → s.kIssues [a, b, b + 1] [d] = true →
       (kConn s x a = none → exec (.kRetx d a b) s = .next (kFalls s (kPut d 0))) ∧
       (∀ c, kConn s x a = some c →
         let sel := fun q => let i := (q + 2 ^ 32 - v.toNat % 2 ^ 32) % 2 ^ 32; i < 64 && (kReg x (b + 1)).getLsbD i
         let out := c.out.map fun o => if sel o.psn then { o with ent := nextEnt c.mask o.ent } else o
         let again := out.filter fun o => sel o.psn
         let t := s.setConn num { c with out := out }
         exec (.kRetx d a b) s = .next (kAfter ({ t with fab := { t.fab with wire := t.fab.wire ++ again.map fun (o : Sent) => ({ conn := num, psn := o.psn, ent := o.ent, payload := o.payload } : Wire) } }.modCur
           (kPut d (BitVec.ofNat 64 again.length)))))) ∧
     (s.kIssues [a, b] [d] = true →
       (kConn s x a = none → exec (.kCctl flag d a b) s = .next (kFalls s (kPut d 0)) ∧ exec (.kPath flag d a b) s = .next (kFalls s (kPut d 0))) ∧
       (∀ c, kConn s x a = some c →
         let fixed := c.hop = true ∧ s.curSlot ≠ 0
         let bit : BitVec 16 := BitVec.ofNat 16 (2 ^ (v.toNat % 16))
         let mask := if flag then c.mask ||| bit else c.mask &&& ~~~bit
         let keep := if mask = 0 ∨ fixed then c.mask else mask
         (v = 0 ∨ fixed → exec (.kCctl flag d a b) s = .next (kFalls s (kPut d (BitVec.ofNat 64 (if flag then c.rto else c.window))))) ∧
         (v ≠ 0 → ¬fixed →
           exec (.kCctl true d a b) s = .next (kAfter ((s.setConn num { c with rto := max (v.toNat % 2 ^ 32) 1600 }).modCur (kPut d (BitVec.ofNat 64 c.rto)))) ∧
           exec (.kCctl false d a b) s = .next (kAfter (((s.setConn num { c with window := min v.toNat 64 }).connPump num 64).modCur
             (kPut d (BitVec.ofNat 64 c.window))))) ∧
         exec (.kPath flag d a b) s = .next (kAfter ((s.setConn num { c with mask := keep }).modCur (kPut d (BitVec.ofNat 64 keep.toNat)))))))

namespace Sys2Proof.Claims

/-- What a step word does with its descriptor at offset o of LM: the cause it raises, or nothing (R439, R441). -/
def stepFault (s : State) (x : MSlot) (o : Nat) (rrs : Bool) : Option Nat :=
  let f := fun b n => x.lmNat (o + b) n
  let addr := BitVec.ofNat 64 (f 0 8)
  let tile := f 8 1 == 1
  if o % 32 ≠ 0 ∨ 16384 ≤ o then some cBANK
  else if 1 < f 8 1 ∨ f 14 2 ≠ 0 ∨ f 20 4 ≠ 0 ∨ f 24 8 ≠ 0 ∨ f 16 4 = 0 ∨ 65535 < f 16 4 ∨ (rrs = true ∧ (13 < f 9 1 ∨ 3 < f 10 1 ∨ 4 < f 11 1)) ∨
    (tile = true ∧ tileBad addr false = true) then some cSTREAM
  else if f 0 8 % 64 ≠ 0 then some cMISALIGN
  else if tile = true ∧ (s.tileTarget x.lid 0 (Machine.tileOf addr)).isNone then some cBANK else none

/-- The step a word posts, from its descriptor (R439). -/
def stepOf (x : MSlot) (o kind step : Nat) (from_ to_ : Option Nat) (addr2 : Nat) (tile2 : Bool) : StepOp :=
  let f := fun b n => x.lmNat (o + b) n
  let pkg := fun (r : Option Nat) => match r with | some r => x.lmNat (x.rtab + 2 * r) 2 % 8192 | none => 0
  { id := x.nextStep, kind := kind, addr := f 0 8, tile := f 8 1 == 1, addr2 := addr2, tile2 := tile2, fmt := Fmt.ofCode (BitVec.ofNat 4 (f 9 1))
    dar := if f 10 1 = 1 then .add else if f 10 1 = 2 then .max else if f 10 1 = 3 then .min else .none
    rnd := (Rnd.ofCode (BitVec.ofNat 3 (f 11 1))).getD .rne, rid := f 12 2, rows := f 16 4, step := step
    from_ := from_.getD 0, pfrom := pkg from_, to_ := to_.getD 0, pto := pkg to_ }

end Sys2Proof.Claims

/-- R431 to R437: k.arm arms a slot of the port switch, or gives −1 or −2; k.mgrp writes a group; k.rfail frees the slots of its reduction; k.sig puts an increment on its way to a
cluster of the launch; k.rset sets the ranks; what their rules reject raises BANK or STREAM.
R439 to R443: k.send, k.recv, k.rrs, k.copy and k.mcast post their step, which counts in OSC, or raise what their descriptors and ranks call for, or stall at 16 steps; k.wait
stalls until OSC has fallen to its number; a posted step is the last of the program's steps, and one with a partner in no package of the fabric ends in error. -/
def Obligations.KSlotsAndSteps : Prop :=
  (∀ (a b d : KReg) (s : State),
     let x := s.curSlotState
     let u := (kReg x a).toNat
     let v := (kReg x b).toNat
     let n := fun c k => x.lmNat (u + c) k
     let key := s.slotOf x.world (n 0 2) (n 2 2)
     (s.kIssues [a] [d] = true →
       (u % 32 ≠ 0 ∨ 16384 ≤ u → exec (.kArm d a) s = .next (kFault s cBANK)) ∧
       (u % 32 = 0 → u < 16384 → armBad x u = true → exec (.kArm d a) s = .next (kFault s cSTREAM)) ∧
       (u % 32 = 0 → u < 16384 → armBad x u = false →
         let armed := fun (y : MSlot) => { y with armed := if y.armed.contains (n 0 2) then y.armed else n 0 2 :: y.armed }
         (∀ o, key = some o → n 4 1 ≤ o.2.epoch → exec (.kArm d a) s = .next (kFalls s (kPut d (BitVec.allOnes 64 - 1)))) ∧
         (key = none → SMap.get none s.fab.epochs (epochKey x.world (n 0 2) (n 2 2)) = none →
           (s.freeRSlotNo = none → exec (.kArm d a) s = .next (kFalls s (kPut d (BitVec.allOnes 64)))) ∧
           (∀ k, s.freeRSlotNo = some k → ∃ r : RSlot,
             r.world = x.world ∧ r.rid = n 0 2 ∧ r.chunk = n 2 2 ∧ r.epoch = n 4 1 ∧ r.op = n 5 1 % 4 ∧ r.rnd = n 5 1 / 4 ∧ r.ofmt = n 6 1 ∧ r.b = (BitVec.ofNat 16 (n 8 2)).toInt ∧ r.ncon = n 10 2 ∧
             r.expect = BitVec.ofNat 64 (n 16 8) ∧ r.root = (n 24 1 == 1) ∧ r.ncin = n 25 1 ∧ r.ndst = n 26 2 ∧ r.seen = 0 ∧ r.count = 0 ∧ r.lid = x.lid ∧
             exec (.kArm d a) s = .next (kAfter ({ s with fab := { s.fab with
               slots := SMap.set s.fab.slots k (some r)
               epochs := SMap.set s.fab.epochs (epochKey x.world (n 0 2) (n 2 2)) (some (n 4 1, x.lid)) } }.modCur
                 fun y => armed (kPut d (BitVec.ofNat 64 k) y))))))) ∧
     (s.kIssues [a, b] [] = true →
       let g := u % 4096
       let base := 1024 * (s.curSlot - 1)
       let m := fun c k => x.lmNat (v + c) k
       (v % 8 ≠ 0 ∨ 16344 < v ∨ g < base ∨ base + 1024 ≤ g → exec (.kMgrp a b) s = .next (kFault s cBANK)) ∧
       (v % 8 = 0 → v ≤ 16344 → base ≤ g → g < base + 1024 → m 6 2 ≠ 0 → exec (.kMgrp a b) s = .next (kFault s cSTREAM)) ∧
       (v % 8 = 0 → v ≤ 16344 → base ≤ g → g < base + 1024 → m 6 2 = 0 → exec (.kMgrp a b) s = .next (kAfter { s with fab := { s.fab with
         groups := SMap.put {} s.fab.groups g ⟨BitVec.ofNat 48 (m 0 6), BitVec.ofNat 256 (m 8 32)⟩ } })) ∧
       (∀ l, s.launch x.lid = some l →
         (∀ cl, (l.clusters.headD [])[u / 256]? = some cl → (s.cluster cl).out = false →
           exec (.kSig a b) s = .next (kAfter (s.setCluster cl { s.cluster cl with arrived := (s.cluster cl).arrived ++ [⟨u % 256, v % 2 ^ 32, none⟩] }))) ∧
         ((l.clusters.headD [])[u / 256]? = none → exec (.kSig a b) s = .next (kFault s cBANK)))) ∧
     (s.kIssues [a] [] = true → ∃ t : State, exec (.kRfail a) s = .next (kAfter t) ∧ t = s.rfail x.lid x.world (u % 2 ^ 16) ∧
       ∀ k r, SMap.get none t.fab.slots k = some r → ¬(r.world = x.world ∧ r.rid = u % 2 ^ 16)) ∧
     (s.kIssues [d, a, b] [] = true →
       let rank := (kReg x d).toNat % 2 ^ 16
       let nr := u % 2 ^ 16
       exec (.kRset d a b) s = .next (if nr = 0 ∨ nr ≤ rank ∨ v % 2 ≠ 0 ∨ 16384 < v + 2 * nr then kFault s cBANK
         else kFalls s fun y => { y with rank := rank, nr := nr, rtab := v }))) ∧
  (∀ (a b : KReg) (step : BitVec 14) (n : BitVec 18) (s : State),
     let x := s.curSlotState
     let o := (kReg x a).toNat
     let r := (kReg x b).toNat
     let q := (kReg x (b + 1)).toNat
     let posts := fun i t => exec i s = .next (kAfter (s.postStep x t))
     let faults := fun i k => exec i s = .next (kFault s k)
     (s.kIssues [a, b] [] = true → 16 ≤ x.steps.length → exec (.kSend a b step) s = .next (s.modCur fun y => y.tick 1)) ∧
     (s.kIssues [a, b] [] = true → x.steps.length < 16 → x.waits = [] →
       (∀ k, stepFault s x o false = some k → faults (.kSend a b step) k ∧ faults (.kRecv a b step) k ∧ faults (.kCopy a b) k ∧ faults (.kMcast a b step) k) ∧
       (stepFault s x o false = none →
         (x.nr ≤ r → faults (.kSend a b step) cBANK ∧ faults (.kRecv a b step) cBANK) ∧
         (r < x.nr → posts (.kSend a b step) (stepOf x o 0 step.toNat none (some r) 0 false) ∧
           posts (.kRecv a b step) (stepOf x o 1 step.toNat (some r) none 0 false)) ∧
         (r < 2 ^ 28 → r / 4096 % 16 = 0 → posts (.kMcast a b step) (stepOf x o 4 step.toNat none none r false)) ∧
         (2 ^ 28 ≤ r ∨ r / 4096 % 16 ≠ 0 → faults (.kMcast a b step) cILLEGAL) ∧
         (stepFault s x r false = none →
           (x.lmNat (r + 16) 4 = x.lmNat (o + 16) 4 → posts (.kCopy a b) (stepOf x o 3 0 none none (x.lmNat r 8) (x.lmNat (r + 8) 1 == 1))) ∧
           (x.lmNat (r + 16) 4 ≠ x.lmNat (o + 16) 4 → faults (.kCopy a b) cSTREAM)))) ∧
     (s.kIssues [a, b, b + 1] [] = true → x.steps.length < 16 → x.waits = [] → b ≠ 15 →
       (∀ k, stepFault s x o true = some k → faults (.kRrs a b step) k) ∧
       (stepFault s x o true = none → r < x.nr → q < x.nr → posts (.kRrs a b step) (stepOf x o 2 step.toNat (some r) (some q) 0 false))) ∧
     (s.kIssues [] [] = true → n.toNat ≤ 16 →
       exec (.kWait n) s = .next (if n.toNat < x.steps.length then s.modCur fun y => y.tick 1 else kFalls s id)) ∧
     ∀ t : StepOp, t.kind < 3 →
       let u := s.postStep x t
       let lost := (t.kind ≠ 0 ∧ s.npkg ≤ t.pfrom) ∨ (t.kind ≠ 1 ∧ s.npkg ≤ t.pto)
       u.curSlotState.steps = x.steps ++ [{ t with err := if lost then some 3 else none }] ∧ u.curSlotState.nextStep = x.nextStep + 1 ∧
         u.curSlotState.k = x.k ∧ u.curSlotState.pc = x.pc ∧ u.mem = s.mem ∧ u.cores = s.cores)

/-! ## Events of a core -/

namespace Sys2Proof.Claims

/-- The results of a core that `sel` selects, written in the order in which they were put on their way. -/
def deliverThose (sel : Pend → Bool) (c : Core) : Core :=
  (c.pend.filter sel).foldl (fun c p => c.deliver p.w) { c with pend := c.pend.filter fun p => !sel p }

/-- A core that stops (R267): its run state, and PIDX as its stop records it; of the rest nothing an instruction reads. -/
def stopped (s t : State) (n : Nat) (r : RunState) : Prop :=
  (t.core n).run = r ∧ (t.core n).spr = { (s.core n).spr with pidx := (s.core n).progress } ∧ (t.core n).regs = (s.core n).regs ∧
    (t.core n).sp = (s.core n).sp ∧ (t.core n).pc = (s.core n).pc ∧ (t.core n).tiles = (s.core n).tiles ∧ (t.core n).pend = (s.core n).pend

end Sys2Proof.Claims

/-- R69, R86, R95, R96, R188, R264, R280, R309: the empty group only lets results land and a cycle pass; the first asynchronous cause is taken at a task group
boundary; a page walk reads its entries at their home slices, once the host has granted their lines, and ends with a TLB entry or with XLATE; results and table loads that are due are written; a core that has stalled 64 cycles on c.fwait is clock-gated.
R213, R257, R267, R268, R270, R344, R413: while a launch's halt line is raised a core in task mode stops at a group boundary, the engines of its clusters give back
the task-mode commands they had begun, but one in its apply, which they finish, and its programs on the communication cores stop; a task of a launch that has ended is discarded; without the line none of them stops. -/
def Obligations.CoreEventsAndHalt : Prop :=
  (∀ (n : Nat) (s : State),
     let c := s.core n;
     (let c := s.core s.cur;
       (noAsync s → c.tlbiWait = false → c.drainWaits = false → exec .nopGroup s = .next ((s.modCore s.cur fun c =>
         ({ c with drain := none }.advance c.handler).fallen ⟨s.cur, c.pc, c.pc + 1, c.pc, .c, false, c.segCount + 1, c.segCrc, { c with drain := none }⟩).egress s.cur)) ∧
       (noAsync s → c.tlbiWait = true ∨ c.drainWaits = true → exec .nopGroup s = .next (s.modCore s.cur fun c => { c.idleCycles 1 with fwait := 0 }))) ∧
     (∀ a l, c.run = .running → c.handler = false → c.async = a :: l →
       exec (.asyncCauseTake n) s = .next ((s.modCore n fun c => { c with async := l }).takeTrap n a.cause a.cls false 0 a.faddr c.pc)) ∧
     (c.run ≠ .running ∨ c.handler = true ∨ c.async = [] → exec (.asyncCauseTake n) s = .next s) ∧
     (c.walk = none → exec (.pageWalkComplete n) s = .next s) ∧
     (∀ va, c.walk = some va →
       let w := c.spr.world.toNat
       let r := s.walkFrom w va.toNat (s.rootOf n) 4
       let t := r.2.foldl (fun t a => t.homeLoad (a / 64) w) s
       (∀ k, (r.2.map (· / 64)).find? (fun k => s.lacksGrant k false) = some k → exec (.pageWalkComplete n) s = .next (s.askHost k false)) ∧
       ((∀ a ∈ r.2, s.lacksGrant (a / 64) false = false) →
         (r.1 = none → exec (.pageWalkComplete n) s =
           .next { t.modCore n fun c => { c with walk := none, walkFault := some (va, cXLATE) } with freeCtr := t.freeCtr + 1 }) ∧
         (∀ leaf b, r.1 = some leaf → szBits (leafSz leaf) = some b → exec (.pageWalkComplete n) s =
           .next { t.modCore n (fun c =>
             { c with
               walk := none
               walkFault := none
               tlb := c.tlb ++ [⟨va.toNat / 2 ^ b * 2 ^ (b - 12), 2 ^ (b - 12), leaf, c.spr.world.toNat⟩] }) with
             freeCtr := t.freeCtr + 1 }))) ∧
     exec (.pendingResultDelivery n) s = .next (s.modCore n fun c =>
       deliverThose (fun p => p.handler == c.handler && p.delay == 0 && (match p.w with | .tab .. => false | _ => true)) c) ∧
     (∀ ts, exec (.fTableLoadComplete n ts) s = .next (s.modCore n fun c =>
       deliverThose (fun p => p.handler == c.handler && p.delay == 0 && (match p.w with | .tab k .. => k == ts | _ => false)) c)) ∧
     exec (.clockGateEntry n) s = .next (if 64 ≤ c.fwait ∧ c.run = .running then s.modCore n fun c => { c with gated := true } else s.modCore n id)) ∧
  (∀ (n e cl m k : Nat) (l : Launch) (s : State),
     let c := s.core n;
     let x := s.marten m k;
     (s.launch c.lid = some l → c.stopCause = 0 →
       (l.finished = false → l.line = true → c.run = .running → c.handler = false →
         let gone := l.leaving.contains (32 * c.run_ + c.relCluster l.w)
         ∃ t, exec (.coreHaltStop n) s = .next t ∧
           t = (s.modCore n fun c => { c with gated := false, fwait := 0 }).stopCore n
             (if gone then cPREEMPT else if l.dbg then cBREAK else cHALT) (if gone then .preempted else .stopped) ∧
           stopped s t n (if gone then .preempted else .stopped)) ∧
       (l.finished = true → c.run ≠ .idle → ∃ t, exec (.coreHaltStop n) s = .next t ∧ (t.core n).run = .ended) ∧
       (l.finished = false → l.line = false ∨ c.run ≠ .running ∨ c.handler = true → exec (.coreHaltStop n) s = .next s)) ∧
     (s.launch c.lid = none → exec (.coreHaltStop n) s = .next s) ∧
     (s.launch (s.core (clusterCore cl 0)).lid = some l →
       let recorded := l.engRec.contains (l.engineSlot ((s.core (clusterCore cl 0)).relCluster l.w) e)
       (l.line = true → e < 3 → recorded = false →
         let stops := fun (m : Cmd) => decide (m.onEngine = true ∧ m.eng = e ∧ m.lid = l.lid ∧ m.handler = false)
         (∀ i, i < 8 → let d := s.core (clusterCore cl i); (d.cmds.map Cmd.id).Nodup ∧ ∀ m ∈ d.cmds, stops m = true → d.inApply m = false) →
         ∃ t, exec (.engineHaltStop cl e) s = .next t ∧ ∀ i, i < 8 →
           let d := s.core (clusterCore cl i)
           let f := t.core (clusterCore cl i);
           f.cmds = d.cmds.map (fun m => if stops m then m.requeue else m) ∧ f.regs = d.regs ∧ f.sp = d.sp ∧ f.pc = d.pc) ∧
       (∀ (i : Nat) (m : Cmd) (y : Cpy), (s.core i).inApply m = true → m.cpy = some y → s.stopCmd i m = s.finishCopy i m y) ∧
       (l.line = false ∨ 3 ≤ e ∨ recorded = true → exec (.engineHaltStop cl e) s = .next s)) ∧
     (s.launch x.lid = some l →
       (k ≠ 0 → l.line = true → x.runs = true → ∃ t, exec (.mcoreHaltStop m k) s = .next t ∧ t.marten m k = { x with run := .stopped }) ∧
       (k = 0 ∨ l.line = false ∨ x.runs = false → exec (.mcoreHaltStop m k) s = .next s)))

/-! ## Accesses, flags and barriers at their targets -/

namespace Sys2Proof.Claims

/-- An atomic operation on n bits (R153). -/
def atomicOf (op : AOp) (z : Bool) {n : Nat} (old b : BitVec n) : BitVec n :=
  match op with
  | .add => old + b
  | .min => if (if z then b < old else b.slt old) then b else old
  | .max => if (if z then old < b else old.slt b) then b else old
  | .and => old &&& b
  | .or => old ||| b
  | .xor => old ^^^ b
  | .xchg => b

/-- The access of core n with a number that an arrival ends, at memory of this package, its host heard from and nothing before it in its way. -/
def mayPerform (s : State) (n : Nat) (a : Acc) (pa : Nat) (sb : Bool) : Prop :=
  a.reply = none ∧ a.loc = .mem pa sb ∧ s.accWaits n a pa sb = false ∧ (s.core n).blocked a = false

end Sys2Proof.Claims

/-- R101, R143, R148, R153, R154, R159, R287: an access performs on its line, taken through the L1 or at the home slice: a load answers the bytes it finds with the line's mark; an
atomic answers the old value and stores the new one, but on a marked line only answers; a store, where the core is not of a shadow run, stores its bytes; one that must wait stays.
R333, R337: an ordered flag at its target waits there, in one of 16 places (one that came by the burrow lane in one more), and performs once all the stores it follows on its four paths have. -/
def Obligations.AccessesAndOrderedFlags : Prop :=
  (∀ (s : State) (n id pa : Nat) (sb : Bool) (a : Acc),
     let load := exec (.loadResultArrival n id) s
     let store := exec (.storeAckArrival n id) s
     ((s.core n).accs.find? (fun a => a.id == id && a.countsOCL) = some a →
       let home := sb || isHost pa
       (∀ r, a.reply = some r → load = .next (s.answer n a r)) ∧
       (a.reply = none → (s.core n).blocked a = true → load = .next s) ∧
       (a.reply = none → a.loc = .mem pa sb → (s.core n).blocked a = false → s.accWaits n a pa sb = true → load = .next (s.askHost (pa / 64) a.op.writes)) ∧
       (∀ k, a.op = .load k → mayPerform s n a pa sb →
         let r := s.readMem n pa k sb
         load = .next (r.1.answer n a (.data1 r.2.1 r.2.2))) ∧
       (∀ o k z b, a.op = .aop o k z b → mayPerform s n a pa sb →
         let u := if home then s else s.l1Own n (pa / 64) (s.core n).spr.world.toNat false
         let r := u.readMem n pa k home
         load = .next (if r.2.2 then r.1.answer n a (.data1 r.2.1 true)
           else ((r.1.ownLine n pa home false a.comp).storeNat pa k
             (atomicOf o z (BitVec.ofNat (8 * k) r.2.1) (BitVec.ofNat (8 * k) b.toNat)).toNat).answer n a (.data1 r.2.1 false))) ∧
       (∀ k e v, a.op = .cas k e v → mayPerform s n a pa sb →
         let u := if home then s else s.l1Own n (pa / 64) (s.core n).spr.world.toNat false
         let r := u.readMem n pa k home
         load = .next (if r.2.2 then r.1.answer n a (.data1 r.2.1 true)
           else ((r.1.ownLine n pa home false a.comp).storeNat pa k (if r.2.1 = e.toNat then v.toNat else r.2.1)).answer n a (.data1 r.2.1 false)))) ∧
     (∀ k home, let r := s.readMem n pa k home; (r.2.2 = false → r.2.1 = s.loadNat pa k) ∧ ∀ p, r.1.byte p = s.byte p) ∧
     ((s.core n).accs.find? (fun a => a.id == id && a.acked) = some a →
       (∀ r, a.reply = some r → store = .next (s.answer n a r)) ∧
       (a.reply = none → (s.core n).blocked a = true → store = .next s) ∧
       (a.reply = none → a.loc = .mem pa sb → (s.core n).blocked a = false → s.accWaits n a pa sb = true → store = .next (s.askHost (pa / 64) a.op.writes)) ∧
       (∀ k d, a.op = .store k d → mayPerform s n a pa sb →
         store = .next ((if s.shadow n then s else (s.ownLine n pa sb (k == 64) a.comp).storeNat pa k d.toNat).answer n a ⟨0, 0, none⟩)) ∧
       (a.op = .czero → mayPerform s n a pa sb →
         store = .next ((if s.shadow n then s else (s.ownLine n pa sb true a.comp).storeNat (pa / 64 * 64) 64 0).answer n a ⟨0, 0, none⟩))) ∧
     ((∀ a ∈ (s.core n).accs, a.id ≠ id) → load = .next s ∧ store = .next s) ∧
     ∀ r : Reply,
       let t := s.answer n a r
       (∀ b ∈ (t.core n).accs, b.id ≠ a.id) ∧ (∀ p, t.byte p = s.byte p) ∧
       ((s.core n).run ≠ .ended → a.handler = (s.core n).handler → ∀ d, a.dst = .s d →
         (t.core n).regs = (s.core n).regs.writeS d (r.data.extractLsb' 0 64) (r.poison.getLsbD 0)) ∧
       (t.core n).async = (s.core n).async ++ (match r.cause with | some k => [⟨k, 7, a.e⟩] | none => [])) ∧
  (∀ (s : State) (k n o : Nat) (p : Pkt) (a : Acc), s.pkt k = some p → s.pktAcc p = some (n, a, o) →
     let c := s.core p.core
     let places := if p.hdr.getLsbD 28 then 17 else 16
     (p.at_ = p.dst → p.kind = 3 → (∀ h ∈ c.held, h.acc ≠ k) → c.held.length < places →
       exec (.orderedFlagArrival k) s = .next (s.modCore p.core fun c => { c with held := c.held ++ [⟨n, k, p.counts⟩] })) ∧
     (p.at_ ≠ p.dst ∨ p.kind ≠ 3 → exec (.orderedFlagArrival k) s = .next s) ∧
     (p.at_ = p.dst → p.kind = 3 → places ≤ c.held.length → exec (.orderedFlagArrival k) s = .next (s.modCore p.core id)) ∧
     (∀ h d, c.held.find? (fun h => h.acc == k) = some h → a.op = .store 64 d → p.core ≠ n →
       ((∃ i, i < 4 ∧ 32768 ≤ (SMap.get 0 c.performed (4 * h.src + i) + 65536 - h.counts.getD i 0) % 65536) → exec (.orderedFlagPerform p.core k) s = .next s) ∧
       ((∀ i, i < 4 → (SMap.get 0 c.performed (4 * h.src + i) + 65536 - h.counts.getD i 0) % 65536 < 32768) → s.nextPkt ≠ k → c.owns o = false →
         ∃ t : State, exec (.orderedFlagPerform p.core k) s = .next t ∧ (t.core p.core).sp = c.sp ∧ (t.core p.core).performed = c.performed ∧
           ∃ q, t.pkt s.nextPkt = some q ∧ q.core = n ∧ q.body = .reply n a.id ⟨0, 0, some cBANK⟩) ∧
       ((∀ i, i < 4 → (SMap.get 0 c.performed (4 * h.src + i) + 65536 - h.counts.getD i 0) % 65536 < 32768) → s.nextPkt ≠ k → c.owns o = true →
         ∃ t : State, exec (.orderedFlagPerform p.core k) s = .next t ∧ (t.core p.core).row (o / 64) = d.extractLsb' 0 512 ∧ (t.core p.core).rowPoison (o / 64) = false ∧
           (∀ r, r ≠ o / 64 → (t.core p.core).row r = c.row r) ∧ (∀ h ∈ (t.core p.core).held, h.acc ≠ k) ∧ t.pkt k = none ∧
           SMap.get 0 (t.core p.core).performed (4 * n + p.pcls) = (SMap.get 0 c.performed (4 * n + p.pcls) + 1) % 65536 ∧
           (t.core n).accs = (s.core n).accs ∧ ∃ q, t.pkt s.nextPkt = some q ∧ q.core = n ∧ q.body = .reply n a.id ⟨0, 0, none⟩)))

/-- R279 to R281, R283: an increment that has arrived at a cluster that is not switched out adds to its flag, up to 2^32 − 1, wakes the cluster's cores, and fires and takes from the arm
table exactly the entries of that flag whose threshold it reaches; a switched-out cluster keeps it.
R360, R361, R363: a post adds its bytes to PEND; a byte arrival takes them off, and an arrival over PEND sets ERR; an arrival joins the generation once every earlier engine command of its task has completed; the barrier releases, its
generation one higher and its subgroup free, once every task of the subgroup has arrived and PEND is 0; a halted launch's barrier takes no bytes. -/
def Obligations.FlagAndBarrierEvents : Prop :=
  (∀ (s : State) (cl f : Nat) (i : Increment),
     let t := s.cluster cl
     let old := SMap.get 0 t.flags f
     let new := min (old + i.amount) (2 ^ 32 - 1)
     (t.arrived.find? (fun i => i.flag == f) = some i → t.out = false → ∃ u : State, exec (.flagIncrementApply cl f) s = .next u ∧
       (u.cluster cl).flags = SMap.put 0 t.flags f new ∧ (∀ k, k < 8 → (u.core (clusterCore cl k)).gated = false) ∧
       (∀ k e, SMap.get none (u.cluster cl).arms k = some e → SMap.get none t.arms k = some e ∧ ¬(e.flag = f ∧ old < e.t ∧ e.t ≤ new)) ∧
       (∀ k e, SMap.get none t.arms k = some e → (∀ e, (k, some e) ∈ t.arms → ¬(e.flag = f ∧ old < e.t ∧ e.t ≤ new)) → SMap.get none (u.cluster cl).arms k = some e) ∧
       ∀ p, u.byte p = s.byte p) ∧
     ((∀ i ∈ t.arrived, i.flag ≠ f) ∨ t.out = true → exec (.flagIncrementApply cl f) s = .next s) ∧
     ∀ e : Arm,
       (e.act = 1 → ∀ k, k < 8 → ((s.fireArm cl e).core (clusterCore cl k)).monitor =
         if e.x / 2 ^ k % 2 = 1 then (s.core (clusterCore cl k)).monitor.map fun m => { m with fired := true } else (s.core (clusterCore cl k)).monitor) ∧
       (e.act = 2 → (let h := (s.core e.core).handle (e.x % 64); h.ring = false ∨ h.st = 0 ∨ h.room < e.x / 256 % 64) →
         s.fireArm cl e = (s.setCluster cl { t with drops := min (t.drops + 1) (2 ^ 32 - 1) }).postEvent 0x1D) ∧
       (e.act = 3 → ∀ k, s.launchCluster e.core (e.x / 256 % 32) = some k →
         s.fireArm cl e = if s.flagsFull k then s.setCluster cl { t with outbox := t.outbox ++ [(k, e.x % 256, e.x / 2 ^ 16)] }
           else s.sendFlagOf cl k (e.x % 256) (e.x / 2 ^ 16))) ∧
  (∀ (s : State) (n id b k : Nat) (a : Acc),
     let t := s.barrier b
     ((s.core n).accs.find? (fun a => a.id == id) = some a →
       ((s.core n).blocked a = true → exec (.barrierPostApply n id) s = .next s ∧ exec (.barrierArrivalApply n id) s = .next s) ∧
       ((s.core n).blocked a = false → a.loc = .barrier b →
         (a.op = .post k → exec (.barrierPostApply n id) s = .next ((s.setBarrier b { t with pend := t.pend + k }).endAcc n id)) ∧
         (a.op = .arrive → (∃ m ∈ (s.core n).cmds, m.id < a.id ∧ m.old = false) → exec (.barrierArrivalApply n id) s = .next s) ∧
         (∀ l, a.op = .arrive → (∀ m ∈ (s.core n).cmds, m.id < a.id → m.old = true) → s.launch t.lidb = some l →
           exec (.barrierArrivalApply n id) s = .next (((s.setBarrier b { t with arrived := t.arrived ++ [(s.core n).tile l.w] }).barrierRelease b).endAcc n id)))) ∧
     ((∀ a ∈ (s.core n).accs, a.id ≠ id) → exec (.barrierPostApply n id) s = .next s ∧ exec (.barrierArrivalApply n id) s = .next s) ∧
     (∀ e, s.barIn.find? (fun e => e.1 == b && e.2.1 == k) = some e → s.lineOf t.lidb = false →
       exec (.barrierByteArrival b k) s = .next ((({ s with barIn := s.barIn.erase e } : State).setBarrier b
         (if t.pend < k then { t with pend := 0, err := true, errLid := if t.bound then t.errLid else e.2.2 } else { t with pend := t.pend - k })).barrierRelease b)) ∧
     ((∀ e ∈ s.barIn, e.1 ≠ b ∨ e.2.1 ≠ k) ∨ s.lineOf t.lidb = true → exec (.barrierByteArrival b k) s = .next s) ∧
     ∀ l ts, s.launch t.lidb = some l → subgroupTiles l.w l.h t.subg = some ts →
       s.barrierRelease b = if t.bscope ≠ 0 ∧ t.arrived.length = ts.length ∧ t.pend = 0
         then s.setBarrier b { t with gen := t.gen + 1, arrived := [], subg := 0, bscope := 0 } else s)

/-! ## The memory system between instructions -/

namespace Sys2Proof.Claims

/-- The bits of MAP and RDIE that stand for core n: of MAP its own where it lies on the home die, else of RDIE its die's (R293). -/
def holderBits (line n : Nat) : BitVec 64 × BitVec 3 :=
  let home := homeDie (64 * line)
  if dieOf n = home then (1#64 <<< (coreX n % 8 + 8 * (coreY n % 8)), 0) else (0, 1#3 <<< (if dieOf n < home then dieOf n else dieOf n - 1))

/-- The entry of a line at its home slice with core n as its one owner (R293, R294). -/
def ownedBy (x : L2Line) (line n : Nat) : L2Line :=
  { x with dst := 2, own := n, map := (holderBits line n).1, rdie := (holderBits line n).2 }

/-- The entry with core n among its sharers (R293). -/
def sharedBy (x : L2Line) (line n : Nat) : L2Line :=
  { x with dst := 1, map := x.map ||| (holderBits line n).1, rdie := x.rdie ||| (holderBits line n).2 }

/-- The entry after the data of a copy have come back: those of a copy in M, with their mark, world and C bit (R294, R295). -/
def dataBack (y : L2Line) (l : L1Line) : L2Line :=
  if l.st = .m then { y with dirty := true, world := l.world, poison := l.poison, comp := l.comp } else y

/-- The slices of a line's home die have room for n lines more (R292). -/
def l2Room (s : State) (line n : Nat) : Prop :=
  (s.l2.filter fun e => e.2.isSome && homeDie (64 * e.1) == homeDie (64 * line)).length + n ≤ l2Capacity

end Sys2Proof.Claims

/-- R311: an invalidation reaches a core once the earlier writes of its task have performed, and from then on no TLB entry of its world that maps a byte of its page stands there, every
other entry does, and a walk's failure is forgotten; c.tlbi is over once every core it reaches has ended what it had translated before and no other package has to report.
R293, R294, R297: at the home slice a read miss of a line no L1 holds makes the core its owner and one of a shared line adds a sharer; a read-exclusive and an upgrade make the core
the owner whoever held it, but of a host line granted in S alone a sharer; a copy given up or probed is gone from the directory entry; a downgraded owner is a sharer; memory does not change, and a line that waits for the host is not granted. -/
def Obligations.TranslationAndDirectory : Prop :=
  (∀ (s : State) (n : Nat) (t : Tlbi),
     (s.tlbis.find? (fun t => t.left.any fun e => e.1 == n && e.2.isNone) = some t →
       (s.tlbiReady t = false → exec (.tlbInvalidateArrival n) s = .next s) ∧
       (s.tlbiReady t = true → ∃ u : State, exec (.tlbInvalidateArrival n) s = .next u ∧ (u.core n).walkFault = none ∧
         (∀ e, e ∈ (u.core n).tlb ↔ e ∈ (s.core n).tlb ∧ (e.world ≠ t.world ∨ ∃ v k, t.page = some (v, k) ∧ (e.vpn + e.pages ≤ v ∨ v + k ≤ e.vpn))) ∧
         (∀ k, k ≠ n → u.core k = s.core k) ∧ (∀ p, u.byte p = s.byte p) ∧
         u.tlbis = s.tlbis.map fun w => if w = t then { w with asked := true, left := w.left.map fun e => if e.1 = n then (n, some (s.core n).seq) else e } else w)) ∧
     ((∀ t ∈ s.tlbis, ∀ e ∈ t.left, e.1 = n → e.2 ≠ none) → exec (.tlbInvalidateArrival n) s = .next s) ∧
     (s.tlbis.find? (fun t => t.core == n) = some t → n < 256 →
       (t.outside = 0 → (∀ e ∈ t.left, s.tlbiReported e = true) →
         exec (.tlbiComplete n) s = .next ({ s with tlbis := s.tlbis.erase t }.modCore n fun c => { c with tlbiWait := false })) ∧
       (t.outside ≠ 0 ∨ (∃ e ∈ t.left, s.tlbiReported e = false) → exec (.tlbiComplete n) s = .next s))) ∧
  (∀ (s : State) (n line : Nat) (dirty : Bool),
     let w := (s.core n).spr.world.toNat
     let st := (s.core n).l1State line
     let x := (s.fillL2 line w).l2Line line
     (lineOk line = true → st = .i → s.waitsHost n line false = false → ∃ t : State, exec (.dirRead n line) s = .next t ∧ t = s.dirRead n line w ∧ (∀ p, t.byte p = s.byte p) ∧
       ∀ y, x = some y →
         (y.dst = 0 → (s.fillL2 line w).lacksGrant line true = false → t.l2Line line = some (ownedBy y line n)) ∧
         (y.dst = 0 → (s.fillL2 line w).lacksGrant line true = true → t.l2Line line = some (sharedBy y line n)) ∧
         (y.dst = 1 → t.l2Line line = some (sharedBy y line n)) ∧
         (y.dst = 2 → ∃ z, t.l2Line line = some z ∧ z.dst = 1 ∧ z.host = y.host ∧
           z.poison = (match (s.core y.own).l1Line line with | some l => if l.st = .m then l.poison else y.poison | none => y.poison))) ∧
     (lineOk line = true → st = .i → s.waitsHost n line true = false → ∃ t : State, exec (.dirReadExclusive n line) s = .next t ∧
       t = s.dirExclusive n line w (if (s.core n).wantsWrite line then .m else .e) ∧ (∀ p, t.byte p = s.byte p) ∧ ∃ z, t.l2Line line = some (ownedBy z line n)) ∧
     (st = .s → s.waitsHost n line true = false → ∃ t : State, exec (.dirUpgrade n line) s = .next t ∧ t = s.dirExclusive n line w .m ∧
       (∀ p, t.byte p = s.byte p) ∧ ∃ z, t.l2Line line = some (ownedBy z line n)) ∧
     (lineOk line = false ∨ st ≠ .i ∨ s.waitsHost n line false = true → exec (.dirRead n line) s = .next s) ∧
     (lineOk line = false ∨ st ≠ .i ∨ s.waitsHost n line true = true → exec (.dirReadExclusive n line) s = .next s) ∧
     (st ≠ .s ∨ s.waitsHost n line true = true → exec (.dirUpgrade n line) s = .next s) ∧
     (st ≠ .i → ∃ t : State, exec (.l1Invalidate n line) s = .next t ∧ t = s.l1Evict n line ∧ (∀ p, t.byte p = s.byte p) ∧
       exec (.dirEvictionNotice n line dirty) s = .next (if (st == .m) = dirty then t else s) ∧
       ∀ y l, s.l2Line line = some y → y.dst = 2 → y.own = n → (s.core n).l1Line line = some l →
         t.l2Line line = some { dataBack y l with dst := 0, map := 0, rdie := 0 }) ∧
     (st = .i → exec (.l1Invalidate n line) s = .next s ∧ exec (.dirEvictionNotice n line dirty) s = .next s) ∧
     (∀ y l, s.l2Line line = some y → y.dst = 2 → y.own = n → (s.core n).l1Line line = some l →
       ∃ t : State, exec (.l1Downgrade n line) s = .next t ∧ t.core n = (s.core n).l1Set line .s ∧ (∀ k, k ≠ n → t.core k = s.core k) ∧ (∀ p, t.byte p = s.byte p) ∧
         t.l2Line line = some (sharedBy { dataBack y l with map := 0, rdie := 0 } line n)) ∧
     ((∀ y, s.l2Line line = some y → y.dst ≠ 2 ∨ y.own ≠ n) → exec (.l1Downgrade n line) s = .next s))

/-- R296, R297: a host snoop recalls a line of host memory from every L1; a host read of an HBM line sets HOST; a host write of one changes its 64 bytes and no other, and fires every
monitor on it; the host's answer clears HOST; a grant gives a host line that no slice holds its state and data.
R299, R301, R303, R304: a block read brings its absent lines into the L2, poisoned where the block's tag fails for the world or a line bears a mark; a block written for a world takes that world, its
written lines clean, its unwritten ones marked where the tag failed, and what other worlds have of it gone from the L2; a sweep starts at its base, holds while paused, and block by block rewrites its world's blocks under the new key. -/
def Obligations.HostAndBlockEvents : Prop :=
  (∀ (s : State) (line : Nat) (data : Row) (mesi : Mesi),
     (isHost (64 * line) = true → (∃ t : State, exec (.hostSnoop line true) s = .next t ∧ t.l2Line line = none ∧ SMap.get .i t.cxl line = .i ∧ ∀ p, t.byte p = s.byte p) ∧
       exec (.hostSnoop line false) s = .next (let t := s.downgradeOwner line;
         { t with cxl := if SMap.get .i t.cxl line = .i then t.cxl else SMap.put .i t.cxl line .s })) ∧
     (isHost (64 * line) = false → ∀ b, exec (.hostSnoop line b) s = .next s) ∧
     (populated (64 * line) = true →
       (∃ t : State, exec (.hostHbmRead line) s = .next t ∧ (∃ x, t.l2Line line = some x ∧ x.host = true ∧ x.dst ≠ 2) ∧ ∀ p, t.byte p = s.byte p) ∧
       (∃ t : State, exec (.hostHbmWrite line data) s = .next t ∧ t.loadNat (64 * line) 64 = data.toNat ∧ (∀ p, p < 64 * line ∨ 64 * line + 64 ≤ p → t.byte p = s.byte p) ∧
         (∃ x, t.l2Line line = some x ∧ x.dirty = true ∧ x.world = 0 ∧ x.poison = false) ∧
         ∀ k q, (s.core k).monitor = some q → q.line = line → (t.core k).monitor = some { q with fired := true })) ∧
     (populated (64 * line) = false → exec (.hostHbmRead line) s = .next s ∧ exec (.hostHbmWrite line data) s = .next s) ∧
     (line ∈ s.binv → ∃ t : State, exec (.backInvalidationResponse line) s = .next t ∧ t.binv = s.binv.erase line ∧
       t.l2Line line = (s.l2Line line).map fun x => { x with host := false }) ∧
     (line ∉ s.binv → exec (.backInvalidationResponse line) s = .next s) ∧
     (isHost (64 * line) = true → SMap.get .i s.cxl line = .i → mesi ≠ .i → ∃ t : State, exec (.cxlCacheGrant line mesi data) s = .next t ∧ SMap.get .i t.cxl line = mesi ∧
       t.loadNat (64 * line) 64 = data.toNat ∧ ∀ p, p < 64 * line ∨ 64 * line + 64 ≤ p → t.byte p = s.byte p) ∧
     (isHost (64 * line) = true → SMap.get .i s.cxl line = .s → mesi = .e ∨ mesi = .m → exec (.cxlCacheGrant line mesi data) s = .next
       { s with cxl := SMap.put .i s.cxl line mesi, cxlWant := SMap.erase s.cxlWant line }) ∧
     (isHost (64 * line) = false ∨ mesi = .i ∨ SMap.get .i s.cxl line = .e ∨ SMap.get .i s.cxl line = .m ∨ (SMap.get .i s.cxl line = .s ∧ mesi = .s) →
       exec (.cxlCacheGrant line mesi data) s = .next s)) ∧
  (∀ (s : State) (b w die ctl : Nat) (lines : BitVec 8) (c hold : Bool) (shape : BitVec 2),
     let x := s.block b
     let k := 4 * die + ctl
     let y := s.sweep k
     (populated (512 * b) = true → l2Room s (8 * b) 8 → (∀ i l, i < 8 → s.l2Line (8 * b + i) = some l → l.world = w) → ∃ t : State, exec (.memoryRead b w) s = .next t ∧ (∀ p, t.byte p = s.byte p) ∧ t.blocks = s.blocks ∧
       ∀ i, i < 8 → t.l2Line (8 * b + i) = match s.l2Line (8 * b + i) with
         | some l => some l
         | none => some { poison := x.bad || x.world != w || x.poison.getLsbD i, world := w }) ∧
     (populated (512 * b) = false → exec (.memoryRead b w) s = .next s ∧ exec (.memoryWrite b w lines c shape) s = .next s) ∧
     (populated (512 * b) = true → ∀ i l, i < 8 → s.l2Line (8 * b + i) = some l → l.dirty = true → l.world = w → lines = BitVec.ofNat 8 (2 ^ i) →
       ∃ t : State, exec (.memoryWrite b w lines c shape) s = .next t ∧ (∀ p, t.byte p = s.byte p) ∧ t.l2Line (8 * b + i) = some { l with dirty := false } ∧
         (∀ j, j ≠ i → j < 8 → t.l2Line (8 * b + j) = (s.l2Line (8 * b + j)).filter fun x => x.world == w) ∧
         let z := t.block b
         z.world = w ∧ z.bad = false ∧ z.newKey = s.newKeyFor b w ∧ (c = false ∨ l.comp = false → z.comp = 0) ∧
           ∀ j, j < 8 → z.poison.getLsbD j = if j = i then l.poison else (x.bad || x.world != w || x.poison.getLsbD j)) ∧
     exec (.sweepStart die ctl) s = .next (if y.go = false ∧ y.base < y.end_ then s.setSweep k { y with go := true, ptr := y.base, live := true } else s) ∧
     exec (.sweepPause die ctl hold) s = .next (s.setSweep k { y with pause := hold }) ∧
     (y.go = false ∨ y.pause = true → exec (.sweepBlock die ctl) s = .next s) ∧
     (y.go = true → y.pause = false →
       let z := s.block y.ptr
       ∃ t : State, exec (.sweepBlock die ctl) s = .next t ∧ (∀ p, t.byte p = s.byte p) ∧ (t.sweep k).ptr = y.ptr + 1 ∧ (t.sweep k).go = (y.ptr + 1 != y.end_) ∧
         (t.sweep k).done = (y.done || y.ptr + 1 == y.end_) ∧ (t.sweep k).pblk = (if z.world = y.wid ∧ z.bad = true then min (y.pblk + 1) 65535 else y.pblk) ∧
         (y.ptr + 1 ≠ y.end_ → t.block y.ptr =
           if z.world = y.wid then { z with newKey := true, bad := false, poison := if z.bad then 0xFF else z.poison } else z)))

/-- R134 to R136, R305: a refresh window opens when CYC reaches the one WREF names, delays the loads and copies that read the weight store by 16 cycles and names the next, 4,096 cycles on; held writes of a die from the scratchpad start once no load reads its store, each taking the cycles of its rows;
a granule is zeroed before it passes to another world. -/
def Obligations.WeightStoreEvents : Prop :=
  ∀ (s : State) (n die g w : Nat),
    let c := s.core n
    let later := fun (a : Arr) => { a with ldw := a.ldw.map fun o => if o.ws then { o with due := o.due + 16 } else o }
    exec (.refreshWindowOpen n) s = .next (s.modCore n fun c => if c.refresh = false ∧ c.run = .running ∧ c.spr.wref.toNat % 2 ^ 48 ≤ c.spr.cyc.toNat
      then { c with
             refresh := true
             arr0 := later c.arr0
             arr1 := later c.arr1
             cmds := c.cmds.map fun m => match m.st, m.cpy with
               | .running due, some y => if y.ss = .ws then { m with st := .running (due + 16) } else m
               | _, _ => m
             spr := { c.spr with wref := BitVec.ofNat 64 ((c.spr.wref.toNat % 2 ^ 48 + 4096) % 2 ^ 48 + 2 ^ 48 * 16) } }
      else c) ∧
    (c.refresh = true → c.run = .running → c.spr.wref.toNat % 2 ^ 48 + 16 ≤ c.spr.cyc.toNat + 4096 →
      exec (.refreshWindowClose n) s = .next (s.modCore n fun c => { c with refresh := false })) ∧
    (s.wsReads die = true → exec (.weightStoreWriteStart die) s = .next s) ∧
    (s.wsReads die = false →
      (∀ k, dieOf k = die → ((s.core k).cmds.map Cmd.id).Nodup ∧ ∀ m ∈ (s.core k).cmds, m.st = .held → ∃ y, m.cpy = some y ∧ y.ss = .sp ∧ y.ds = .ws) →
      ∃ t : State, exec (.weightStoreWriteStart die) s = .next t ∧ ∀ k, dieOf k = die →
        (t.core k).cmds = (s.core k).cmds.map fun m => match m.st, m.cpy with
          | .held, some y =>
            let v := (s.core k).seen m
            let rows := (linesOf (v.cpySource y)).length + if y.dar = .none then 0 else (linesOf (v.cpyDest y)).length
            { m with st := .running ((s.core k).tick + 7 + rows) }
          | _, _ => m) ∧
    (die < 4 → g < 256 → w < 16 → s.wsReads die = false → s.wsWriteHeld die = false → ∃ t : State, exec (.weightStoreGranuleAssign die g w) s = .next t ∧
      SMap.get 0 t.wsWorld (256 * die + g) = w ∧ (∀ o, o < 2 ^ 14 → SMap.get 0 t.ws (2 ^ 22 * die + 2 ^ 14 * g + o) = 0) ∧
      (∀ o, o < 2 ^ 17 → SMap.get false t.wsPoison (2 ^ 25 * die + 2 ^ 17 * g + o) = false) ∧
      ∀ d r o, d ≠ die ∨ r ≠ g → r < 256 → o < 2 ^ 14 → SMap.get 0 t.ws (2 ^ 22 * d + 2 ^ 14 * r + o) = SMap.get 0 s.ws (2 ^ 22 * d + 2 ^ 14 * r + o)) ∧
    (4 ≤ die ∨ 256 ≤ g ∨ 16 ≤ w ∨ s.wsReads die = true ∨ s.wsWriteHeld die = true → exec (.weightStoreGranuleAssign die g w) s = .next s)

/-! ## Routers, the peg and links -/

namespace Sys2Proof.Claims

/-- A packet that waits at its destination for a step of its own: neither an increment nor a chunk. -/
def staysInPkts (p : Pkt) : Prop := (∀ t, p.body ≠ .chunk t) ∧ ∀ cl f n src, p.body ≠ .flag cl f n src

end Sys2Proof.Claims

/-- R329, R330, R332 to R334, R336: a packet moves to a next router over a live link, towards its destination unless it has stood 32 cycles and has made fewer than 8 non-minimal hops; a malformed one is
discarded and counted at its router; a packet on its circuit moves a flit in each slot of it, which keeps its output from others; a packet that stands still for the time-out asks for the peg, which goes its ring router by router and takes the packet into the burrow lane where it meets it, one
packet at a time; the lane delivers it at its destination, where the peg goes on; a peg not seen for two rounds is issued anew.
R339, R340: a corrupted flit is replayed; after three replays that failed the link retrains and its bucket rises, and a bucket at the budget retires it; a retraining ends, a bucket leaks; an exchange that
succeeds has the burrow routes recomputed, after which RETIRE is raised, and one that fails ends every launch with link loss. -/
def Obligations.NetworkAndLinkEvents : Prop :=
  (∀ (s : State) (r k : Nat) (h : BitVec 128) (p : Pkt),
     (10 ≤ (h.extractLsb' 18 4).toNat ∨ 4 < (h.extractLsb' 22 3).toNat → exec (.routerPacketReceive r h) s = .next (s.countAt r 0x15)) ∧
     ((h.extractLsb' 18 4).toNat < 10 → (h.extractLsb' 22 3).toNat ≤ 4 → s.pkts = [(k, some p)] → p.hdr = h → s.pegPkt ≠ some k →
       (∀ b port, portTo p.at_ r = some port → s.hopOk p r = some b →
         let whole := ¬(s.onCircuit p port = true ∧ p.gone < p.nfl)
         (whole → r ≠ p.dst ∨ staysInPkts p) → ∃ (t : State) (q : Pkt), exec (.routerPacketReceive r h) s = .next t ∧ t.cores = s.cores ∧ t.mem = s.mem ∧
           t.pkts = [(k, some q)] ∧ q.since = s.clock ∧ q.wantsPeg = false ∧ q.hdr = p.hdr ∧ q.core = p.core ∧ q.body = p.body ∧
           (whole → q.at_ = r ∧ q.gone = 0 ∧ q.late = false ∧ q.nonmin = (if b then p.nonmin + 1 else p.nonmin)) ∧
           (¬whole → q.at_ = p.at_ ∧ q.gone = p.gone + 1)) ∧
       (s.hopOk p r = none → exec (.routerPacketReceive r h) s = .next s)) ∧
     (∀ port, p.at_ ≠ p.dst → p.circ = false → meshPort p.at_ r = some port →
       (s.linkUp (8 * p.at_ + port) = false ∨ s.slotKept p port = true → s.hopOk p r = none) ∧
       (s.linkUp (8 * p.at_ + port) = true → s.slotKept p port = false →
         (p.at_ / 128 ≠ p.dst / 128 → s.hopOk p r = some false) ∧
         (p.at_ / 128 = p.dst / 128 →
           s.hopOk p r = if meshDist r p.dst < meshDist p.at_ p.dst then some false else if p.late = true ∧ p.nonmin < 8 then some true else none))) ∧
     (s.pkt k = some p →
       (p.at_ ≠ p.dst → p.since + 32 ≤ s.clock → exec (.nonminTimeout k) s = .next { s with pkts := SMap.set s.pkts k (some { p with late := true }) }) ∧
       (p.at_ = p.dst ∨ s.clock < p.since + 32 → exec (.nonminTimeout k) s = .next { s with pkts := SMap.set s.pkts k (some p) }) ∧
       (p.wantsPeg = false → p.since + s.sec.conf.pegTimeout ≤ s.clock →
         exec (.pegRequest k) s = .next ({ s with pkts := SMap.set s.pkts k (some { p with wantsPeg := true }) }.countAt p.at_ 5)) ∧
       (p.wantsPeg = true ∨ s.clock < p.since + s.sec.conf.pegTimeout → exec (.pegRequest k) s = .next s) ∧
       (s.pegPkt = none → s.pegHeld = false → r = pegNext s.peg →
         s.pkts.find? (fun e => match e.2 with | some p => p.wantsPeg && p.at_ == r | none => false) = some (k, some p) → exec (.pegArrival r) s = .next
           ({ s with
              peg := r
              pegSeen := s.clock
              pegPkt := some k
              pkts := SMap.set s.pkts k (some { p with hdr := p.hdr ||| BitVec.ofNat 128 (2 ^ 28), wantsPeg := false }) }.countAt r 6)) ∧
       (s.pegPkt = some k → ∃ t : State, exec .burrowDelivery s = .next t ∧ t.pegPkt = none ∧ t.peg = p.dst ∧ t.pegSeen = s.clock ∧ t.mem = s.mem ∧
         (staysInPkts p → t.cores = s.cores ∧ t.pkt k = some { p with at_ := p.dst, since := s.clock }) ∧
         (∀ x, p.body = .chunk x → t.pkt k = none ∧ t.fab.tens = s.fab.tens ++ [x]))) ∧
     (s.pkt k = none → exec (.nonminTimeout k) s = .next s ∧ exec (.pegRequest k) s = .next s) ∧
     (s.pegPkt = none → s.pegHeld = false → r = pegNext s.peg → (∀ e ∈ s.pkts, ∀ p, e.2 = some p → p.wantsPeg = false ∨ p.at_ ≠ r) →
       exec (.pegArrival r) s = .next { s with peg := r, pegSeen := s.clock }) ∧
     (s.pegPkt ≠ none ∨ s.pegHeld = true ∨ r ≠ pegNext s.peg → exec (.pegArrival r) s = .next s) ∧
     (s.pegPkt ≠ none ∨ s.pegHeld = true ∨ s.clock < s.pegSeen + 608 → exec .pegReissue s = .next s) ∧
     (s.pegPkt = none → exec .burrowDelivery s = .next s) ∧
     (s.pegPkt = none → s.pegHeld = false → s.pegSeen + 608 ≤ s.clock → exec .pegReissue s = .next ({ s with peg := 0, pegSeen := s.clock }.countAt 0 0x14))) ∧
  (∀ (s : State) (n : Nat),
     let x := s.link n
     let at_ := linkRouter n
     (s.sec.conf.joined.getLsbD (n / 2) = true → exec (.linkFlitNak (16384 + n)) s = exec (.linkFlitNak (16384 + n / 2 * 2)) s) ∧
     (n < 16384 ∨ s.sec.conf.joined.getLsbD ((n - 16384) / 2) = false →
       (x.retired = true ∨ x.training = true → exec (.linkFlitNak n) s = .next s) ∧
       (x.retired = false → x.training = false → x.fails < 3 → exec (.linkFlitNak n) s = .next ((s.countAt at_ 7).setLink n { x with fails := x.fails + 1 })) ∧
       (x.retired = false → x.training = false → 3 ≤ x.fails →
         exec (.linkFlitNak n) s = .next (((s.countAt at_ 7).setLink n (if x.bucket + 1 < s.sec.conf.budget
           then { x with fails := 0, bucket := x.bucket + 1, training := true, exchange := false }
           else { x with fails := 0, bucket := x.bucket + 1, training := false, retired := true, exchange := true })).countAt at_ 0x10))) ∧
     (x.training = true → exec (.linkRetrainComplete n) s = .next (s.setLink n { x with training := false, fails := 0 })) ∧
     (x.training = false → x.exchange = true → exec (.linkRetrainComplete n) s = .next (s.setLink n { x with exchange := false, recompute := true })) ∧
     (x.training = false → x.exchange = false → x.recompute = true →
       (s.pegPkt ≠ none → exec (.linkRetrainComplete n) s = .next s) ∧
       (s.pegPkt = none → n < 16384 → exec (.linkRetrainComplete n) s = .next ((s.setLink n { x with recompute := false }).countAt at_ 0x11)) ∧
       (s.pegPkt = none → 16384 ≤ n → ∃ t : State, exec (.linkRetrainComplete n) s = .next t ∧ t.link n = { x with recompute := false } ∧
         ∀ m, m < 8 → ∃ e, e.type = 6 ∧ e.e1 = BitVec.ofNat 64 (s.portOf (n - 16384)) ∧ (e ∈ (t.marten m 0).queue ∨ e ∈ (t.marten m 0).held))) ∧
     (x.training = false → x.exchange = false → x.recompute = false → exec (.linkRetrainComplete n) s = .next s) ∧
     exec (.bucketLeak n) s = .next (if s.clock < x.leakAt + s.sec.conf.leak * 2400000000 then s else s.setLink n { x with bucket := x.bucket - 1, leakAt := s.clock }) ∧
     (x.exchange = true → ∃ t : State, exec (.linkExchangeTimeout n) s = .next t ∧ t.link n = { x with exchange := false } ∧ t.mem = s.mem ∧ t.cores = s.cores ∧
       (∀ k l, s.launch k = some l → t.launch k = some (if l.finished then { l with line := true } else { l with line := true, finished := true, endc := 3, code := 0 })) ∧
       ∀ m k, (t.marten m k).steps = (s.marten m k).steps.map fun t => { t with err := some (t.err.getD 3) }) ∧
     (x.exchange = false → exec (.linkExchangeTimeout n) s = .next s))

/-! ## The port switch -/

namespace Sys2Proof.Claims

/-- A payload of a connection itself, not one that opens or refuses one or is for another package. -/
def carries : FabPayload → Bool
  | .foreign .. | .setup .. | .noSetup _ | .denied => false
  | _ => true

end Sys2Proof.Claims

/-- R380, R382 to R384: a peer that asks for a mode the part does not implement is refused; a packet the connection has is a duplicate, counted and acknowledged again; one beyond the window is discarded,
and one without a key or a true tag is discarded and reported; any other is received, C passes every packet received in a row, it is acknowledged and delivered; a packet for another package is in transit.
R383, R422: an acknowledgement frees the packets it names, and the third in a row that shows one hole posts SACKGAP, a congestion mark CMARK; an expired time-out posts TIMEOUT for the
oldest packet, and the third in a row on one entropy value PATHLOSS; nothing is sent again by itself. -/
def Obligations.TransportEvents : Prop :=
  (∀ (s : State) (c psn : Nat) (auth : Bool) (pay : FabPayload),
     let keyed := fun (w : Nat) => w = 0 ∨ (auth = true ∧ (s.worldRec w).fabric ≠ none)
     let got := exec (.fabricPacketReceive c psn auth pay) s
     (∀ x, carries pay = true → s.conn c = some x ∨ (s.conn c = none ∧ s.peerConn c pay = some x) →
       let i := (psn + 2 ^ 32 - x.rx) % 2 ^ 32
       let dup := 2 ^ 31 ≤ i ∨ (i < 64 ∧ x.rxMap.getLsbD i = true)
       (¬keyed x.world → got = .next (s.tell c psn .denied)) ∧
       (keyed x.world →
         (dup → exec (.fabricPacketReceive c psn auth pay) s = .next (((s.count 0x17).connEvent c 4 0 1 0).sendAck c x)) ∧
         (¬dup → 64 ≤ i → exec (.fabricPacketReceive c psn auth pay) s = .next s) ∧
         (¬dup → i < 64 → x.ordered = false → s.refusesContribution x pay = false →
           exec (.fabricPacketReceive c psn auth pay) s = .next (((s.setConn c (x.receive i)).sendAck c (x.receive i)).deliverPayload c (x.receive i) pay)) ∧
         (¬dup → i < 64 → s.refusesContribution x pay = true → exec (.fabricPacketReceive c psn auth pay) s = .next ((s.count 0x19).sendAck c x)))) ∧
     (carries pay = true → s.conn c = none → s.peerConn c pay = none → got = .next s) ∧
     (∀ dst d, pay = .foreign dst d → dst ≠ s.pkg →
       got = .next { s with fab := { s.fab with transit := s.fab.transit ++ [{ conn := c, psn := psn, ent := 0, payload := pay }] } }) ∧
     (∀ src w mode hop, pay = .setup src w mode hop →
       (1 < mode ∨ (mode = 1 ∧ hop = true) → got = .next (s.tell c psn (.noSetup mode))) ∧
       (mode = 0 ∨ (mode = 1 ∧ hop = false) →
         (¬keyed w → got = .next (s.tell c psn .denied)) ∧
         (keyed w → s.conn c = none → src < s.npkg → src ≠ s.pkg → c < 65535 → w < 16 →
           got = .next (s.setConn c { world := w, peer := src, hop := hop, ordered := mode == 1 })))) ∧
     (∀ k, exec (.transitHoldExpire k) s = .next { s with fab := { s.fab with transit := s.fab.transit.eraseIdx k } }) ∧
     ∀ (x : Conn) (i : Nat), i < 64 → ∃ k, k ≤ 64 ∧ (x.receive i).rx % 2 ^ 32 = (x.rx + k) % 2 ^ 32 ∧ (∀ j, j < k → x.rxMap.getLsbD j = true ∨ j = i) ∧
       (x.receive i).rxMap.getLsbD 0 = false ∧ ∀ j, j < 64 → (x.receive i).rxMap.getLsbD j = (decide (j + k < 64) && (x.rxMap.getLsbD (j + k) || j + k == i))) ∧
  (∀ (s : State) (c cum : Nat) (map : BitVec 64) (mark : Bool),
     (s.conn c = none → exec (.fabricAckReceive c cum map mark) s = .next s ∧ exec (.transportRtoExpire c) s = .next s) ∧
     (∀ x, s.conn c = some x → x.queue = [] →
       let acked := fun (o : Sent) => decide ((cum + 2 ^ 32 - o.psn) % 2 ^ 32 < 2 ^ 31) ||
         (decide ((o.psn + 2 ^ 32 - cum - 1) % 2 ^ 32 < 64) && map.getLsbD ((o.psn + 2 ^ 32 - cum - 1) % 2 ^ 32))
       let out := x.out.filter fun o => !acked o
       let holes := out.filter fun o => decide ((o.psn + 2 ^ 32 - cum - 1) % 2 ^ 32 < 64) && map >>> ((o.psn + 2 ^ 32 - cum - 1) % 2 ^ 32) != 0#64
       let marked := fun (s : State) => if mark then
         (match (x.out.filter acked).getLast? with
          | some o => s.connEvent c 3 0 (BitVec.ofNat 64 (o.ent + 2 ^ 32)) o.lid
          | none => s.connEvent c 3 0 (BitVec.ofNat 64 (x.ent + 2 ^ 32)) 0) else s
       let shown := fun (o : Sent) => SMap.get 0 x.gaps o.psn + 1
       let t := s.setConn c { x with out := out, cum := cum, gaps := holes.foldl (fun m o => SMap.put 0 m o.psn (if shown o = 3 then 0 else shown o)) [] }
       ((∀ o ∈ holes, shown o ≠ 3) → exec (.fabricAckReceive c cum map mark) s = .next (marked t)) ∧
       (∀ o l, holes = o :: l → (∃ q ∈ holes, shown q = 3) →
         exec (.fabricAckReceive c cum map mark) s = .next (marked (t.connEvent c 2 o.psn (psnMap o.psn (holes.map Sent.psn)) o.lid)))) ∧
     ∀ x, s.conn c = some x → (x.out = [] → exec (.transportRtoExpire c) s = .next s) ∧
       (∀ o l, x.out = o :: l →
         let n := if x.losses ≠ 0 ∧ x.lossEnt = o.ent then x.losses + 1 else 1
         let t := (s.setConn c { x with lossEnt := o.ent, losses := if n = 3 then 0 else n }).connEvent c 1 o.psn (psnMap o.psn (x.out.map Sent.psn)) o.lid
         exec (.transportRtoExpire c) s = .next (if n = 3 then t.connEvent c 5 0 (BitVec.ofNat 64 o.ent) o.lid else t)))

/-- R425: the firmware takes the first event of its queue: TIMEOUT sends every packet again and halves the window, SACKGAP sends the named ones, CMARK halves the window once a round trip, PATHLOSS takes the
entropy value out of the mask unless it is the last, SLOTLOST fails the reduction.
R385, R386, R397: a read of memory answers its bytes, or a mark and none of them for a world whose block it is not or a poisoned line; a write stores its bytes; what the grants do not permit is refused with WORLD; two fetch-and-adds of one
address combine into one that adds the sum of their operands. -/
def Obligations.FirmwareAndRequests : Prop :=
  (∀ (s : State) (m : Nat),
     let x := s.marten m 0
     (x.queue = [] → exec (.firmwareEventAction m) s = .next s) ∧
     ∀ e l, x.queue = e :: l →
       let t := s.setMarten m 0 ({ x with queue := l }.refill)
       (∀ y, s.conn e.conn = some y →
         (e.type = 2 → exec (.firmwareEventAction m) s = .next (t.resend e.conn (named e.psn e.e1)).1) ∧
         (e.type = 3 → exec (.firmwareEventAction m) s = .next (t.setConn e.conn
           (if y.halved.any fun k => decide (s.clock < k + y.rto * 3 / 2) then y else { y with window := max 1 (y.window / 2), halved := some s.clock }))) ∧
         (e.type = 5 →
           let mask := y.mask &&& ~~~(BitVec.ofNat 16 (2 ^ (e.e1.toNat % 16)))
           exec (.firmwareEventAction m) s = .next (t.setConn e.conn (if mask = 0 then y else { y with mask := mask }))) ∧
         (e.type = 1 → ∃ u y', exec (.firmwareEventAction m) s = .next u ∧ u.conn e.conn = some y' ∧ y'.window = max 1 (y.window / 2) ∧ y'.out.map Sent.psn = y.out.map Sent.psn ∧
           u.fab.wire.length = t.fab.wire.length + y.out.length)) ∧
       (e.type = 7 → ∀ l, s.launch e.lid = some l → exec (.firmwareEventAction m) s = .next (t.rfail e.lid l.world (e.e1.toNat % 65536)))) ∧
  (∀ (s : State) (c : Nat) (r : FabReq),
     ((∀ e ∈ s.fab.serve, e.2 ≠ r) → exec (.fabricRequestServe r) s = .next s) ∧
     (s.fab.serve.find? (fun e => e.2 == r) = some (c, r) → SMap.get none s.fab.combined (2 ^ 32 * c + r.tagId) = none →
       let t := { s with fab := { s.fab with serve := s.fab.serve.erase (c, r) } }
       let u := t.homeLoad (r.addr / 64) r.world
       let may := fun w => populated r.addr = true ∧ (r.world = 0 ∨ ∃ n, n < 64 ∧ grantOk (s.grant n) r.world r.addr w = true)
       let no := [BitVec.ofNat 8 cWORLD]
       let other := s.recorded (r.addr / 64) != r.world
       (r.kind = .read → may false → other = false → u.linePoison (r.addr / 64) = false → exec (.fabricRequestServe r) s =
         .next (u.connSend c 0 (.reply r.tagId true false (leBytes r.rows (s.loadNat r.addr r.rows))))) ∧
       (r.kind = .read → may false → other = true ∨ u.linePoison (r.addr / 64) = true → ∃ d : List Byte, d.length = r.rows ∧ exec (.fabricRequestServe r) s =
         .next ({ u with freeCtr := u.freeCtr + 1 }.connSend c 0 (.reply r.tagId true true d))) ∧
       (r.kind = .read → ¬may false → exec (.fabricRequestServe r) s = .next (t.connSend c 0 (.reply r.tagId false false no))) ∧
       (r.kind = .write → may true → (r.world = 0 → s.recorded (r.addr / 64) = 0) → exec (.fabricRequestServe r) s =
         .next (((t.homeStore (r.addr / 64) r.world (r.data.length == 64) (r.compare != 0) false).storeBytes r.addr r.data).connSend c 0 (.reply r.tagId true false []))) ∧
       (r.kind = .write → ¬may true ∨ (r.world = 0 ∧ s.recorded (r.addr / 64) ≠ 0) → exec (.fabricRequestServe r) s = .next (t.connSend c 0 (.reply r.tagId false false no))) ∧
       (∀ o n z ar, r.kind = .atomic (.aop o) n z ar → may true → s.recorded (r.addr / 64) = r.world → u.linePoison (r.addr / 64) = false → exec (.fabricRequestServe r) s =
         let old := u.loadNat r.addr n
         .next (((u.homeStore (r.addr / 64) r.world false false false).storeNat r.addr n
           (atomicOf o z (BitVec.ofNat (8 * n) old) (BitVec.ofNat (8 * n) r.operand.toNat)).toNat).connSend c 0 (.reply r.tagId true false (leBytes n old))))) ∧
     ∀ (i j d n : Nat) (z z' ar : Bool) (q : FabReq), s.fab.serve[i]? = some (c, r) → s.fab.serve[j]? = some (d, q) → i ≠ j →
       r.kind = .atomic (.aop .add) n z ar → q.kind = .atomic (.aop .add) n z' ar → r.world = q.world → r.addr = q.addr →
       exec (.faaCombine i j) s = .next { s with fab := { s.fab with
         serve := (s.fab.serve.set i (c, { r with operand := BitVec.ofNat 128 ((r.operand.toNat + q.operand.toNat) % 2 ^ (8 * n)) })).eraseIdx j
         combined := SMap.set (SMap.erase s.fab.combined (2 ^ 32 * d + q.tagId)) (2 ^ 32 * c + r.tagId) (some ⟨s.members c r ++ s.members d q, n⟩) } })

/-! ## Collective steps on their way -/

/-- R391 to R396, R406, R433, R434: a contribution of an epoch past is discarded and counted; one that finds no slot waits and is counted once; one whose connection has contributed is discarded; any other is joined
to its slot, at the offset of its rows, SEEN and COUNT changing with the last of its input, and the result goes out when every contributor has been heard; a slot lost is freed and reported; a result reaches the e.coll that waits for it, or is discarded; a multicast is replicated here.
R440, R441, R443: an announcement of the receiver tells the sending step its rows, which then go out, and one of the sender tells the receiving step; a row reaches the step that receives it and is
placed, for k.rrs combined once its own receiver is ready, past the count discarded; deliveries to a halted launch wait; a step that is done leaves OSC and, where it ends in error, posts STEPERR. -/
def Obligations.ReductionAndStepEvents : Prop :=
  (∀ (s : State) (p : TensorPkt) (hop : Option Nat) (n g k : Nat) (t : TPkt),
     let u := { s with fab := { s.fab with tens := s.fab.tens.erase t } }
     ((∀ t ∈ s.fab.tens, t.dest ≠ .contribution hop ∨ t.p ≠ p) → exec (.reductionContribution hop p) s = .next s) ∧
     (s.fab.tens.find? (fun t => t.dest == .contribution hop && t.p == p) = some t →
       (p.epoch < s.epochOf p.world p.rid p.chunk → exec (.reductionContribution hop p) s = .next (u.count 0x18)) ∧
       (s.epochOf p.world p.rid p.chunk ≤ p.epoch →
         (s.slotOf p.world p.rid p.chunk = none → t.held = true → exec (.reductionContribution hop p) s = .next s) ∧
         (s.slotOf p.world p.rid p.chunk = none → t.held = false → ∃ v, exec (.reductionContribution hop p) s = .next v ∧ v.fab.tens = s.fab.tens.map (fun w => if w = t then { w with held := true } else w) ∧
           v.events = (s.count 0x19).events) ∧
         (∀ k r, s.slotOf p.world p.rid p.chunk = some (k, r) →
           (p.epoch ≠ r.epoch ∨ r.seen.getLsbD p.cin = true → exec (.reductionContribution hop p) s = .next (u.count 0x18)) ∧
           (p.epoch = r.epoch → r.seen.getLsbD p.cin = false →
             let rows := SMap.get 0 r.got p.cin + (p.els.length + 3) / 4
             let w := { r with els := joinEls r.op r.els (4 * p.lrow) p.els, poison := (r.poison ++ p.poison.map (4 * p.lrow + ·)).eraseDups, got := SMap.put 0 r.got p.cin rows }
             let v := if rows < p.total then w else { w with seen := r.seen ||| (BitVec.ofNat 64 (2 ^ p.cin)), count := r.count + p.ccnt + 1 }
             exec (.reductionContribution hop p) s = .next (
               if v.seen ≠ v.expect then { u with fab := { u.fab with slots := SMap.set u.fab.slots k (some v) } }
               else if v.count ≠ v.ncon then u.loseSlot k v
               else if v.root then (u.freeRSlot k).sendResult v else (u.freeRSlot k).sendUp v))))) ∧
     (∀ r, SMap.get none s.fab.slots k = some r → exec (.slotLost k) s = .next (((s.freeRSlot k).count 0x1A).slotLostEvent r s.pkg)) ∧
     (SMap.get none s.fab.slots k = none → exec (.slotLost k) s = .next s) ∧
     (s.fab.tens.find? (fun t => t.dest == .result n && t.p == p) = some t →
       let c := s.core n
       (c.spr.world.toNat ≠ p.world ∨ c.resultFor p = none →
         exec (.reductionResultDelivery n p) s = .next (if s.lineOf c.lid then s else u.countAt (s.routerOf n) 0x16)) ∧
       (c.spr.world.toNat = p.world → ∀ m y j, c.resultFor p = some (m, y, j) → s.lineHolds m = true → exec (.reductionResultDelivery n p) s = .next s) ∧
       (c.spr.world.toNat = p.world → ∀ m y j, c.resultFor p = some (m, y, j) → s.lineHolds m = false → ∃ v : State, exec (.reductionResultDelivery n p) s = .next v ∧
         v = u.setCore n (c.onView m fun w => if p.tck = 6 then w.putRanks m y j p else w.putResult m y j p) ∧ (v.core n).regs = c.regs ∧ (∀ q, v.byte q = s.byte q) ∧ ∀ k, k ≠ n → v.core k = s.core k)) ∧
     (s.fab.tens.find? (fun t => t.dest == .mcast (4096 * k + g) && t.p == p) = some t →
       exec (.multicastDelivery g k p) s = .next (u.replicate g p .none t.lid))) ∧
  (∀ (s : State) (k : StepKey) (rows row m c : Nat) (po : Bool) (data : Row) (t : StepOp),
     let x := s.marten m c
     let note := fun (n : Nat) (t : StepOp) => { t with err := if n = 0 then some 2 else t.err }
     let heard := { s with fab := { s.fab with ctsIn := s.fab.ctsIn.erase (k, rows) } }
     ((k, rows) ∉ s.fab.ctsIn → exec (.clearToSendArrival k rows) s = .next s) ∧
     ((k, rows) ∈ s.fab.ctsIn →
       (rows < 65536 → s.findStep (fun x t => t.sends && t.sendKey x == k && t.cts.isNone) = some (m, c, t) →
         (s.lineOf x.lid = true → exec (.clearToSendArrival k rows) s = .next s) ∧
         (s.lineOf x.lid = false →
           let u := heard.modMarten m c fun x => x.modStep t.id fun t => { note rows t with cts := some rows }
           exec (.clearToSendArrival k rows) s = .next (if t.kind = 0 then u.takeRows m c t.id (min rows t.rows) else u))) ∧
       (65536 ≤ rows → s.findStep (fun x t => t.receives && t.recvKey x == k && t.peer.isNone) = some (m, c, t) →
         (s.lineOf x.lid = true → exec (.clearToSendArrival k rows) s = .next s) ∧
         (s.lineOf x.lid = false → exec (.clearToSendArrival k rows) s = .next (heard.modMarten m c fun x => x.modStep t.id fun t =>
           { note (rows % 65536) t with peer := some (rows % 65536) })))) ∧
     ((k, row, po, data) ∉ s.fab.rowsIn → exec (.stepRowArrival k row po data) s = .next s) ∧
     ((k, row, po, data) ∈ s.fab.rowsIn → s.findStep (fun x t => t.receives && t.recvKey x == k) = some (m, c, t) →
       (s.lineOf x.lid = true ∨ row ∈ t.got → exec (.stepRowArrival k row po data) s = .next s) ∧
       (s.lineOf x.lid = false → row ∉ t.got →
         let u := (s.dropStepRow k row).modMarten m c fun x => x.modStep t.id fun t => { t with got := row :: t.got }
         (t.rows ≤ row → exec (.stepRowArrival k row po data) s = .next (s.dropStepRow k row)) ∧
         (row < t.rows → t.kind = 1 → exec (.stepRowArrival k row po data) s = .next (u.placeRow m c x t row data po)) ∧
         (row < t.rows → t.kind = 2 → t.cts = none → exec (.stepRowArrival k row po data) s = .next s) ∧
         (row < t.rows → t.kind = 2 → t.cts ≠ none → t.dar = .none → exec (.stepRowArrival k row po data) s = .next (u.combineRow m c x t row 0 data po)))) ∧
     ∀ id, x.step id = some t →
       (s.lineOf x.lid = true ∨ (t.late = [] ∧ s.stepDone x t = none) → exec (.stepComplete m c id) s = .next s) ∧
       (s.lineOf x.lid = false → t.late = [] →
         let finished := s.modMarten m c fun x => { x with steps := x.steps.filter fun u => u.id != id }
         (s.stepDone x t = some none → exec (.stepComplete m c id) s = .next finished) ∧
         (∀ e, x.run = .running → s.stepDone x t = some (some e) → exec (.stepComplete m c id) s = .next ((finished.count 0x1C).modMarten m c fun x =>
           x.post ⟨9, 0xFFFF, 0, BitVec.ofNat 64 (t.rid + 2 ^ 16 * t.step + 2 ^ 30 * e), x.lid⟩))))

/-! ## The launch scheduler -/

namespace Sys2Proof.Claims

/-- No program of an ended launch stands in its slot, no start waits for a core, no victim leaves its clusters. -/
def noneWaits (s : State) : Prop := s.endedPrograms = [] ∧ s.retryStarts = s ∧ ∀ e ∈ s.launches, ∀ v, e.2 = some v → v.leaving = []

end Sys2Proof.Claims

/-- R348, R350: a 128-byte write to the launch port is one record: a disabled or full queue drops it and sets QDROP; one that fails a check is refused with the number of the first, after a LID of its own; any other
joins its queue with that LID, its effective priority and the waits it does not have met.
R343, R352, R354, R355: a wait of a queue's head is met once its word holds the sequence or more; of the heads that are ready one of the highest effective priority is taken, the others' pass counts rise and, past 63, their
priorities; before it comes the third run of a paired launch of no lower priority; a head that fits the free clusters is placed, one that no longer passes its checks is refused, one that does not fit pre-empts where its
queue has a pool with room for them; a third run is placed where no head is ready, too. -/
def Obligations.LaunchAcceptedAndDispatched : Prop :=
  (∀ (s : State) (bytes : List Byte),
     let rec_ : BitVec 1024 := BitVec.ofNat 1024 (leNat bytes)
     let r := parseRcd rec_
     let q := s.queue r.queue
     let t := s.takeLid
     (bytes.length = 128 →
       (q.qen = false ∨ 64 ≤ q.items.length → exec (.lportWrite bytes) s = .next (s.setQueue r.queue { q with qdrop := true })) ∧
       (q.qen = true → q.items.length < 64 →
         (∀ k, t.refusal r false = some k → exec (.lportWrite bytes) s =
           .next (if r.done % 64 = 0 ∧ (k ≠ 5 ∨ t.blockOk r = true) then t.release r s.nextLid (5 + 256 * k + 2 ^ 32 * s.nextLid) else t)) ∧
         (t.refusal r false = none → exec (.lportWrite bytes) s = .next (t.setQueue r.queue { q with items := q.items ++
           [{ rcd := rec_, lid := s.nextLid, ep := r.prio, met0 := r.w0 == 0, met1 := r.w1 == 0 }] })))) ∧
     (bytes.length ≠ 128 → exec (.lportWrite bytes) s = .next s.lbadWrite) ∧
     t.nextLid = (if s.nextLid = 2 ^ 32 - 1 then 1 else s.nextLid + 1) ∧
     (360448 < r.sp → t.refusal r false = some 1) ∧
     (r.sp ≤ 360448 → r.fieldsOk = true → (t.taskOf r.img r.task).isSome = true → r.world ≠ q.qworld → t.refusal r false = some 4) ∧
     (∀ x, t.taskOf r.img r.task = some x → r.taskFits x = false → t.refusal r false ≠ none)) ∧
  (∀ (s : State) (q : Nat) (i : QItem) (l : List QItem), (s.queue q).items = i :: l →
     let r := parseRcd i.rcd
     (i.ready = true → exec (.launchWaitRecheck q) s = .next s) ∧
     (∀ pa z, i.ready = false → i.met0 = true → (s.walkReads r.world r.root [r.w1]).schedLoc r.world r.root r.w1 false = some (.mem pa z) →
       let x := (s.walkReads r.world r.root [r.w1]).homeRead pa 8 r.world
       (x.2.2 = false → x.2.1 = s.loadNat pa 8) ∧ exec (.launchWaitRecheck q) s = .next (if r.q1 ≤ x.2.1 then x.1.meetWait q i.lid 1 else x.1)) ∧
     (∀ qs, s.readyQueues = q :: qs →
       q < 32 ∧ i.ready = true ∧ (∀ k j m, k < 32 → (s.queue k).items = j :: m → j.ready = true → j.ep < 8 → j.ep ≤ i.ep) ∧
       (∀ k j m, k < 32 → k ≠ q → (s.queue k).items = j :: m → ((s.popHead q).queue k).items =
         (if j.ready then (if j.pass = 63 then { j with pass := 0, ep := min 7 (j.ep + 1) } else { j with pass := j.pass + 1 }) else j) :: m) ∧
       ((∀ j m, l = j :: m → j.resume = true ∨ s.refusal (parseRcd j.rcd) false = none) → ((s.popHead q).queue q).items = l) ∧ (s.popHead q).rrq = (q + 1) % 32 ∧
       (noneWaits s → ∀ t, (s.thirds i.ep).findSome? s.thirdRun = some t → exec .launchDispatch s = .next t) ∧
       (noneWaits s → (∀ e ∈ s.launches, ∀ v, e.2 = some v → v.third = false) → i.resume = true →
         ∀ t, (s.popHead q).resumeLaunch i.lid i.ep = some t → exec .launchDispatch s = .next t) ∧
       (noneWaits s → (∀ e ∈ s.launches, ∀ v, e.2 = some v → v.third = false) → i.resume = false →
         (∀ k, s.refusal r false = some k → exec .launchDispatch s = .next (s.refuseHead q i k)) ∧
         (s.refusal r false = none →
           (∀ cs, r.places s.clusterFree = some cs → (s.wantsMartens r.img = false ∨ s.slotsFree = true) → exec .launchDispatch s = .next ((s.popHead q).placeLaunch i cs)) ∧
           (∀ cs vs, r.places s.clusterFree = none → (s.wantsMartens r.img = false ∨ s.slotsFree = true) →
             let pool := (s.queue q).qsave
             pool ≠ 0 → s.preempting i.lid = false → s.preemptPlan (s.needsPlaces r) (s.victims i.ep) = some (cs, vs) → s.poolRoom pool cs.length = true →
             exec .launchDispatch s = .next (vs.foldl (fun s v => s.beginPreempt i.lid pool cs v) s))))) ∧
     (s.readyQueues = [] → noneWaits s → exec .launchDispatch s = .next (((s.thirds 0).findSome? s.thirdRun).getD s)))

/-- R287, R323, R344, R353, R357, R412: a launch's clusters are released once its tasks have ended and what it does elsewhere has performed; a paired one's runs are compared first; after the release, when all it
began has completed, its completion block is written and what else it held is freed.
R285, R286: a defective cluster that no launch holds gives its place to the die's spare, or is off where there is none; a launch that holds it ends early with END 4 where no spare is left, and otherwise is halted until
the cluster can be moved, and goes on then; circuits that pass the replaced cluster are built again. -/
def Obligations.LaunchReleasedAndDefects : Prop :=
  (∀ (s : State) (lid : Nat),
     (s.launch lid = none → exec (.clusterRelease lid) s = .next s ∧ exec (.launchCompletionRelease lid) s = .next s) ∧
     ∀ l, s.launch lid = some l →
       (l.released = true ∨ l.third = true ∨ s.allEnded l = false ∨ s.remoteDone l = false → exec (.clusterRelease lid) s = .next s) ∧
       (l.released = false → l.third = false → s.allEnded l = true → s.remoteDone l = true →
         (l.rcd.getLsbD 24 = false → exec (.clusterRelease lid) s = .next (((s.leaveAll l).endPrograms lid).modLaunch lid fun l => { l with released := true })) ∧
         (l.rcd.getLsbD 24 = true → ∀ k, (s.keepSigs l).outcome = some k →
           exec (.clusterRelease lid) s = .next ((s.leaveAll (s.keepSigs l)).setLaunch { s.keepSigs l with released := true, pair := k, circs := [] })) ∧
         (l.rcd.getLsbD 24 = true → (s.keepSigs l).outcome = none →
           exec (.clusterRelease lid) s = .next ((s.leaveAll (s.keepSigs l)).setLaunch { s.keepSigs l with third := true, circs := [] }))) ∧
       (l.finished = false ∨ l.released = false ∨ s.workDone lid = false → exec (.launchCompletionRelease lid) s = .next s) ∧
       (l.finished = true → l.released = true → s.workDone lid = true →
         ∃ t : State, exec (.launchCompletionRelease lid) s = .next t ∧ t.launch lid = none ∧
           t = ((s.release (parseRcd l.rcd) lid (l.endc + 256 * l.code + 65536 * l.pair + 2 ^ 32 * lid)).reportPair l.pair).freeAfter lid ∧
           (∀ b, (t.barrier b).bound = true → (t.barrier b).lidb ≠ lid) ∧ (∀ k r, SMap.get none t.fab.slots k = some r → r.lid ≠ lid) ∧
           ∀ n, (t.core n).regs = (s.core n).regs) ∧
       ∀ k : Launch, k.endc = 0 → k.clusters.length = 2 → k.outcome = (if k.sig 0 = k.sig 1 then some 0 else none)) ∧
  (∀ (s : State) (c : Nat),
     let d := dieOf (clusterCore c 0)
     (32 ≤ c ∨ s.clusterOff c = true → exec (.clusterDefect c) s = .next s) ∧
     (c < 32 → s.clusterOff c = false →
       (s.holderOf c = none →
         let cs := s.circuitsAt (s.inPhysCluster c)
         let u := (((s.takeCircuits cs).moveCluster c).loseCluster c).mapRows
         exec (.clusterDefect c) s = .next { u.rebuildCircuits cs with defects := u.defects.erase c }) ∧
       (∀ l, s.holderOf c = some l →
         let u := { s with defects := if s.defects.contains c then s.defects else s.defects ++ [c] }
         ((s.sister d).spare = 15 →
           exec (.clusterDefect c) s = .next { ((u.raiseLine l.lid).failLaunch l.lid 4 0).loseCluster c with defects := u.defects.erase c }) ∧
         ((s.sister d).spare ≠ 15 → l.finished = true → exec (.clusterDefect c) s = .next u) ∧
         ((s.sister d).spare ≠ 15 → l.finished = false →
           let t := u.modLaunch l.lid fun l => { l with line := true, defect := some c }
           (t.canLeave l.lid c = false → exec (.clusterDefect c) s = .next t) ∧
           (t.canLeave l.lid c = true → exec (.clusterDefect c) s =
             .next ((((t.zeroCounts l.lid).replaceCluster c).modLaunch l.lid fun l => { l with defect := none }).lowerLine l.lid))))) ∧
     (s.loseCluster c).sister d = (if (s.sister d).spare = 15
       then { s.sister d with off := (s.sister d).off ||| BitVec.ofNat 8 (2 ^ dieCluster (clusterCore c 0)), phys := (s.sister d).phys.set (dieCluster (clusterCore c 0)) 15 }
       else { s.sister d with phys := (s.sister d).phys.set (dieCluster (clusterCore c 0)) (s.sister d).spare, spare := 15 }))

/-! ## The security processor, power, the debugger -/

namespace Sys2Proof.Claims

/-- A command of the security processor ends with a result (R365). -/
def ends (s : State) (res : Nat) : State := { s with sec := { s.sec with cmd := none, res := res } }

end Sys2Proof.Claims

/-- R365, R366, R374: WOPEN gives a closed world an owner and a fresh key; KEYLOAD takes a key the world's owner has signed for; WCLOSE, refused while a launch or an enabled queue is of the world, destroys its keys, images and blocks; TOKEN takes
a debug token the owner has signed for this device and configuration; a signature whose index its key's limit has passed answers 4; a command that is not the running one does nothing.
R304, R366, R368 to R371: REKEY gives a world a new key and starts the sweeps of its ranges; CONFIG takes a configuration image the vendor has signed and that is no older; ATTEST writes a signed report and counts it; LOAD keeps an image that passes
every check, under the next number, or answers the first check that fails; UNLOAD drops an image nothing uses; an unknown command ends with 5. -/
def Obligations.WorldAndImageCommands : Prop :=
  (∀ (s : State) (w : Nat),
     let r := s.worldRec w
     let signed := fun n o => hssVerify r.owner (s.argBytes 0 n) (s.argBytes o 5076)
     let spent := fun o => (s.sec.conf.keys ++ s.sec.conf.fwKeys).any fun k => k.1 == r.owner && k.2 ≤ hssIndex (s.argBytes o 5076)
     (s.sec.cmd ≠ some (2, w) → exec (.spcmdWopen w) s = .next s) ∧ (s.sec.cmd ≠ some (3, w) → exec (.spcmdKeyload w) s = .next s) ∧
     (s.sec.cmd ≠ some (4, w) → exec (.spcmdWclose w) s = .next s) ∧ (s.sec.cmd ≠ some (5, w) → exec (.spcmdToken w) s = .next s) ∧
     (s.sec.cmd = some (2, w) → exec (.spcmdWopen w) s = .next (if w = 0 then ends s 5 else if r.isOpen then ends s 3 else
       ends { s.setWorldRec w { isOpen := true, owner := s.argBytes 0 60, oldKey := Config.freshKey s.freeCtr } with freeCtr := s.freeCtr + 1 } 0)) ∧
     (s.sec.cmd = some (3, w) →
       (s.worldOpen w = false → exec (.spcmdKeyload w) s = .next (ends s 3)) ∧
       (s.worldOpen w = true → signed 124 128 = false → exec (.spcmdKeyload w) s = .next (ends s 1)) ∧
       (s.worldOpen w = true → signed 124 128 = true → spent 128 = true → exec (.spcmdKeyload w) s = .next (ends s 4)) ∧
       (s.worldOpen w = true → signed 124 128 = true → spent 128 = false →
         (s.argNat 48 1 = 1 → exec (.spcmdKeyload w) s = .next (ends (s.setWorldRec w { r with owners := r.owners ++ [s.argBytes 64 60] }) 0)) ∧
         (s.argNat 48 1 ≠ 1 → keyUnwrap Config.provisioningKey (s.argBytes 8 40) = none → exec (.spcmdKeyload w) s = .next (ends s 5)) ∧
         (∀ k, keyUnwrap Config.provisioningKey (s.argBytes 8 40) = some k →
           (s.argNat 48 1 = 0 → exec (.spcmdKeyload w) s = .next (ends (s.setWorldRec w { r with transport := SMap.put none r.transport (s.argNat 0 8) (some k) }) 0)) ∧
           (s.argNat 48 1 = 2 → exec (.spcmdKeyload w) s = .next (ends (s.setWorldRec w { r with fabric := some k }) 0))))) ∧
     (s.sec.cmd = some (4, w) →
       let used := (∃ e ∈ s.launches, ∃ l, e.2 = some l ∧ l.world = w) ∨ ∃ e ∈ s.queues, e.2.qworld = w ∧ (e.2.qen = true ∨ e.2.items ≠ [])
       (w = 0 ∨ r.isOpen = false ∨ used → exec (.spcmdWclose w) s = .next (ends s 3)) ∧
       (w ≠ 0 → r.isOpen = true → ¬used → ∃ t : State, exec (.spcmdWclose w) s = .next t ∧ t = ends (s.closeWorld w) 0 ∧ (t.worldRec w).isOpen = false ∧
         (∀ k i, SMap.get none t.sec.images k = some i → i.world ≠ w) ∧ (∀ b, (t.block b).world = w → (t.block b).bad = true) ∧ (∀ k x, t.l2Line k = some x → s.l2Line k = some x ∧ x.world ≠ w) ∧
         ∀ p, t.byte p = s.byte p)) ∧
     (s.sec.cmd = some (5, w) →
       (s.worldOpen w = false → exec (.spcmdToken w) s = .next (ends s 3)) ∧
       (s.worldOpen w = true → signed 38 64 = false → exec (.spcmdToken w) s = .next (ends s 1)) ∧
       (s.worldOpen w = true → signed 38 64 = true → spent 64 = true → exec (.spcmdToken w) s = .next (ends s 4)) ∧
       (s.worldOpen w = true → signed 38 64 = true → spent 64 = false →
         let level := s.argNat 33 1
         let fits := s.argNat 0 1 = w ∧ s.argNat 1 32 = s.identityDigest.toNat ∧ (level = 1 ∨ level = 2) ∧ s.argNat 34 4 = s.sec.confVersion
         (fits → exec (.spcmdToken w) s = .next (ends (s.setWorldRec w { r with token := level }) 0)) ∧ (¬fits → exec (.spcmdToken w) s = .next (ends s 5))))) ∧
  (∀ (s : State) (w : Nat),
     let r := s.worldRec w
     let range := fun (k : Nat) => (s.argNat (16 * k) 8 / 512, s.argNat (16 * k + 8) 8 / 512)
     let cmd := s.sec.cmd
     (cmd ≠ some (7, w) → exec (.spcmdRekey w) s = .next s) ∧
     (cmd = some (7, w) →
       (s.worldOpen w = false ∨ r.newKey ≠ none → exec (.spcmdRekey w) s = .next (ends s 3)) ∧
       (s.worldOpen w = true → r.newKey = none → ∀ k, k < 16 → (∀ j, j < 16 → (j = k ↔ (range j).1 < (range j).2)) → (s.sweep k).go = false →
         blockCtl (range k).1 = k → blockCtl ((range k).2 - 1) = k → exec (.spcmdRekey w) s = .next (ends
           ({ s.setWorldRec w { r with newKey := some (Config.freshKey s.freeCtr) } with freeCtr := s.freeCtr + 1 }.setSweep k
             { wid := w, go := true, base := (range k).1, end_ := (range k).2, ptr := (range k).1, pause := (s.sweep k).pause, live := true }) 0))) ∧
     ((∀ v, cmd ≠ some (1, v)) → exec .spcmdConfig s = .next s) ∧
     (cmd = some (1, w) →
       let n := s.argNat 8 8
       let b := s.secBytes (s.argNat 0 8) (n - 5076)
       let sig := s.secBytes (s.argNat 0 8 + (n - 5076)) 5076
       let vendor := Config.vendorKey :: s.sec.conf.fwKeys.map Prod.fst
       let spent := fun k (g : List Byte) => (s.sec.conf.keys ++ s.sec.conf.fwKeys).any fun l => l.1 == k && l.2 ≤ hssIndex g
       let signed := fun m g => vendor.any fun k => hssVerify k m g && !spent k g
       let t := s.secFetch (s.argNat 0 8) n
       let u := t.setVersion (confFrom b).version
       exec .spcmdConfig s = .next (if n < 5076 then ends s 5 else if (vendor.any fun k => hssVerify k b sig) = false then ends t 1 else if signed b sig = false then ends t 4
         else if ((confIdentity b).any fun k => !signed k.1 k.2) = true then ends t 1
         else if (confFrom b).version < s.sec.confVersion then ends t 2
         else ends { u with sec := { u.sec with confNext := some (confFrom b) } } 0)) ∧
     (∀ v k, v ≠ s.sec.confVersion → (s.setVersion v).sec.confVersion = v ∧ ((s.setVersion v).worldRec k).token = 0) ∧
     ((∀ v, cmd ≠ some (6, v)) → exec .spcmdAttest s = .next s) ∧
     (cmd = some (6, w) →
       let both := s.worldOpen w = true ∧ s.worldOpen (s.argNat 72 1) = true
       (¬both → exec .spcmdAttest s = .next (ends s 3)) ∧
       (both → 2 ^ 20 ≤ s.sec.index → exec .spcmdAttest s = .next (ends s 4)) ∧
       (both → s.sec.index < 2 ^ 20 → ∃ (t : State) (b : List Byte), exec .spcmdAttest s = .next t ∧ t.sec.cmd = none ∧ t.sec.res = 0 ∧ t.sec.index = s.sec.index + 1 ∧
         b = leBytes 4 1 ++ digestBytes s.identityDigest ++ digestBytes Config.firmwareDigest ++ leBytes 4 s.sec.confVersion ++ leBytes 1 (s.argNat 72 1) ++ leBytes 3 0 ++
           leBytes 4 (s.argNat 76 4) ++ digestBytes (s.lidDigest (s.argNat 76 4)) ++ s.argBytes 112 32 ++ leBytes 4 s.sec.index ∧
         t.loadBytes s.sec.sparg b.length = b)) ∧
     ((∀ v, cmd ≠ some (10, v)) → exec .spcmdLoad s = .next s) ∧
     (cmd = some (10, w) →
       let imps := (List.range (s.argNat 32 4)).map fun i => s.argNat (64 + 8 * i) 8
       let a : LoadArg := ⟨s.argNat 0 8, s.argNat 8 8, s.argNat 16 8, s.argNat 24 5 % 2 ^ 37 * 4096, s.argNat 29 1, imps⟩
       let b := s.secBytes a.ipa a.isize
       let t := s.secFetch a.ipa a.isize
       let zero := s.argNat 24 5 < 2 ^ 37 ∧ s.argNat 30 2 = 0 ∧ s.argNat 36 28 = 0
       let answer := fun (s : State) number status res => ends (s.secWrite s.sec.sparg (leBytes 2 number ++ leBytes 1 status)) res
       (s.worldOpen a.world = false → exec .spcmdLoad s = .next (answer s 0 0 3)) ∧
       (s.worldOpen a.world = true → a.ipa % 64 ≠ 0 ∨ a.dva % 64 ≠ 0 ∨ ¬zero → exec .spcmdLoad s = .next (answer s 0 0 5)) ∧
       (s.worldOpen a.world = true → a.ipa % 64 = 0 → a.dva % 64 = 0 → zero →
         (∀ k, s.lxoCheck a b = .error k → exec .spcmdLoad s = .next (answer t 0 k 5)) ∧
         (∀ l, s.lxoCheck a b = .ok l → s.sec.nextImage < 2 ^ 16 → exec .spcmdLoad s = .next (answer (t.keepImage a b l) s.sec.nextImage 0 0)))) ∧
     ((∀ v, cmd ≠ some (11, v)) → exec .spcmdUnload s = .next s) ∧
     (cmd = some (11, w) →
       let k := s.argNat 0 2
       let used := (∃ e ∈ s.launches, ∃ l, e.2 = some l ∧ l.img = k) ∨ ∃ e ∈ s.queues, ∃ i ∈ e.2.items, (parseRcd i.rcd).img = k
       (s.argNat 2 62 ≠ 0 ∨ SMap.get none s.sec.images k = none → exec .spcmdUnload s = .next (ends s 5)) ∧
       (s.argNat 2 62 = 0 → SMap.get none s.sec.images k ≠ none → (used → exec .spcmdUnload s = .next (ends s 3)) ∧
         (¬used → exec .spcmdUnload s = .next (ends { s with sec := { s.sec with images := SMap.erase s.sec.images k } } 0)))) ∧
     (∀ o, cmd = some (o, w) → o = 0 ∨ 11 < o → exec (.spcmdInvalid o) s = .next (ends s 5)) ∧
     (∀ o, (∀ v, cmd ≠ some (o, v)) ∨ (o ≠ 0 ∧ o ≤ 11) → exec (.spcmdInvalid o) s = .next s))

/-- R275, R280, R301, R371, R374 to R378: a warm start is refused while a launch is held and otherwise scrubs every core, the queues' registers and the barriers staying; package sleep drops the debug tokens and of the weight stores everything; a cold start leaves every register at its reset value but the monotonic counters, the configuration and the row maps, and every HBM byte
zero; a core with no task enters retention, or is gated and keeps nothing; a thermal trip turns the package off. -/
def Obligations.PowerEvents : Prop :=
  ∀ (s : State) (n : Nat) (on : Bool) (w : Nat),
    let c := s.core n
    let held := (∃ e ∈ s.launches, e.2 ≠ none) ∨ ∃ e ∈ s.queues, e.2.items ≠ []
    ((∀ v, s.sec.cmd ≠ some (8, v)) → exec .spcmdWarm s = .next s) ∧ ((∀ v, s.sec.cmd ≠ some (9, v)) → exec .spcmdSleep s = .next s) ∧
    (s.sec.cmd = some (8, w) → (held → exec .spcmdWarm s = .next (ends s 3)) ∧
      (¬held → ∃ t : State, exec .spcmdWarm s = .next t ∧ t = ends s.warmStart 0 ∧ (∀ k, (t.core k).regs = {} ∧ (t.core k).sp = [] ∧ (t.core k).run = .idle ∧ (t.core k).l1 = []) ∧
        t.clusters = [] ∧ t.queues = s.queues ∧ t.barriers = s.barriers ∧ ∀ p, t.byte p = s.byte p)) ∧
    (s.sec.cmd = some (9, w) → (held ∨ (∃ e ∈ s.cores, e.2.run = .debug) → exec .spcmdSleep s = .next (ends s 3)) ∧
      (¬held → (∀ e ∈ s.cores, e.2.run ≠ .debug) → ∃ t : State, exec .spcmdSleep s = .next t ∧ t.sec.power = .sleep ∧ t.sec.res = 0 ∧ t.sec.cmd = none ∧
        (∀ k, (t.worldRec k).token = 0) ∧ t.ws = [] ∧ t.mem = s.mem)) ∧
    (s.sec.power = .sleep → ∃ t : State, exec .sleepExit s = .next t ∧ t.sec.power = .on ∧ (∀ k, (t.core k).regs = {}) ∧ ∀ p, t.byte p = s.byte p) ∧
    (s.sec.power ≠ .sleep → exec .sleepExit s = .next s) ∧
    (∃ t : State, exec .coldStart s = .next t ∧ t.sec.power = .on ∧ (∀ k, ∃ m, t.core k = { State.reset.core k with rowMap := m }) ∧ (∀ p, isHost p = false → t.byte p = 0) ∧ (∀ p, isHost p = true → t.byte p = s.byte p) ∧
      (∀ b, t.block b = {}) ∧ (∀ q, (t.queue q).qen = false) ∧ (∀ k, (t.worldRec k).isOpen = false) ∧ t.launches = [] ∧ t.sec.confVersion = s.sec.confVersion ∧
      ((∀ c, s.sec.confNext = some c → c.identity = none) → t.sec.index = s.sec.index)) ∧
    (∃ t : State, exec .thermalTrip s = .next t ∧ t.sec.power = .off) ∧
    exec (.retentionEntry n) s = .next (s.modCore n fun c => if c.run = .idle ∧ c.powerOff = false then { c with retention := true } else c) ∧
    (c.run = .idle → c.cmds = [] → c.accsOver = true → (∀ e ∈ c.owner, e.2 ≠ .task) → ∃ t : State, exec (.powerGateEntry n) s = .next t ∧
      t.core n = { rowMap := c.rowMap, tick := c.tick, powerOff := true } ∧ (∀ p, t.byte p = s.byte p)) ∧
    (c.run ≠ .idle ∨ c.cmds ≠ [] ∨ c.accsOver = false ∨ (∃ e ∈ c.owner, e.2 = .task) → exec (.powerGateEntry n) s = .next s) ∧
    exec (.powerThrottle on) s = .next { s with sec := { s.sec with throttle := on } }

/-- R348, R365, R386: a register of the device-control range takes the bits a write may change: a queue's enable and world, its drop flag cleared by a one, its save area; the argument page; a command, which a running one keeps out; an entry of the grant table;
a write that touches the launch port and is no record counts in LBAD; a word with no register ignores its write.
R372 to R374: a launch of a world with an invasive token is halted and held by the debugger, whose writes of a stopped core are committed state, whose step commits one group and leaves a record, and whose release lets the line fall; without the token nothing happens, and the trace of a protected world shows
no more than its values of CAUSE. -/
def Obligations.DeviceAndDebug : Prop :=
  (∀ (s : State) (q n : Nat) (v : Word), q < 32 → n < 64 →
     let x := s.queue q
     exec (.registerWrite (0x1000 + 32 * q) v) s = .next (s.setQueue q { x with qen := v.getLsbD 0, qworld := (v.extractLsb' 1 4).toNat }) ∧
     exec (.registerWrite (0x1008 + 32 * q) v) s = .next (s.setQueue q { x with qdrop := x.qdrop && !v.getLsbD 7 }) ∧
     exec (.registerWrite (0x1010 + 32 * q) v) s = .next (s.setQueue q { x with qsave := (v &&& 0x1FFFFFFFFF000).toNat }) ∧
     exec (.registerWrite (0x1018 + 32 * q) v) s = .next (s.setQueue q { x with qstk := (v &&& 0xFFFFFFFFFFF000).toNat }) ∧
     exec (.registerWrite 0x10000 v) s = .next { s with sec := { s.sec with sparg := (v &&& 0x1FFFFFFFFF000).toNat } } ∧
     exec (.registerWrite 0x10008 v) s = .next { s with sec := { s.sec with
       cmd := if s.sec.cmd = none then some ((v.extractLsb' 0 8).toNat, (v.extractLsb' 8 4).toNat) else s.sec.cmd } } ∧
     (∃ t : State, exec (.registerWrite (0x13400 + 16 * n) v) s = .next t ∧ t = { s with fab := { s.fab with grants := t.fab.grants } } ∧
       (t.grant n).extractLsb' 0 64 = (v &&& 0x1FFFFFFFFF03F) ∧ (t.grant n).extractLsb' 64 64 = (s.grant n).extractLsb' 64 64 ∧ ∀ k, k ≠ n → t.grant k = s.grant k) ∧
     (∃ t : State, exec (.registerWrite (0x13408 + 16 * n) v) s = .next t ∧ t = { s with fab := { s.fab with grants := t.fab.grants } } ∧
       (t.grant n).extractLsb' 64 64 = (v &&& 0x1FFFFFFFFF000) ∧ (t.grant n).extractLsb' 0 64 = (s.grant n).extractLsb' 0 64 ∧ ∀ k, k ≠ n → t.grant k = s.grant k) ∧
     exec (.registerWrite 0x14008 v) s = .next { s with sec := { s.sec with 
       evTail := (v.extractLsb' 0 12).toNat, evFull := s.sec.evFull && (v.extractLsb' 0 12).toNat == s.sec.evTail, evLost := s.sec.evLost && !v.getLsbD 12 } } ∧
     exec (.registerWrite 8 v) s = .next { s with lbad := min (s.lbad + 1) 65535 } ∧
     (∀ o, o ∈ [0x80, 0x10010, 0x11000, 0x12000, 0x13000, 0x14000, 0x14100] → exec (.registerWrite o v) s = .next s) ∧
     s.devWord (0x1000 + 32 * q) = (if x.qen then 1 else 0) + 2 * x.qworld ∧ s.devWord 0x80 = s.nextLid + 2 ^ 32 * s.lbad) ∧
  (∀ (s : State) (lid n : Nat) (l : Launch) (item : DbgItem) (v : VReg),
     let c := s.core n
     (s.launch lid = some l →
       (s.debugLevel l.world = 2 → exec (.debugHalt lid) s = .next { s with launches := SMap.set s.launches lid (some { l with line := true, dbg := true }) }) ∧
       (s.debugLevel l.world ≠ 2 → exec (.debugHalt lid) s = .next s) ∧
       (l.dbg = false → exec (.debugResume lid) s = .next s) ∧
       (l.dbg = true → ∃ t : State, exec (.debugResume lid) s = .next t ∧ (∀ k, (t.core k).run ≠ .debug ∨ (t.core k).lid ≠ lid) ∧ (∀ k, (t.core k).regs = (s.core k).regs ∧ (t.core k).pc = (s.core k).pc) ∧
         ∀ m, t.launch lid = some m → m.dbg = false)) ∧
     (exec (.debugAccess n item none) s = .next s) ∧
     ((s.debugged n = false ∨ DbgItem.ok item = false) → exec (.debugAccess n item (some v)) s = .next s) ∧
     (s.debugged n = true →
       (∀ k, k < 32 → exec (.debugAccess n (.sreg k) (some v)) s = .next (s.modCore n fun c => { c with regs := c.regs.writeS k (v.extractLsb' 0 64) false })) ∧
       (∀ k, k < 16 → exec (.debugAccess n (.qreg k) (some v)) s = .next (s.modCore n fun c => { c with regs := c.regs.writeQ k (v.extractLsb' 0 256) false })) ∧
       (∀ k, k < 32 → exec (.debugAccess n (.vreg k) (some v)) s = .next (s.modCore n fun c => { c with regs := c.regs.writeV k (BitVec.allOnes 1024) v 0 })) ∧
       (∀ k, k < 4 → exec (.debugAccess n (.wreg k) (some v)) s = .next (s.modCore n fun c => { c with regs := c.regs.writeW k (v.extractLsb' 0 128) })) ∧
       (∀ o, o < c.banks * 4096 → ∃ t : State, exec (.debugAccess n (.row o) (some v)) s = .next t ∧ (t.core n).row (o / 64) = v.extractLsb' 0 512 ∧ (t.core n).rowPoison (o / 64) = false ∧
         ∀ r, r ≠ o / 64 → (t.core n).row r = c.row r) ∧
       (∀ k, k < 32 → exec (.debugAccess n (.special k) (some v)) s = .next (s.modCore n fun c =>
         let w := v.extractLsb' 0 64
         let r := c.spr
         { c with spr :=
             if k = 0 then { r with tx := w.setWidth _ } else if k = 1 then { r with ty := w.setWidth _ }
             else if 8 ≤ k ∧ k ≤ 15 then { r with mb := SMap.put 0 r.mb (k - 8) w }
             else if 16 ≤ k ∧ k ≤ 22 then r.write k w
             else if k = 23 then { r with cyc := w } else if k = 24 then { r with stall := w } else if k = 26 then { r with wref := w } else r })) ∧
       (∀ k, k < 64 → exec (.debugAccess n (.handle k) (some v)) s = .next (s.modCore n id) ∧ s.debugRead n (.handle k) = some ((c.handle k).entry.setWidth 1024))) ∧
     (s.debugged n = false → exec (.debugStep n) s = .next s) ∧
     (s.debugged n = true →
       let u := (s.modCore n fun c => { c with run := .running }).coreGroup n
       let d := u.core n
       exec (.debugStep n) s = .next (if d.run ≠ .running ∨ d.handler = true then u
         else if d.spr.stall ≠ c.spr.stall then u.modCore n fun d => { d with run := c.run } else u.stopCore n cBREAK c.run)) ∧
     ∀ t : State, s.debugLevel c.spr.world.toNat = 0 →
       (c.spr.world.toNat = 0 → State.traceOf n s t = []) ∧ ∀ r ∈ State.traceOf n s t, r.item = .cause (t.core n).spr.cause)

/-! ## Memory, reset and the invariant of a step -/

/-- A byte written reads as written and every other as before; a number stored reads back little-endian, modulo its width, and no byte outside changes; every write keeps the canonical form, in which memories with equal bytes are
equal (R4, R289; the canonical form is the model's). -/
def Obligations.MemoryOperations : Prop :=
  (∀ (s : State) (a p : Nat) (b : Byte), (s.putByte a b).byte p = (if p = a then b else s.byte p) ∧ (Memory.wf s.mem → Memory.wf (s.putByte a b).mem)) ∧
  (∀ (s : State) (a n x : Nat), (s.storeNat a n x).loadNat a n = x % 256 ^ n ∧ (∀ i, i < n → (s.storeNat a n x).byte (a + i) = BitVec.ofNat 8 (x / 256 ^ i)) ∧
    (∀ p, p < a ∨ a + n ≤ p → (s.storeNat a n x).byte p = s.byte p) ∧ (Memory.wf s.mem → Memory.wf (s.storeNat a n x).mem)) ∧
  (∀ (s : State) (a : Nat) (l : List Byte), (s.storeBytes a l).loadBytes a l.length = l ∧ (∀ p, p < a ∨ a + l.length ≤ p → (s.storeBytes a l).byte p = s.byte p) ∧
    (Memory.wf s.mem → Memory.wf (s.storeBytes a l).mem)) ∧
  ∀ (s t : State), Memory.wf s.mem → Memory.wf t.mem → (∀ p, s.byte p = t.byte p) → s.mem = t.mem

/-- R301, R348, R357, R377: after cold start every byte reads as zero and no block fails, every block stands in world 0, every queue is disabled, every barrier is free, no core has a task, the memory is in its canonical form, and the first LID is 1. -/
def Obligations.ResetState : Prop :=
  let s := State.reset
  Memory.wf s.mem ∧ (∀ p, s.byte p = 0) ∧ (∀ b, (s.block b).world = 0 ∧ (s.block b).bad = false) ∧ (∀ q, (s.queue q).qen = false ∧ (s.queue q).items = []) ∧
  (∀ b, (s.barrier b).bound = false ∧ (s.barrier b).pend = 0) ∧ (∀ n, (s.core n).run = .idle ∧ (s.core n).handler = false) ∧ s.nextLid = 1 ∧ s.sec.power = .on ∧
  ∀ n k, (s.core n).regs.rs k = 0 ∧ (s.core n).regs.rp 0 = true ∧ (s.core n).regs.rw 0 = BitVec.allOnes 128

/-- The memory of every state a step reaches from a state in canonical form is in canonical form, whatever moves: a core, a communication core, an event. -/
def Obligations.StepKeepsMemory : Prop :=
  ∀ s t : State, s.Sound → step s = .next t → t.Sound
end

