-- ==== Sys2Proof/Laws/Sparse.lean ====
section
/-! SUPPORT. Reading after writing a table, and the canonical form every write keeps. -/
namespace Sys2Proof.SMap

variable {α : Type}

theorem get_erase_same (d : α) (m : SMap α) (n : Nat) : get d (erase m n) n = d := by
  induction m with
  | nil => rfl
  | cons e m ih =>
    obtain ⟨k, v⟩ := e
    by_cases h : k = n <;> simp [erase, get, h, ih]

theorem get_erase_ne (d : α) (m : SMap α) {n k : Nat} (h : k ≠ n) : get d (erase m n) k = get d m k := by
  induction m with
  | nil => rfl
  | cons e m ih =>
    obtain ⟨j, v⟩ := e
    by_cases hj : j = n
    · have hk : n ≠ k := fun e => h e.symm
      simp [erase, get, hj, ih, hk]
    · simp [erase, get, hj, ih]

theorem get_place_same (d : α) (m : SMap α) (n : Nat) (v : α) (h : get d m n = d) (hk : ∀ e ∈ m, e.1 ≠ n) :
    get d (place n v m) n = v := by
  induction m with
  | nil => simp [place, get]
  | cons e m ih =>
    obtain ⟨k, w⟩ := e
    have hkn : k ≠ n := hk (k, w) (by simp)
    by_cases hlt : n < k
    · simp [place, get, hlt]
    · have h' : get d m n = d := by simpa [get, hkn] using h
      simp [place, get, hlt, hkn, ih h' (fun e he => hk e (by simp [he]))]

theorem get_place_ne (d : α) (m : SMap α) {n k : Nat} (v : α) (h : k ≠ n) : get d (place n v m) k = get d m k := by
  have hk : n ≠ k := fun e => h e.symm
  induction m with
  | nil => simp [place, get, hk]
  | cons e m ih =>
    obtain ⟨j, w⟩ := e
    by_cases hlt : n < j
    · simp [place, get, hlt, hk]
    · simp [place, get, hlt, ih]

theorem not_mem_erase (m : SMap α) (n : Nat) : ∀ e ∈ erase m n, e.1 ≠ n := by
  induction m with
  | nil => simp [erase]
  | cons e m ih =>
    obtain ⟨k, v⟩ := e
    by_cases h : k = n
    · simpa [erase, h] using ih
    · simp only [erase, h, if_false, List.mem_cons]
      rintro e (rfl | he)
      · exact h
      · exact ih e he

/-- Reading back what was written. -/
@[simp] theorem get_put_same [DecidableEq α] (d : α) (m : SMap α) (n : Nat) (v : α) : get d (put d m n v) n = v := by
  unfold put
  split
  · rename_i h; rw [get_erase_same, h]
  · exact get_place_same d _ n v (get_erase_same d m n) (not_mem_erase m n)

/-- A write leaves every other key alone. -/
theorem get_put_ne [DecidableEq α] (d : α) (m : SMap α) {n k : Nat} (v : α) (h : k ≠ n) :
    get d (put d m n v) k = get d m k := by
  unfold put
  split
  · exact get_erase_ne d m h
  · rw [get_place_ne d _ v h, get_erase_ne d m h]

theorem get_put [DecidableEq α] (d : α) (m : SMap α) (n k : Nat) (v : α) :
    get d (put d m n v) k = if k = n then v else get d m k := by
  by_cases h : k = n
  · simp [h]
  · simp [h, get_put_ne d m v h]

@[simp] theorem get_set_same (d : α) (m : SMap α) (n : Nat) (v : α) : get d (set m n v) n = v :=
  get_place_same d _ n v (get_erase_same d m n) (not_mem_erase m n)

theorem get_set_ne (d : α) (m : SMap α) {n k : Nat} (v : α) (h : k ≠ n) : get d (set m n v) k = get d m k := by
  unfold set
  rw [get_place_ne d _ v h, get_erase_ne d m h]

/-- Placing an entry and taking its key out again. -/
theorem erase_place (m : SMap α) (n : Nat) (v : α) : erase (place n v m) n = erase m n := by
  induction m with
  | nil => simp [place, erase]
  | cons e m ih =>
    obtain ⟨k, w⟩ := e
    simp only [place]
    split
    · simp [erase]
    · simp only [erase, ih]

theorem erase_erase (m : SMap α) (n : Nat) : erase (erase m n) n = erase m n := by
  induction m with
  | nil => rfl
  | cons e m ih =>
    obtain ⟨k, w⟩ := e
    simp only [erase]
    split
    · exact ih
    · simp [erase, *]

/-- A key set twice holds what was set last. -/
theorem set_set (m : SMap α) (n : Nat) (v w : α) : set (set m n v) n w = set m n w := by
  simp only [set, erase_place, erase_erase]

theorem get_set (d : α) (m : SMap α) (n k : Nat) (v : α) : get d (set m n v) k = if k = n then v else get d m k := by
  by_cases h : k = n
  · simp [h]
  · simp [h, get_set_ne d m v h]

@[simp] theorem get_nil (d : α) (n : Nat) : get d ([] : SMap α) n = d := rfl

theorem get_upd [DecidableEq α] (d : α) (m : SMap α) (n k : Nat) (f : α → α) :
    get d (upd d m n f) k = if k = n then f (get d m n) else get d m k := get_put d m n k _

theorem wfFrom_mono [DecidableEq α] (d : α) {lo lo' : Nat} (h : lo' ≤ lo) (m : SMap α) (hw : wfFrom d lo m = true) :
    wfFrom d lo' m = true := by
  cases m with
  | nil => rfl
  | cons e m =>
    obtain ⟨k, v⟩ := e
    simp only [wfFrom, Bool.and_eq_true, decide_eq_true_eq] at hw ⊢
    exact ⟨⟨Nat.le_trans h hw.1.1, hw.1.2⟩, hw.2⟩

theorem wfFrom_erase [DecidableEq α] (d : α) (lo n : Nat) (m : SMap α) (hw : wfFrom d lo m = true) :
    wfFrom d lo (erase m n) = true := by
  induction m generalizing lo with
  | nil => rfl
  | cons e m ih =>
    obtain ⟨k, v⟩ := e
    simp only [wfFrom, Bool.and_eq_true, decide_eq_true_eq] at hw
    by_cases h : k = n
    · simp only [erase, h, if_true]
      exact wfFrom_mono d (by omega) _ (ih (k + 1) hw.2)
    · simp only [erase, h, if_false, wfFrom, Bool.and_eq_true, decide_eq_true_eq]
      exact ⟨hw.1, ih (k + 1) hw.2⟩

theorem wfFrom_place [DecidableEq α] (d : α) (lo n : Nat) (v : α) (m : SMap α) (hlo : lo ≤ n) (hv : v ≠ d)
    (hk : ∀ e ∈ m, e.1 ≠ n) (hw : wfFrom d lo m = true) : wfFrom d lo (place n v m) = true := by
  induction m generalizing lo with
  | nil => simp [place, wfFrom, hlo, hv]
  | cons e m ih =>
    obtain ⟨k, w⟩ := e
    simp only [wfFrom, Bool.and_eq_true, decide_eq_true_eq] at hw
    by_cases hlt : n < k
    · simp only [place, hlt, if_true, wfFrom, Bool.and_eq_true, decide_eq_true_eq]
      exact ⟨⟨hlo, hv⟩, ⟨by omega, hw.1.2⟩, hw.2⟩
    · have hkn : k ≠ n := hk (k, w) (by simp)
      simp only [place, hlt, if_false, wfFrom, Bool.and_eq_true, decide_eq_true_eq]
      exact ⟨hw.1, ih (k + 1) (by omega) (fun e he => hk e (by simp [he])) hw.2⟩

/-- Every write keeps the canonical form. -/
theorem wf_put [DecidableEq α] (d : α) (m : SMap α) (n : Nat) (v : α) (hw : wf d m = true) : wf d (put d m n v) = true := by
  unfold put
  split
  · exact wfFrom_erase d 0 n m hw
  · rename_i hv
    exact wfFrom_place d 0 n v _ (Nat.zero_le _) hv (not_mem_erase m n) (wfFrom_erase d 0 n m hw)

theorem wf_upd [DecidableEq α] (d : α) (m : SMap α) (n : Nat) (f : α → α) (hw : wf d m = true) :
    wf d (upd d m n f) = true := wf_put d m n _ hw

@[simp] theorem wf_nil [DecidableEq α] (d : α) : wf d ([] : SMap α) = true := rfl

end Sys2Proof.SMap
end

