-- ==== Sys2Proof/Laws/Issue.lean ====
section
/-! SUPPORT. What an instruction alone in its group comes to: it completes, stalls or traps. -/
namespace Sys2Proof.Machine

/-- The checks before issue do not look at the meaning of a slot. -/
theorem preIssue_solo (c : Core) (paired : Bool) (off : Nat) (i : Instr) (f : SlotFn)
    (h : (c.preIssue paired off [soloItem i off]).isNone = true) :
    c.preIssue paired off [⟨some i, f, slotOf i, off + 1, false⟩] = none := by
  simp only [Core.preIssue, Core.badEncoding, soloItem, List.find?, overCount, Core.schedFail, Option.isNone_iff_eq_none, List.filter_nil, List.length_nil] at h ⊢
  generalize c.badTarget off (some i) = b1 at h ⊢
  generalize (!i.wf || mtsReadOnly i) = b2 at h ⊢
  generalize c.lacksPriv paired i = b3 at h ⊢
  by_cases h1 : slotMost (slotOf i) ≤ 0
  · cases b1 <;> simp [h1] at h
  · cases b1 <;> cases b2 <;> cases b3 <;> simp [h1] at h ⊢ <;> exact h

/-- What passes every check before issue passes each. -/
theorem preIssue_none {c : Core} {paired : Bool} {off : Nat} {items : List Item} (h : c.preIssue paired off items = none) :
    c.badEncoding paired off items = none ∧ c.schedFail 0 [] items = none := by
  simp only [Core.preIssue] at h
  split at h
  · cases h
  · exact ⟨‹_›, by simpa using h⟩

/-- Where check 5 finds nothing a group comes to what its slots do. -/
theorem checked_none {c : Core} {items : List Item} (h : c.schedFail 0 [] items = none) (r : GroupOut) : r.checked c items = r := by
  cases r <;> simp only [GroupOut.checked, h]

theorem core_modCore (s : State) (n k : Nat) (f : Core → Core) :
    (s.modCore n f).core k = if k = n then f (s.core n) else s.core k := by
  simp only [State.modCore, State.setCore, State.core, SMap.get_set]

@[simp] theorem core_modCore_same (s : State) (n : Nat) (f : Core → Core) : (s.modCore n f).core n = f (s.core n) := by
  rw [core_modCore, if_pos rfl]

theorem core_modCore_ne (s : State) {n k : Nat} (f : Core → Core) (h : k ≠ n) : (s.modCore n f).core k = s.core k := by
  rw [core_modCore, if_neg h]

@[simp] theorem begun_core (s : State) : s.begun.core s.cur = { s.core s.cur with drain := none } := core_modCore_same ..

/-- No unit is zeroed before the slot of an instruction other than c.scrub. -/
theorem scrubOf_solo (c : Core) {i : Instr} (h : isScrub i = false) (f : SlotFn) (sl : Slot) (off : Nat) :
    c.scrubOf [⟨some i, f, sl, off, false⟩] = 0 := by
  cases i <;> first | rfl | exact absurd h (by simp [isScrub])

/-- The core in which the slot of such an instruction runs. -/
theorem begun_solo (c : Core) {i : Instr} (h : isScrub i = false) (f : SlotFn) (sl : Slot) (off : Nat) :
    c.begun [⟨some i, f, sl, off, false⟩] = { c with drain := none } := by
  simp [Core.begun, scrubOf_solo c h, Core.scrubbed]

/-- The one slot of a group, live and with no poisoned source, runs its meaning. -/
theorem runItem_solo {i : Instr} {f : SlotFn} {s t : State} (hg : (s.core s.cur).guardTrue (guardOf i) = true)
    (hc : (readsOf i).any (s.core s.cur).poisoned = false) :
    runItem ⟨s.cur, (s.core s.cur).pc, (s.core s.cur).pc + 1 + (slotOf i).bytes, (s.core s.cur).pc, .c, false,
      (s.core s.cur).segCount + 1, (s.core s.cur).signature [⟨some i, f, slotOf i, (s.core s.cur).pc + 1, false⟩], { s.core s.cur with drain := none }⟩
      ⟨some i, f, slotOf i, (s.core s.cur).pc + 1, false⟩ t = f (soloCtx i s) t := by
  simp only [runItem]
  rw [if_pos (show ({ s.core s.cur with drain := none } : Core).guardTrue (guardOf i) = true from hg),
    if_neg (by rw [show ({ s.core s.cur with drain := none } : Core).poisoned = (s.core s.cur).poisoned from rfl, hc]; exact Bool.false_ne_true)]
  rfl

/-- What the slot of an instruction alone in its group makes of the machine. -/
def soloOut (i : Instr) (s : State) : SlotOut → State
  | .stall w => s.stallCycle s.cur w (isFwait i)
  | .ask l => (s.stallCycle s.cur none (isFwait i)).askAll s.cur l
  | .trap cause fa code =>
    if cause = cBREAK ∧ s.debugLevel (s.core s.cur).spr.world.toNat = 2 then s.debugBreak s.cur code
    else s.takeTrap s.cur cause (slotOf i).code false code fa (s.core s.cur).pc
  | .ok s' k =>
    match k with
    | .finish => (soloNext i s s' k).taskEnded s.cur (s.core s.cur).handler
    | .tret _ => ((soloNext i s s' k).lowerLine (s.core s.cur).lid).haltAtReturn s.cur
    | .trapi code =>
      ((soloNext i s s' k).takeTrap s.cur cTRAPI 0 false code 0 ((s.core s.cur).pc + 1 + (slotOf i).bytes)).modCore s.cur fun c =>
        if c.run = .nested then { c with hoff := (s.core s.cur).pc } else c
    | _ => soloNext i s s' k

/-- An instruction alone in its group that is grouped with a live slot: what its slot comes to. -/
theorem issueSolo_eq {i : Instr} {f : SlotFn} {s : State} (h : s.issuesSolo i = true) (hi : isScrub i = false) :
    issueSolo i f s = .next (soloOut i s (f (soloCtx i s) s.begun)) := by
  simp only [State.issuesSolo, Core.issuesSolo, Core.grouped, Bool.and_eq_true, Bool.not_eq_true', Bool.or_eq_true] at h
  obtain ⟨⟨⟨⟨ha, hp⟩, hs⟩, hg⟩, hc⟩ := h
  obtain ⟨hp', hk⟩ := preIssue_none (preIssue_solo _ _ _ _ f hp)
  have hs' : (s.core s.cur).groupStalls [⟨some i, f, slotOf i, (s.core s.cur).pc + 1, false⟩] = false := hs
  have hasync : (!(s.core s.cur).handler && !(s.core s.cur).async.isEmpty) = false := by
    rcases ha with ha | ha <;> simp [ha]
  have hb : (s.modCore s.cur fun c => c.begun [⟨some i, f, slotOf i, (s.core s.cur).pc + 1, false⟩]) = s.begun := by
    simp only [begun_solo _ hi, State.begun]
  have hrun := fun t : State => runItem_solo (f := f) (t := t) hg hc
  simp only [issueSolo, issueGroup, hasync, hp', hs', checked_none hk, Bool.false_eq_true, if_false, waitsFlag, List.any_cons, List.any_nil, runItems, hb, hrun]
  congr 1
  cases hf : f (soloCtx i s) s.begun with
  | stall w => simp [soloOut, SlotOut.isStall]
  | ask l => simp [soloOut, SlotOut.isStall]
  | trap => simp [soloOut, firstStall]
  | ok s' k =>
    cases k with
    | trapi code =>
      have hb : ∀ (it : Item) (p : Item → Bool), it.second = false →
          (match [it].find? p with | some it => it.second | none => false) = false := by
        intro it p h
        cases hp : p it <;> simp [List.find?, hp, h]
      exact congrArg (fun b => ((soloNext i s s' (.trapi code)).takeTrap s.cur cTRAPI 0 b code 0 _).modCore s.cur _) (hb _ _ rfl)
    | _ => rfl

/-- A slot that falls through or transfers: its group commits. -/
theorem issueSolo_ok {i : Instr} {f : SlotFn} {s s' : State} {k : Ctl} (h : s.issuesSolo i = true) (hi : isScrub i = false)
    (hf : f (soloCtx i s) s.begun = .ok s' k) (hk : k ≠ .finish ∧ (∀ n, k ≠ .tret n) ∧ ∀ n, k ≠ .trapi n) :
    issueSolo i f s = .next (soloNext i s s' k) := by
  rw [issueSolo_eq h hi, hf]
  obtain ⟨h1, h2, h3⟩ := hk
  cases k <;> first | rfl | exact absurd rfl h1 | exact absurd rfl (h2 _) | exact absurd rfl (h3 _)

/-- A slot with one register result. -/
theorem issueSolo_result {i : Instr} {f : SlotFn} {s : State} {n : Nat} {w : RegWrite} (h : s.issuesSolo i = true) (hi : isScrub i = false)
    (hf : f (soloCtx i s) s.begun = retire (soloCtx i s) s.begun n w) : issueSolo i f s = .next (soloResult i s n w) :=
  issueSolo_ok h hi hf ⟨nofun, nofun, nofun⟩

end Sys2Proof.Machine
end

