-- ==== Sys2Proof/Laws/Egress.lean ====
section
/-! SUPPORT. What the egress of a core can change: the marks of its own outstanding accesses, the network, the flag files, the fabric, the
counts of flits. -/
namespace Sys2Proof.Machine

theorem EgressFrame.refl (n : Nat) (s : State) : EgressFrame n s s := ⟨rfl, fun _ _ => rfl, ⟨_, _, rfl, rfl⟩, rfl⟩

theorem EgressFrame.trans {n : Nat} {s t u : State} (h : EgressFrame n s t) (h' : EgressFrame n t u) : EgressFrame n s u := by
  obtain ⟨l, r, hm, hl⟩ := h.own
  obtain ⟨l', r', hm', hl'⟩ := h'.own
  exact ⟨h'.mem.trans h.mem, fun k hk => (h'.other k hk).trans (h.other k hk), ⟨l', r', by rw [hm', hl, ← hm], by rw [hl', hl]⟩, h'.rest.trans h.rest⟩

/-- A change of the marks of the accesses of core n alone. -/
theorem frame_accs (n : Nat) (s : State) (f : List Acc → List Acc) (h : ∀ l, (f l).map Acc.unmarked = l.map Acc.unmarked) :
    EgressFrame n s (s.modCore n fun c => { c with accs := f c.accs }) :=
  ⟨rfl, fun _ hk => core_modCore_ne _ _ hk, ⟨_, _, h _, core_modCore_same ..⟩, rfl⟩

/-- Marking one access as sent, with or without its acknowledgement, changes no access but for its marks. -/
theorem mark_unmarked (id : Nat) (f : Acc → Option Reply) (l : List Acc) :
    (l.map fun b => if b.id = id then { b with sent := true, reply := f b } else b).map Acc.unmarked = l.map Acc.unmarked := by
  rw [List.map_map]
  refine List.map_congr_left fun b _ => ?_
  simp only [Function.comp]
  split <;> rfl

theorem EgressFrame.of_core {n : Nat} {s t : State} (hc : t.cores = s.cores) (hm : t.mem = s.mem)
    (hr : { t with cores := [], pkts := [], nextPkt := 0, clusters := [], fab := {}, routerEvents := [] } =
      { s with cores := [], pkts := [], nextPkt := 0, clusters := [], fab := {}, routerEvents := [] }) : EgressFrame n s t := by
  have h : ∀ k, t.core k = s.core k := fun k => by simp only [State.core, hc]
  exact ⟨hm, fun k _ => h k, ⟨(s.core n).accs, (s.core n).classRR, rfl, h n⟩, hr⟩

theorem frame_setConn (n : Nat) (s : State) (c : Nat) (x : Conn) : EgressFrame n s (s.setConn c x) :=
  .of_core rfl rfl rfl

theorem frame_connSend (n : Nat) (s : State) (c lid : Nat) (p : FabPayload) : EgressFrame n s (s.connSend c lid p) := by
  simp only [State.connSend]
  split
  · exact .refl ..
  · split <;> exact .of_core rfl rfl rfl

theorem frame_openConn (n : Nat) (s : State) (hop ord : Bool) (w p : Nat) : EgressFrame n s (s.openConn hop ord w p).1 := by
  simp only [State.openConn]
  split
  · exact .refl ..
  · exact .of_core rfl rfl rfl

theorem frame_request (n : Nat) (s : State) (w p lid : Nat) (src : ReqSrc) (r : FabReq) : EgressFrame n s (s.request w p lid src r) := by
  simp only [State.request]
  refine .trans (.trans ?_ (frame_openConn n _ false false w p)) (frame_connSend ..)
  exact .of_core rfl rfl rfl

/-- The count of flits changes the counters of routers alone. -/
theorem countN_flits (r k : Nat) (s : State) : ∃ m, s.countN r 1 k = { s with routerEvents := m } := by
  have : ∀ (l : List Nat) (s : State), ∃ m, l.foldl (fun s _ => s.countAt r 1) s = { s with routerEvents := m } := by
    intro l
    induction l with
    | nil => exact fun s => ⟨_, rfl⟩
    | cons a l ih => exact fun s => (ih _).imp fun m h => h
  exact this _ _

/-- A change of the path classes a core takes next. -/
theorem frame_class (n : Nat) (s : State) (r : SMap Nat) : EgressFrame n s (s.setCore n { s.core n with classRR := r }) :=
  ⟨rfl, fun _ hk => core_modCore_ne s (fun c => { c with classRR := r }) hk, ⟨_, r, rfl, core_modCore_same s n fun c => { c with classRR := r }⟩, rfl⟩

/-- An increment that leaves a router changes the network, and where it has no way to go the flag file. -/
theorem frame_sendFlagFrom (n : Nat) (s : State) (src pcls cl f k : Nat) (b : Option (Nat × Nat)) :
    EgressFrame n s (s.sendFlagFrom src pcls cl f k b) := by
  unfold State.sendFlagFrom
  split
  · exact .of_core rfl rfl rfl
  · unfold State.sendLanding
    dsimp only
    split
    · generalize hu : ({ s with pkts := _, nextPkt := _ } : State) = u
      obtain ⟨m, hm⟩ := countN_flits (s.fileRouter cl) (1 + 0) u
      rw [hm, ← hu]
      exact .of_core rfl rfl rfl
    · exact .of_core rfl rfl rfl

theorem frame_sendFlag (n : Nat) (s : State) (cl f k : Nat) (b : Option (Nat × Nat)) : EgressFrame n s (s.sendFlag n cl f k b) :=
  .trans (frame_class n s ((s.core n).takeClass (256 + cl)).1.classRR) (frame_sendFlagFrom ..)

/-- A packet that leaves a core changes the network alone. -/
theorem frame_sendPkt (k : Nat) (s : State) (n m kind nfl pcls : Nat) (ofc : BitVec 64) (b : PktBody) :
    EgressFrame k s (s.sendPkt n m kind nfl pcls ofc b) := by
  unfold State.sendPkt
  dsimp only
  split
  · generalize hu : ({ s with pkts := _, nextPkt := _ } : State) = u
    obtain ⟨r, hr⟩ := countN_flits (u.routerOf n) (1 + nfl) u
    rw [hr, ← hu]
    exact .of_core rfl rfl rfl
  · exact .of_core rfl rfl rfl

theorem frame_sendAcc (n : Nat) (s : State) (a : Acc) : EgressFrame n s (s.sendAcc n a) := by
  simp only [State.sendAcc]
  split
  · exact .refl ..
  · have hm := frame_accs n s (fun l => l.map fun b => if b.id = a.id then { b with sent := true } else b) (mark_unmarked _ Acc.reply)
    split
    · exact .trans hm (frame_sendPkt ..)
    · split
      · split
        · exact frame_accs n s (fun l => l.map fun b => if b.id = a.id then { b with sent := true, reply := some ⟨0, 0, none⟩ } else b)
            (mark_unmarked _ fun _ => some ⟨0, 0, none⟩)
        · exact .trans hm (frame_request ..)
      · exact .refl ..
    · split
      · split
        · exact .refl ..
        · exact .trans hm (frame_sendFlag ..)
      · exact .refl ..
    · exact .refl ..

theorem frame_egress (n : Nat) (s : State) : EgressFrame n s (s.egress n) := by
  have : ∀ (l : List Acc) (s : State), EgressFrame n s (l.foldl (fun s a => s.sendAcc n a) s) := by
    intro l
    induction l with
    | nil => exact fun s => .refl ..
    | cons a l ih => exact fun s => .trans (frame_sendAcc n s a) (ih _)
  exact this _ _

end Sys2Proof.Machine
end

