-- ==== Sys2Proof/Laws/Encode.lean ====
section
/-! SUPPORT. The words the encoder builds, as numbers, and the fields the decoder reads of them. -/
open Sys2Proof

namespace Sys2Proof.Laws.Encode

theorem toNat_append {m n : Nat} (x : BitVec m) (y : BitVec n) : (x ++ y).toNat = x.toNat * 2 ^ n + y.toNat := by
  rw [BitVec.toNat_append, ← Nat.shiftLeft_add_eq_or_of_lt y.isLt, Nat.shiftLeft_eq]

/-- A field of a word whose number is known. -/
theorem field_eq {w n : Nat} (x : BitVec w) (s : Nat) (v : BitVec n) (h : x.toNat / 2 ^ s % 2 ^ n = v.toNat) :
    x.extractLsb' s n = v := by
  apply BitVec.eq_of_toNat_eq
  rw [BitVec.extractLsb'_toNat, Nat.shiftRight_eq_div_pow, h]

theorem wordR_toNat (op : Nat) (g : Guard) (d : BitVec 5) (a : BitVec 5) (b : BitVec 5) (k : BitVec 6) :
    (wordR op g d a b k).toNat = (((((op % 128) * 16 + g.toNat) * 32 + d.toNat) * 32 + a.toNat) * 32 + b.toNat) * 64 + k.toNat := by
  simp only [wordR, toNat_append, BitVec.toNat_ofNat] <;> omega

theorem wordR_op (op : Nat) (g : Guard) (d : BitVec 5) (a : BitVec 5) (b : BitVec 5) (k : BitVec 6) :
    (wordR op g d a b k).extractLsb' 25 7 = BitVec.ofNat 7 op := by
  apply field_eq; rw [wordR_toNat]; simp only [BitVec.toNat_ofNat]; omega
theorem wordR_g (op : Nat) (g : Guard) (d : BitVec 5) (a : BitVec 5) (b : BitVec 5) (k : BitVec 6) :
    (wordR op g d a b k).extractLsb' 21 4 = g := by
  apply field_eq; rw [wordR_toNat]; omega
theorem wordR_d (op : Nat) (g : Guard) (d : BitVec 5) (a : BitVec 5) (b : BitVec 5) (k : BitVec 6) :
    (wordR op g d a b k).extractLsb' 16 5 = d := by
  apply field_eq; rw [wordR_toNat]; omega
theorem wordR_a (op : Nat) (g : Guard) (d : BitVec 5) (a : BitVec 5) (b : BitVec 5) (k : BitVec 6) :
    (wordR op g d a b k).extractLsb' 11 5 = a := by
  apply field_eq; rw [wordR_toNat]; omega
theorem wordR_b (op : Nat) (g : Guard) (d : BitVec 5) (a : BitVec 5) (b : BitVec 5) (k : BitVec 6) :
    (wordR op g d a b k).extractLsb' 6 5 = b := by
  apply field_eq; rw [wordR_toNat]; omega
theorem wordR_k (op : Nat) (g : Guard) (d : BitVec 5) (a : BitVec 5) (b : BitVec 5) (k : BitVec 6) :
    (wordR op g d a b k).extractLsb' 0 6 = k := by
  apply field_eq; rw [wordR_toNat]; omega

theorem wordI_toNat (op : Nat) (g : Guard) (d : BitVec 5) (a : BitVec 5) (imm : BitVec 11) :
    (wordI op g d a imm).toNat = ((((op % 128) * 16 + g.toNat) * 32 + d.toNat) * 32 + a.toNat) * 2048 + imm.toNat := by
  simp only [wordI, toNat_append, BitVec.toNat_ofNat] <;> omega

theorem wordI_op (op : Nat) (g : Guard) (d : BitVec 5) (a : BitVec 5) (imm : BitVec 11) :
    (wordI op g d a imm).extractLsb' 25 7 = BitVec.ofNat 7 op := by
  apply field_eq; rw [wordI_toNat]; simp only [BitVec.toNat_ofNat]; omega
theorem wordI_g (op : Nat) (g : Guard) (d : BitVec 5) (a : BitVec 5) (imm : BitVec 11) :
    (wordI op g d a imm).extractLsb' 21 4 = g := by
  apply field_eq; rw [wordI_toNat]; omega
theorem wordI_d (op : Nat) (g : Guard) (d : BitVec 5) (a : BitVec 5) (imm : BitVec 11) :
    (wordI op g d a imm).extractLsb' 16 5 = d := by
  apply field_eq; rw [wordI_toNat]; omega
theorem wordI_a (op : Nat) (g : Guard) (d : BitVec 5) (a : BitVec 5) (imm : BitVec 11) :
    (wordI op g d a imm).extractLsb' 11 5 = a := by
  apply field_eq; rw [wordI_toNat]; omega
theorem wordI_imm (op : Nat) (g : Guard) (d : BitVec 5) (a : BitVec 5) (imm : BitVec 11) :
    (wordI op g d a imm).extractLsb' 0 11 = imm := by
  apply field_eq; rw [wordI_toNat]; omega

theorem wordJ_toNat (op : Nat) (g : Guard) (d : BitVec 5) (imm : BitVec 16) :
    (wordJ op g d imm).toNat = (((op % 128) * 16 + g.toNat) * 32 + d.toNat) * 65536 + imm.toNat := by
  simp only [wordJ, toNat_append, BitVec.toNat_ofNat] <;> omega

theorem wordJ_op (op : Nat) (g : Guard) (d : BitVec 5) (imm : BitVec 16) :
    (wordJ op g d imm).extractLsb' 25 7 = BitVec.ofNat 7 op := by
  apply field_eq; rw [wordJ_toNat]; simp only [BitVec.toNat_ofNat]; omega
theorem wordJ_g (op : Nat) (g : Guard) (d : BitVec 5) (imm : BitVec 16) :
    (wordJ op g d imm).extractLsb' 21 4 = g := by
  apply field_eq; rw [wordJ_toNat]; omega
theorem wordJ_d (op : Nat) (g : Guard) (d : BitVec 5) (imm : BitVec 16) :
    (wordJ op g d imm).extractLsb' 16 5 = d := by
  apply field_eq; rw [wordJ_toNat]; omega
theorem wordJ_imm (op : Nat) (g : Guard) (d : BitVec 5) (imm : BitVec 16) :
    (wordJ op g d imm).extractLsb' 0 16 = imm := by
  apply field_eq; rw [wordJ_toNat]; omega

theorem wordM_toNat (op : Nat) (g : Guard) (d : BitVec 5) (a : BitVec 5) (q : BitVec 3) (off : BitVec 8) :
    (wordM op g d a q off).toNat = (((((op % 128) * 16 + g.toNat) * 32 + d.toNat) * 32 + a.toNat) * 8 + q.toNat) * 256 + off.toNat := by
  simp only [wordM, toNat_append, BitVec.toNat_ofNat] <;> omega

theorem wordM_op (op : Nat) (g : Guard) (d : BitVec 5) (a : BitVec 5) (q : BitVec 3) (off : BitVec 8) :
    (wordM op g d a q off).extractLsb' 25 7 = BitVec.ofNat 7 op := by
  apply field_eq; rw [wordM_toNat]; simp only [BitVec.toNat_ofNat]; omega
theorem wordM_g (op : Nat) (g : Guard) (d : BitVec 5) (a : BitVec 5) (q : BitVec 3) (off : BitVec 8) :
    (wordM op g d a q off).extractLsb' 21 4 = g := by
  apply field_eq; rw [wordM_toNat]; omega
theorem wordM_d (op : Nat) (g : Guard) (d : BitVec 5) (a : BitVec 5) (q : BitVec 3) (off : BitVec 8) :
    (wordM op g d a q off).extractLsb' 16 5 = d := by
  apply field_eq; rw [wordM_toNat]; omega
theorem wordM_a (op : Nat) (g : Guard) (d : BitVec 5) (a : BitVec 5) (q : BitVec 3) (off : BitVec 8) :
    (wordM op g d a q off).extractLsb' 11 5 = a := by
  apply field_eq; rw [wordM_toNat]; omega
theorem wordM_q (op : Nat) (g : Guard) (d : BitVec 5) (a : BitVec 5) (q : BitVec 3) (off : BitVec 8) :
    (wordM op g d a q off).extractLsb' 8 3 = q := by
  apply field_eq; rw [wordM_toNat]; omega
theorem wordM_off (op : Nat) (g : Guard) (d : BitVec 5) (a : BitVec 5) (q : BitVec 3) (off : BitVec 8) :
    (wordM op g d a q off).extractLsb' 0 8 = off := by
  apply field_eq; rw [wordM_toNat]; omega

theorem wordP_toNat (op : Nat) (g : Guard) (ck : BitVec 2) (cv : BitVec 8) (last : BitVec 11) :
    (wordP op g ck cv last).toNat = ((((op % 128) * 16 + g.toNat) * 4 + ck.toNat) * 256 + cv.toNat) * 2048 + last.toNat := by
  simp only [wordP, toNat_append, BitVec.toNat_ofNat] <;> omega

theorem wordP_op (op : Nat) (g : Guard) (ck : BitVec 2) (cv : BitVec 8) (last : BitVec 11) :
    (wordP op g ck cv last).extractLsb' 25 7 = BitVec.ofNat 7 op := by
  apply field_eq; rw [wordP_toNat]; simp only [BitVec.toNat_ofNat]; omega
theorem wordP_g (op : Nat) (g : Guard) (ck : BitVec 2) (cv : BitVec 8) (last : BitVec 11) :
    (wordP op g ck cv last).extractLsb' 21 4 = g := by
  apply field_eq; rw [wordP_toNat]; omega
theorem wordP_ck (op : Nat) (g : Guard) (ck : BitVec 2) (cv : BitVec 8) (last : BitVec 11) :
    (wordP op g ck cv last).extractLsb' 19 2 = ck := by
  apply field_eq; rw [wordP_toNat]; omega
theorem wordP_cv (op : Nat) (g : Guard) (ck : BitVec 2) (cv : BitVec 8) (last : BitVec 11) :
    (wordP op g ck cv last).extractLsb' 11 8 = cv := by
  apply field_eq; rw [wordP_toNat]; omega
theorem wordP_last (op : Nat) (g : Guard) (ck : BitVec 2) (cv : BitVec 8) (last : BitVec 11) :
    (wordP op g ck cv last).extractLsb' 0 11 = last := by
  apply field_eq; rw [wordP_toNat]; omega

theorem wordV_toNat (op : Nat) (t : Fmt) (d : BitVec 5) (a : BitVec 5) (b : BitVec 5) (r : VRange) :
    (wordV op t d a b r).toNat = (((((((op % 128) * 16 + t.code.toNat) * 32 + d.toNat) * 32 + a.toNat) * 32 + b.toNat) * 4 + r.w.toNat) * 4 + r.l.toNat) * 4 + r.m.toNat := by
  simp only [wordV, toNat_append, BitVec.toNat_ofNat] <;> omega

theorem wordV_op (op : Nat) (t : Fmt) (d : BitVec 5) (a : BitVec 5) (b : BitVec 5) (r : VRange) :
    (wordV op t d a b r).extractLsb' 25 7 = BitVec.ofNat 7 op := by
  apply field_eq; rw [wordV_toNat]; simp only [BitVec.toNat_ofNat]; omega
theorem wordV_t (op : Nat) (t : Fmt) (d : BitVec 5) (a : BitVec 5) (b : BitVec 5) (r : VRange) :
    (wordV op t d a b r).extractLsb' 21 4 = t.code := by
  apply field_eq; rw [wordV_toNat]; omega
theorem wordV_d (op : Nat) (t : Fmt) (d : BitVec 5) (a : BitVec 5) (b : BitVec 5) (r : VRange) :
    (wordV op t d a b r).extractLsb' 16 5 = d := by
  apply field_eq; rw [wordV_toNat]; omega
theorem wordV_a (op : Nat) (t : Fmt) (d : BitVec 5) (a : BitVec 5) (b : BitVec 5) (r : VRange) :
    (wordV op t d a b r).extractLsb' 11 5 = a := by
  apply field_eq; rw [wordV_toNat]; omega
theorem wordV_b (op : Nat) (t : Fmt) (d : BitVec 5) (a : BitVec 5) (b : BitVec 5) (r : VRange) :
    (wordV op t d a b r).extractLsb' 6 5 = b := by
  apply field_eq; rw [wordV_toNat]; omega
theorem wordV_w (op : Nat) (t : Fmt) (d : BitVec 5) (a : BitVec 5) (b : BitVec 5) (r : VRange) :
    (wordV op t d a b r).extractLsb' 4 2 = r.w := by
  apply field_eq; rw [wordV_toNat]; omega
theorem wordV_l (op : Nat) (t : Fmt) (d : BitVec 5) (a : BitVec 5) (b : BitVec 5) (r : VRange) :
    (wordV op t d a b r).extractLsb' 2 2 = r.l := by
  apply field_eq; rw [wordV_toNat]; omega
theorem wordV_m (op : Nat) (t : Fmt) (d : BitVec 5) (a : BitVec 5) (b : BitVec 5) (r : VRange) :
    (wordV op t d a b r).extractLsb' 0 2 = r.m := by
  apply field_eq; rw [wordV_toNat]; omega

theorem wordX_toNat (op : Nat) (arr : Bool) (mt : BitVec 3) (qa : BitVec 4) (qw : BitVec 4) (beats : BitVec 12) (pl : BitVec 5) (sp : BitVec 2) (mode : BitVec 8) (xr : BitVec 5) :
    (wordX op arr mt qa qw beats pl sp mode xr).toNat = ((((((((((op % 128) * 2 + arr.toNat) * 8 + mt.toNat) * 16 + qa.toNat) * 16 + qw.toNat) * 4096 + beats.toNat) * 32 + pl.toNat) * 4 + sp.toNat) * 256 + mode.toNat) * 32 + xr.toNat) * 8192 + 0 := by
  simp only [wordX, toNat_append, BitVec.toNat_ofNat, bit, BitVec.toNat_ofBool, Nat.zero_mod, Nat.add_zero] <;> omega

theorem wordX_op (op : Nat) (arr : Bool) (mt : BitVec 3) (qa : BitVec 4) (qw : BitVec 4) (beats : BitVec 12) (pl : BitVec 5) (sp : BitVec 2) (mode : BitVec 8) (xr : BitVec 5) :
    (wordX op arr mt qa qw beats pl sp mode xr).extractLsb' 57 7 = BitVec.ofNat 7 op := by
  apply field_eq; rw [wordX_toNat]; simp only [BitVec.toNat_ofNat]; have := Bool.toNat_lt arr; omega
theorem wordX_arr (op : Nat) (arr : Bool) (mt : BitVec 3) (qa : BitVec 4) (qw : BitVec 4) (beats : BitVec 12) (pl : BitVec 5) (sp : BitVec 2) (mode : BitVec 8) (xr : BitVec 5) :
    (wordX op arr mt qa qw beats pl sp mode xr).extractLsb' 56 1 = bit arr := by
  apply field_eq; rw [wordX_toNat]; simp only [bit, BitVec.toNat_ofBool]; have := Bool.toNat_lt arr; omega
theorem wordX_mt (op : Nat) (arr : Bool) (mt : BitVec 3) (qa : BitVec 4) (qw : BitVec 4) (beats : BitVec 12) (pl : BitVec 5) (sp : BitVec 2) (mode : BitVec 8) (xr : BitVec 5) :
    (wordX op arr mt qa qw beats pl sp mode xr).extractLsb' 53 3 = mt := by
  apply field_eq; rw [wordX_toNat]; have := Bool.toNat_lt arr; omega
theorem wordX_qa (op : Nat) (arr : Bool) (mt : BitVec 3) (qa : BitVec 4) (qw : BitVec 4) (beats : BitVec 12) (pl : BitVec 5) (sp : BitVec 2) (mode : BitVec 8) (xr : BitVec 5) :
    (wordX op arr mt qa qw beats pl sp mode xr).extractLsb' 49 4 = qa := by
  apply field_eq; rw [wordX_toNat]; have := Bool.toNat_lt arr; omega
theorem wordX_qw (op : Nat) (arr : Bool) (mt : BitVec 3) (qa : BitVec 4) (qw : BitVec 4) (beats : BitVec 12) (pl : BitVec 5) (sp : BitVec 2) (mode : BitVec 8) (xr : BitVec 5) :
    (wordX op arr mt qa qw beats pl sp mode xr).extractLsb' 45 4 = qw := by
  apply field_eq; rw [wordX_toNat]; have := Bool.toNat_lt arr; omega
theorem wordX_beats (op : Nat) (arr : Bool) (mt : BitVec 3) (qa : BitVec 4) (qw : BitVec 4) (beats : BitVec 12) (pl : BitVec 5) (sp : BitVec 2) (mode : BitVec 8) (xr : BitVec 5) :
    (wordX op arr mt qa qw beats pl sp mode xr).extractLsb' 33 12 = beats := by
  apply field_eq; rw [wordX_toNat]; have := Bool.toNat_lt arr; omega
theorem wordX_pl (op : Nat) (arr : Bool) (mt : BitVec 3) (qa : BitVec 4) (qw : BitVec 4) (beats : BitVec 12) (pl : BitVec 5) (sp : BitVec 2) (mode : BitVec 8) (xr : BitVec 5) :
    (wordX op arr mt qa qw beats pl sp mode xr).extractLsb' 28 5 = pl := by
  apply field_eq; rw [wordX_toNat]; have := Bool.toNat_lt arr; omega
theorem wordX_sp (op : Nat) (arr : Bool) (mt : BitVec 3) (qa : BitVec 4) (qw : BitVec 4) (beats : BitVec 12) (pl : BitVec 5) (sp : BitVec 2) (mode : BitVec 8) (xr : BitVec 5) :
    (wordX op arr mt qa qw beats pl sp mode xr).extractLsb' 26 2 = sp := by
  apply field_eq; rw [wordX_toNat]; have := Bool.toNat_lt arr; omega
theorem wordX_mode (op : Nat) (arr : Bool) (mt : BitVec 3) (qa : BitVec 4) (qw : BitVec 4) (beats : BitVec 12) (pl : BitVec 5) (sp : BitVec 2) (mode : BitVec 8) (xr : BitVec 5) :
    (wordX op arr mt qa qw beats pl sp mode xr).extractLsb' 18 8 = mode := by
  apply field_eq; rw [wordX_toNat]; have := Bool.toNat_lt arr; omega
theorem wordX_xr (op : Nat) (arr : Bool) (mt : BitVec 3) (qa : BitVec 4) (qw : BitVec 4) (beats : BitVec 12) (pl : BitVec 5) (sp : BitVec 2) (mode : BitVec 8) (xr : BitVec 5) :
    (wordX op arr mt qa qw beats pl sp mode xr).extractLsb' 13 5 = xr := by
  apply field_eq; rw [wordX_toNat]; have := Bool.toNat_lt arr; omega

theorem wordE_toNat (op : Nat) (h : BitVec 6) (qs : BitVec 4) (qd : BitVec 4) (len : BitVec 16) (dar : BitVec 3) (acq : Bool) (rel : Bool) (scope : BitVec 3) (es : BitVec 5) (ec : BitVec 14) :
    (wordE op h qs qd len dar acq rel scope es ec).toNat = ((((((((((op % 128) * 64 + h.toNat) * 16 + qs.toNat) * 16 + qd.toNat) * 65536 + len.toNat) * 8 + dar.toNat) * 2 + acq.toNat) * 2 + rel.toNat) * 8 + scope.toNat) * 32 + es.toNat) * 16384 + ec.toNat := by
  simp only [wordE, toNat_append, BitVec.toNat_ofNat, bit, BitVec.toNat_ofBool] <;> omega

theorem wordE_op (op : Nat) (h : BitVec 6) (qs : BitVec 4) (qd : BitVec 4) (len : BitVec 16) (dar : BitVec 3) (acq : Bool) (rel : Bool) (scope : BitVec 3) (es : BitVec 5) (ec : BitVec 14) :
    (wordE op h qs qd len dar acq rel scope es ec).extractLsb' 57 7 = BitVec.ofNat 7 op := by
  apply field_eq; rw [wordE_toNat]; simp only [BitVec.toNat_ofNat]; have := Bool.toNat_lt acq; have := Bool.toNat_lt rel; omega
theorem wordE_h (op : Nat) (h : BitVec 6) (qs : BitVec 4) (qd : BitVec 4) (len : BitVec 16) (dar : BitVec 3) (acq : Bool) (rel : Bool) (scope : BitVec 3) (es : BitVec 5) (ec : BitVec 14) :
    (wordE op h qs qd len dar acq rel scope es ec).extractLsb' 51 6 = h := by
  apply field_eq; rw [wordE_toNat]; have := Bool.toNat_lt acq; have := Bool.toNat_lt rel; omega
theorem wordE_qs (op : Nat) (h : BitVec 6) (qs : BitVec 4) (qd : BitVec 4) (len : BitVec 16) (dar : BitVec 3) (acq : Bool) (rel : Bool) (scope : BitVec 3) (es : BitVec 5) (ec : BitVec 14) :
    (wordE op h qs qd len dar acq rel scope es ec).extractLsb' 47 4 = qs := by
  apply field_eq; rw [wordE_toNat]; have := Bool.toNat_lt acq; have := Bool.toNat_lt rel; omega
theorem wordE_qd (op : Nat) (h : BitVec 6) (qs : BitVec 4) (qd : BitVec 4) (len : BitVec 16) (dar : BitVec 3) (acq : Bool) (rel : Bool) (scope : BitVec 3) (es : BitVec 5) (ec : BitVec 14) :
    (wordE op h qs qd len dar acq rel scope es ec).extractLsb' 43 4 = qd := by
  apply field_eq; rw [wordE_toNat]; have := Bool.toNat_lt acq; have := Bool.toNat_lt rel; omega
theorem wordE_len (op : Nat) (h : BitVec 6) (qs : BitVec 4) (qd : BitVec 4) (len : BitVec 16) (dar : BitVec 3) (acq : Bool) (rel : Bool) (scope : BitVec 3) (es : BitVec 5) (ec : BitVec 14) :
    (wordE op h qs qd len dar acq rel scope es ec).extractLsb' 27 16 = len := by
  apply field_eq; rw [wordE_toNat]; have := Bool.toNat_lt acq; have := Bool.toNat_lt rel; omega
theorem wordE_dar (op : Nat) (h : BitVec 6) (qs : BitVec 4) (qd : BitVec 4) (len : BitVec 16) (dar : BitVec 3) (acq : Bool) (rel : Bool) (scope : BitVec 3) (es : BitVec 5) (ec : BitVec 14) :
    (wordE op h qs qd len dar acq rel scope es ec).extractLsb' 24 3 = dar := by
  apply field_eq; rw [wordE_toNat]; have := Bool.toNat_lt acq; have := Bool.toNat_lt rel; omega
theorem wordE_acq (op : Nat) (h : BitVec 6) (qs : BitVec 4) (qd : BitVec 4) (len : BitVec 16) (dar : BitVec 3) (acq : Bool) (rel : Bool) (scope : BitVec 3) (es : BitVec 5) (ec : BitVec 14) :
    (wordE op h qs qd len dar acq rel scope es ec).extractLsb' 23 1 = bit acq := by
  apply field_eq; rw [wordE_toNat]; simp only [bit, BitVec.toNat_ofBool]; have := Bool.toNat_lt acq; have := Bool.toNat_lt rel; omega
theorem wordE_rel (op : Nat) (h : BitVec 6) (qs : BitVec 4) (qd : BitVec 4) (len : BitVec 16) (dar : BitVec 3) (acq : Bool) (rel : Bool) (scope : BitVec 3) (es : BitVec 5) (ec : BitVec 14) :
    (wordE op h qs qd len dar acq rel scope es ec).extractLsb' 22 1 = bit rel := by
  apply field_eq; rw [wordE_toNat]; simp only [bit, BitVec.toNat_ofBool]; have := Bool.toNat_lt acq; have := Bool.toNat_lt rel; omega
theorem wordE_scope (op : Nat) (h : BitVec 6) (qs : BitVec 4) (qd : BitVec 4) (len : BitVec 16) (dar : BitVec 3) (acq : Bool) (rel : Bool) (scope : BitVec 3) (es : BitVec 5) (ec : BitVec 14) :
    (wordE op h qs qd len dar acq rel scope es ec).extractLsb' 19 3 = scope := by
  apply field_eq; rw [wordE_toNat]; have := Bool.toNat_lt acq; have := Bool.toNat_lt rel; omega
theorem wordE_es (op : Nat) (h : BitVec 6) (qs : BitVec 4) (qd : BitVec 4) (len : BitVec 16) (dar : BitVec 3) (acq : Bool) (rel : Bool) (scope : BitVec 3) (es : BitVec 5) (ec : BitVec 14) :
    (wordE op h qs qd len dar acq rel scope es ec).extractLsb' 14 5 = es := by
  apply field_eq; rw [wordE_toNat]; have := Bool.toNat_lt acq; have := Bool.toNat_lt rel; omega
theorem wordE_ec (op : Nat) (h : BitVec 6) (qs : BitVec 4) (qd : BitVec 4) (len : BitVec 16) (dar : BitVec 3) (acq : Bool) (rel : Bool) (scope : BitVec 3) (es : BitVec 5) (ec : BitVec 14) :
    (wordE op h qs qd len dar acq rel scope es ec).extractLsb' 0 14 = ec := by
  apply field_eq; rw [wordE_toNat]; have := Bool.toNat_lt acq; have := Bool.toNat_lt rel; omega

theorem wordKR_toNat (op : Nat) (d : BitVec 4) (a : BitVec 4) (b : BitVec 4) (x : BitVec 14) :
    (wordKR op d a b x).toNat = ((((op % 64) * 16 + d.toNat) * 16 + a.toNat) * 16 + b.toNat) * 16384 + x.toNat := by
  simp only [wordKR, toNat_append, BitVec.toNat_ofNat] <;> omega

theorem wordKR_op (op : Nat) (d : BitVec 4) (a : BitVec 4) (b : BitVec 4) (x : BitVec 14) :
    (wordKR op d a b x).extractLsb' 26 6 = BitVec.ofNat 6 op := by
  apply field_eq; rw [wordKR_toNat]; simp only [BitVec.toNat_ofNat]; omega
theorem wordKR_d (op : Nat) (d : BitVec 4) (a : BitVec 4) (b : BitVec 4) (x : BitVec 14) :
    (wordKR op d a b x).extractLsb' 22 4 = d := by
  apply field_eq; rw [wordKR_toNat]; omega
theorem wordKR_a (op : Nat) (d : BitVec 4) (a : BitVec 4) (b : BitVec 4) (x : BitVec 14) :
    (wordKR op d a b x).extractLsb' 18 4 = a := by
  apply field_eq; rw [wordKR_toNat]; omega
theorem wordKR_b (op : Nat) (d : BitVec 4) (a : BitVec 4) (b : BitVec 4) (x : BitVec 14) :
    (wordKR op d a b x).extractLsb' 14 4 = b := by
  apply field_eq; rw [wordKR_toNat]; omega
theorem wordKR_x (op : Nat) (d : BitVec 4) (a : BitVec 4) (b : BitVec 4) (x : BitVec 14) :
    (wordKR op d a b x).extractLsb' 0 14 = x := by
  apply field_eq; rw [wordKR_toNat]; omega

theorem wordKI_toNat (op : Nat) (d : BitVec 4) (a : BitVec 4) (imm : BitVec 18) :
    (wordKI op d a imm).toNat = (((op % 64) * 16 + d.toNat) * 16 + a.toNat) * 262144 + imm.toNat := by
  simp only [wordKI, toNat_append, BitVec.toNat_ofNat] <;> omega

theorem wordKI_op (op : Nat) (d : BitVec 4) (a : BitVec 4) (imm : BitVec 18) :
    (wordKI op d a imm).extractLsb' 26 6 = BitVec.ofNat 6 op := by
  apply field_eq; rw [wordKI_toNat]; simp only [BitVec.toNat_ofNat]; omega
theorem wordKI_d (op : Nat) (d : BitVec 4) (a : BitVec 4) (imm : BitVec 18) :
    (wordKI op d a imm).extractLsb' 22 4 = d := by
  apply field_eq; rw [wordKI_toNat]; omega
theorem wordKI_a (op : Nat) (d : BitVec 4) (a : BitVec 4) (imm : BitVec 18) :
    (wordKI op d a imm).extractLsb' 18 4 = a := by
  apply field_eq; rw [wordKI_toNat]; omega
theorem wordKI_imm (op : Nat) (d : BitVec 4) (a : BitVec 4) (imm : BitVec 18) :
    (wordKI op d a imm).extractLsb' 0 18 = imm := by
  apply field_eq; rw [wordKI_toNat]; omega

theorem wordKL_toNat (op : Nat) (d : BitVec 4) (imm : BitVec 22) :
    (wordKL op d imm).toNat = ((op % 64) * 16 + d.toNat) * 4194304 + imm.toNat := by
  simp only [wordKL, toNat_append, BitVec.toNat_ofNat] <;> omega

theorem wordKL_op (op : Nat) (d : BitVec 4) (imm : BitVec 22) :
    (wordKL op d imm).extractLsb' 26 6 = BitVec.ofNat 6 op := by
  apply field_eq; rw [wordKL_toNat]; simp only [BitVec.toNat_ofNat]; omega
theorem wordKL_d (op : Nat) (d : BitVec 4) (imm : BitVec 22) :
    (wordKL op d imm).extractLsb' 22 4 = d := by
  apply field_eq; rw [wordKL_toNat]; omega
theorem wordKL_imm (op : Nat) (d : BitVec 4) (imm : BitVec 22) :
    (wordKL op d imm).extractLsb' 0 22 = imm := by
  apply field_eq; rw [wordKL_toNat]; omega

end Sys2Proof.Laws.Encode
end

