-- ==== Sys2Proof/Laws/State.lean ====
section
/-! SUPPORT. What each named update of the state leaves of every field, and what the tables read after one. -/
namespace Sys2Proof.Machine

/-- A core set. -/
@[simp] theorem setCore_fields (s : State) (n : Nat) (c : Core) :
    (s.setCore n c).cur = s.cur ∧ (s.setCore n c).curM = s.curM ∧ (s.setCore n c).curSlot = s.curSlot ∧
    (s.setCore n c).cores = SMap.set s.cores n c ∧ (s.setCore n c).clusters = s.clusters ∧ (s.setCore n c).sisters = s.sisters ∧
    (s.setCore n c).mem = s.mem ∧ (s.setCore n c).l2 = s.l2 ∧ (s.setCore n c).cxl = s.cxl ∧ (s.setCore n c).binv = s.binv ∧
    (s.setCore n c).cxlWant = s.cxlWant ∧ (s.setCore n c).blocks = s.blocks ∧ (s.setCore n c).sweeps = s.sweeps ∧
    (s.setCore n c).ws = s.ws ∧ (s.setCore n c).wsPoison = s.wsPoison ∧ (s.setCore n c).wsWorld = s.wsWorld ∧
    (s.setCore n c).pkts = s.pkts ∧ (s.setCore n c).nextPkt = s.nextPkt ∧ (s.setCore n c).slotTab = s.slotTab ∧
    (s.setCore n c).slotOld = s.slotOld ∧ (s.setCore n c).reserved = s.reserved ∧ (s.setCore n c).peg = s.peg ∧
    (s.setCore n c).pegPkt = s.pegPkt ∧ (s.setCore n c).pegSeen = s.pegSeen ∧ (s.setCore n c).links = s.links ∧
    (s.setCore n c).launches = s.launches ∧ (s.setCore n c).queues = s.queues ∧ (s.setCore n c).nextLid = s.nextLid ∧
    (s.setCore n c).lbad = s.lbad ∧ (s.setCore n c).rrq = s.rrq ∧ (s.setCore n c).dispatches = s.dispatches ∧
    (s.setCore n c).gangs = s.gangs ∧ (s.setCore n c).nextImg = s.nextImg ∧ (s.setCore n c).barriers = s.barriers ∧
    (s.setCore n c).barIn = s.barIn ∧ (s.setCore n c).tlbis = s.tlbis ∧ (s.setCore n c).fab = s.fab ∧
    (s.setCore n c).freshBad = s.freshBad ∧ (s.setCore n c).martens = s.martens ∧ (s.setCore n c).sec = s.sec ∧
    (s.setCore n c).pkg = s.pkg ∧ (s.setCore n c).npkg = s.npkg ∧ (s.setCore n c).events = s.events ∧
    (s.setCore n c).routerEvents = s.routerEvents ∧ (s.setCore n c).badRows = s.badRows ∧ (s.setCore n c).badClusters = s.badClusters ∧
    (s.setCore n c).sched = s.sched ∧ (s.setCore n c).turn = s.turn ∧ (s.setCore n c).defects = s.defects ∧
    (s.setCore n c).clock = s.clock ∧ (s.setCore n c).freeCtr = s.freeCtr := by
  and_intros <;> rfl

/-- A core changed. -/
@[simp] theorem modCore_fields (s : State) (n : Nat) (f : Core → Core) :
    (s.modCore n f).cur = s.cur ∧ (s.modCore n f).curM = s.curM ∧ (s.modCore n f).curSlot = s.curSlot ∧
    (s.modCore n f).clusters = s.clusters ∧ (s.modCore n f).sisters = s.sisters ∧ (s.modCore n f).mem = s.mem ∧ (s.modCore n f).l2 = s.l2 ∧
    (s.modCore n f).cxl = s.cxl ∧ (s.modCore n f).binv = s.binv ∧ (s.modCore n f).cxlWant = s.cxlWant ∧ (s.modCore n f).blocks = s.blocks ∧
    (s.modCore n f).sweeps = s.sweeps ∧ (s.modCore n f).ws = s.ws ∧ (s.modCore n f).wsPoison = s.wsPoison ∧
    (s.modCore n f).wsWorld = s.wsWorld ∧ (s.modCore n f).pkts = s.pkts ∧ (s.modCore n f).nextPkt = s.nextPkt ∧
    (s.modCore n f).slotTab = s.slotTab ∧ (s.modCore n f).slotOld = s.slotOld ∧ (s.modCore n f).reserved = s.reserved ∧
    (s.modCore n f).peg = s.peg ∧ (s.modCore n f).pegPkt = s.pegPkt ∧ (s.modCore n f).pegSeen = s.pegSeen ∧
    (s.modCore n f).links = s.links ∧ (s.modCore n f).launches = s.launches ∧ (s.modCore n f).queues = s.queues ∧
    (s.modCore n f).nextLid = s.nextLid ∧ (s.modCore n f).lbad = s.lbad ∧ (s.modCore n f).rrq = s.rrq ∧
    (s.modCore n f).dispatches = s.dispatches ∧ (s.modCore n f).gangs = s.gangs ∧ (s.modCore n f).nextImg = s.nextImg ∧
    (s.modCore n f).barriers = s.barriers ∧ (s.modCore n f).barIn = s.barIn ∧ (s.modCore n f).tlbis = s.tlbis ∧
    (s.modCore n f).fab = s.fab ∧ (s.modCore n f).freshBad = s.freshBad ∧ (s.modCore n f).martens = s.martens ∧
    (s.modCore n f).sec = s.sec ∧ (s.modCore n f).pkg = s.pkg ∧ (s.modCore n f).npkg = s.npkg ∧ (s.modCore n f).events = s.events ∧
    (s.modCore n f).routerEvents = s.routerEvents ∧ (s.modCore n f).badRows = s.badRows ∧ (s.modCore n f).badClusters = s.badClusters ∧
    (s.modCore n f).sched = s.sched ∧ (s.modCore n f).turn = s.turn ∧ (s.modCore n f).defects = s.defects ∧
    (s.modCore n f).clock = s.clock ∧ (s.modCore n f).freeCtr = s.freeCtr := by
  and_intros <;> rfl

/-- A cluster set. -/
@[simp] theorem setCluster_fields (s : State) (n : Nat) (c : Cluster) :
    (s.setCluster n c).cur = s.cur ∧ (s.setCluster n c).curM = s.curM ∧ (s.setCluster n c).curSlot = s.curSlot ∧
    (s.setCluster n c).cores = s.cores ∧ (s.setCluster n c).clusters = SMap.set s.clusters n c ∧ (s.setCluster n c).sisters = s.sisters ∧
    (s.setCluster n c).mem = s.mem ∧ (s.setCluster n c).l2 = s.l2 ∧ (s.setCluster n c).cxl = s.cxl ∧ (s.setCluster n c).binv = s.binv ∧
    (s.setCluster n c).cxlWant = s.cxlWant ∧ (s.setCluster n c).blocks = s.blocks ∧ (s.setCluster n c).sweeps = s.sweeps ∧
    (s.setCluster n c).ws = s.ws ∧ (s.setCluster n c).wsPoison = s.wsPoison ∧ (s.setCluster n c).wsWorld = s.wsWorld ∧
    (s.setCluster n c).pkts = s.pkts ∧ (s.setCluster n c).nextPkt = s.nextPkt ∧ (s.setCluster n c).slotTab = s.slotTab ∧
    (s.setCluster n c).slotOld = s.slotOld ∧ (s.setCluster n c).reserved = s.reserved ∧ (s.setCluster n c).peg = s.peg ∧
    (s.setCluster n c).pegPkt = s.pegPkt ∧ (s.setCluster n c).pegSeen = s.pegSeen ∧ (s.setCluster n c).links = s.links ∧
    (s.setCluster n c).launches = s.launches ∧ (s.setCluster n c).queues = s.queues ∧ (s.setCluster n c).nextLid = s.nextLid ∧
    (s.setCluster n c).lbad = s.lbad ∧ (s.setCluster n c).rrq = s.rrq ∧ (s.setCluster n c).dispatches = s.dispatches ∧
    (s.setCluster n c).gangs = s.gangs ∧ (s.setCluster n c).nextImg = s.nextImg ∧ (s.setCluster n c).barriers = s.barriers ∧
    (s.setCluster n c).barIn = s.barIn ∧ (s.setCluster n c).tlbis = s.tlbis ∧ (s.setCluster n c).fab = s.fab ∧
    (s.setCluster n c).freshBad = s.freshBad ∧ (s.setCluster n c).martens = s.martens ∧ (s.setCluster n c).sec = s.sec ∧
    (s.setCluster n c).pkg = s.pkg ∧ (s.setCluster n c).npkg = s.npkg ∧ (s.setCluster n c).events = s.events ∧
    (s.setCluster n c).routerEvents = s.routerEvents ∧ (s.setCluster n c).badRows = s.badRows ∧
    (s.setCluster n c).badClusters = s.badClusters ∧ (s.setCluster n c).sched = s.sched ∧ (s.setCluster n c).turn = s.turn ∧
    (s.setCluster n c).defects = s.defects ∧ (s.setCluster n c).clock = s.clock ∧ (s.setCluster n c).freeCtr = s.freeCtr := by
  and_intros <;> rfl

/-- A barrier set. -/
@[simp] theorem setBarrier_fields (s : State) (n : Nat) (b : Barrier) :
    (s.setBarrier n b).cur = s.cur ∧ (s.setBarrier n b).curM = s.curM ∧ (s.setBarrier n b).curSlot = s.curSlot ∧
    (s.setBarrier n b).cores = s.cores ∧ (s.setBarrier n b).clusters = s.clusters ∧ (s.setBarrier n b).sisters = s.sisters ∧
    (s.setBarrier n b).mem = s.mem ∧ (s.setBarrier n b).l2 = s.l2 ∧ (s.setBarrier n b).cxl = s.cxl ∧ (s.setBarrier n b).binv = s.binv ∧
    (s.setBarrier n b).cxlWant = s.cxlWant ∧ (s.setBarrier n b).blocks = s.blocks ∧ (s.setBarrier n b).sweeps = s.sweeps ∧
    (s.setBarrier n b).ws = s.ws ∧ (s.setBarrier n b).wsPoison = s.wsPoison ∧ (s.setBarrier n b).wsWorld = s.wsWorld ∧
    (s.setBarrier n b).pkts = s.pkts ∧ (s.setBarrier n b).nextPkt = s.nextPkt ∧ (s.setBarrier n b).slotTab = s.slotTab ∧
    (s.setBarrier n b).slotOld = s.slotOld ∧ (s.setBarrier n b).reserved = s.reserved ∧ (s.setBarrier n b).peg = s.peg ∧
    (s.setBarrier n b).pegPkt = s.pegPkt ∧ (s.setBarrier n b).pegSeen = s.pegSeen ∧ (s.setBarrier n b).links = s.links ∧
    (s.setBarrier n b).launches = s.launches ∧ (s.setBarrier n b).queues = s.queues ∧ (s.setBarrier n b).nextLid = s.nextLid ∧
    (s.setBarrier n b).lbad = s.lbad ∧ (s.setBarrier n b).rrq = s.rrq ∧ (s.setBarrier n b).dispatches = s.dispatches ∧
    (s.setBarrier n b).gangs = s.gangs ∧ (s.setBarrier n b).nextImg = s.nextImg ∧ (s.setBarrier n b).barriers = SMap.set s.barriers n b ∧
    (s.setBarrier n b).barIn = s.barIn ∧ (s.setBarrier n b).tlbis = s.tlbis ∧ (s.setBarrier n b).fab = s.fab ∧
    (s.setBarrier n b).freshBad = s.freshBad ∧ (s.setBarrier n b).martens = s.martens ∧ (s.setBarrier n b).sec = s.sec ∧
    (s.setBarrier n b).pkg = s.pkg ∧ (s.setBarrier n b).npkg = s.npkg ∧ (s.setBarrier n b).events = s.events ∧
    (s.setBarrier n b).routerEvents = s.routerEvents ∧ (s.setBarrier n b).badRows = s.badRows ∧
    (s.setBarrier n b).badClusters = s.badClusters ∧ (s.setBarrier n b).sched = s.sched ∧ (s.setBarrier n b).turn = s.turn ∧
    (s.setBarrier n b).defects = s.defects ∧ (s.setBarrier n b).clock = s.clock ∧ (s.setBarrier n b).freeCtr = s.freeCtr := by
  and_intros <;> rfl

/-- A launch queue set. -/
@[simp] theorem setQueue_fields (s : State) (n : Nat) (q : Queue) :
    (s.setQueue n q).cur = s.cur ∧ (s.setQueue n q).curM = s.curM ∧ (s.setQueue n q).curSlot = s.curSlot ∧
    (s.setQueue n q).cores = s.cores ∧ (s.setQueue n q).clusters = s.clusters ∧ (s.setQueue n q).sisters = s.sisters ∧
    (s.setQueue n q).mem = s.mem ∧ (s.setQueue n q).l2 = s.l2 ∧ (s.setQueue n q).cxl = s.cxl ∧ (s.setQueue n q).binv = s.binv ∧
    (s.setQueue n q).cxlWant = s.cxlWant ∧ (s.setQueue n q).blocks = s.blocks ∧ (s.setQueue n q).sweeps = s.sweeps ∧
    (s.setQueue n q).ws = s.ws ∧ (s.setQueue n q).wsPoison = s.wsPoison ∧ (s.setQueue n q).wsWorld = s.wsWorld ∧
    (s.setQueue n q).pkts = s.pkts ∧ (s.setQueue n q).nextPkt = s.nextPkt ∧ (s.setQueue n q).slotTab = s.slotTab ∧
    (s.setQueue n q).slotOld = s.slotOld ∧ (s.setQueue n q).reserved = s.reserved ∧ (s.setQueue n q).peg = s.peg ∧
    (s.setQueue n q).pegPkt = s.pegPkt ∧ (s.setQueue n q).pegSeen = s.pegSeen ∧ (s.setQueue n q).links = s.links ∧
    (s.setQueue n q).launches = s.launches ∧ (s.setQueue n q).queues = SMap.set s.queues n q ∧ (s.setQueue n q).nextLid = s.nextLid ∧
    (s.setQueue n q).lbad = s.lbad ∧ (s.setQueue n q).rrq = s.rrq ∧ (s.setQueue n q).dispatches = s.dispatches ∧
    (s.setQueue n q).gangs = s.gangs ∧ (s.setQueue n q).nextImg = s.nextImg ∧ (s.setQueue n q).barriers = s.barriers ∧
    (s.setQueue n q).barIn = s.barIn ∧ (s.setQueue n q).tlbis = s.tlbis ∧ (s.setQueue n q).fab = s.fab ∧
    (s.setQueue n q).freshBad = s.freshBad ∧ (s.setQueue n q).martens = s.martens ∧ (s.setQueue n q).sec = s.sec ∧
    (s.setQueue n q).pkg = s.pkg ∧ (s.setQueue n q).npkg = s.npkg ∧ (s.setQueue n q).events = s.events ∧
    (s.setQueue n q).routerEvents = s.routerEvents ∧ (s.setQueue n q).badRows = s.badRows ∧ (s.setQueue n q).badClusters = s.badClusters ∧
    (s.setQueue n q).sched = s.sched ∧ (s.setQueue n q).turn = s.turn ∧ (s.setQueue n q).defects = s.defects ∧
    (s.setQueue n q).clock = s.clock ∧ (s.setQueue n q).freeCtr = s.freeCtr := by
  and_intros <;> rfl

/-- A launch set. -/
@[simp] theorem setLaunch_fields (s : State) (l : Launch) :
    (s.setLaunch l).cur = s.cur ∧ (s.setLaunch l).curM = s.curM ∧ (s.setLaunch l).curSlot = s.curSlot ∧ (s.setLaunch l).cores = s.cores ∧
    (s.setLaunch l).clusters = s.clusters ∧ (s.setLaunch l).sisters = s.sisters ∧ (s.setLaunch l).mem = s.mem ∧ (s.setLaunch l).l2 = s.l2 ∧
    (s.setLaunch l).cxl = s.cxl ∧ (s.setLaunch l).binv = s.binv ∧ (s.setLaunch l).cxlWant = s.cxlWant ∧ (s.setLaunch l).blocks = s.blocks ∧
    (s.setLaunch l).sweeps = s.sweeps ∧ (s.setLaunch l).ws = s.ws ∧ (s.setLaunch l).wsPoison = s.wsPoison ∧
    (s.setLaunch l).wsWorld = s.wsWorld ∧ (s.setLaunch l).pkts = s.pkts ∧ (s.setLaunch l).nextPkt = s.nextPkt ∧
    (s.setLaunch l).slotTab = s.slotTab ∧ (s.setLaunch l).slotOld = s.slotOld ∧ (s.setLaunch l).reserved = s.reserved ∧
    (s.setLaunch l).peg = s.peg ∧ (s.setLaunch l).pegPkt = s.pegPkt ∧ (s.setLaunch l).pegSeen = s.pegSeen ∧
    (s.setLaunch l).links = s.links ∧ (s.setLaunch l).launches = SMap.set s.launches l.lid (some l) ∧ (s.setLaunch l).queues = s.queues ∧
    (s.setLaunch l).nextLid = s.nextLid ∧ (s.setLaunch l).lbad = s.lbad ∧ (s.setLaunch l).rrq = s.rrq ∧
    (s.setLaunch l).dispatches = s.dispatches ∧ (s.setLaunch l).gangs = s.gangs ∧ (s.setLaunch l).nextImg = s.nextImg ∧
    (s.setLaunch l).barriers = s.barriers ∧ (s.setLaunch l).barIn = s.barIn ∧ (s.setLaunch l).tlbis = s.tlbis ∧
    (s.setLaunch l).fab = s.fab ∧ (s.setLaunch l).freshBad = s.freshBad ∧ (s.setLaunch l).martens = s.martens ∧
    (s.setLaunch l).sec = s.sec ∧ (s.setLaunch l).pkg = s.pkg ∧ (s.setLaunch l).npkg = s.npkg ∧ (s.setLaunch l).events = s.events ∧
    (s.setLaunch l).routerEvents = s.routerEvents ∧ (s.setLaunch l).badRows = s.badRows ∧ (s.setLaunch l).badClusters = s.badClusters ∧
    (s.setLaunch l).sched = s.sched ∧ (s.setLaunch l).turn = s.turn ∧ (s.setLaunch l).defects = s.defects ∧
    (s.setLaunch l).clock = s.clock ∧ (s.setLaunch l).freeCtr = s.freeCtr := by
  and_intros <;> rfl

/-- A connection set. -/
@[simp] theorem setConn_fields (s : State) (n : Nat) (x : Conn) :
    (s.setConn n x).cur = s.cur ∧ (s.setConn n x).curM = s.curM ∧ (s.setConn n x).curSlot = s.curSlot ∧ (s.setConn n x).cores = s.cores ∧
    (s.setConn n x).clusters = s.clusters ∧ (s.setConn n x).sisters = s.sisters ∧ (s.setConn n x).mem = s.mem ∧ (s.setConn n x).l2 = s.l2 ∧
    (s.setConn n x).cxl = s.cxl ∧ (s.setConn n x).binv = s.binv ∧ (s.setConn n x).cxlWant = s.cxlWant ∧ (s.setConn n x).blocks = s.blocks ∧
    (s.setConn n x).sweeps = s.sweeps ∧ (s.setConn n x).ws = s.ws ∧ (s.setConn n x).wsPoison = s.wsPoison ∧
    (s.setConn n x).wsWorld = s.wsWorld ∧ (s.setConn n x).pkts = s.pkts ∧ (s.setConn n x).nextPkt = s.nextPkt ∧
    (s.setConn n x).slotTab = s.slotTab ∧ (s.setConn n x).slotOld = s.slotOld ∧ (s.setConn n x).reserved = s.reserved ∧
    (s.setConn n x).peg = s.peg ∧ (s.setConn n x).pegPkt = s.pegPkt ∧ (s.setConn n x).pegSeen = s.pegSeen ∧
    (s.setConn n x).links = s.links ∧ (s.setConn n x).launches = s.launches ∧ (s.setConn n x).queues = s.queues ∧
    (s.setConn n x).nextLid = s.nextLid ∧ (s.setConn n x).lbad = s.lbad ∧ (s.setConn n x).rrq = s.rrq ∧
    (s.setConn n x).dispatches = s.dispatches ∧ (s.setConn n x).gangs = s.gangs ∧ (s.setConn n x).nextImg = s.nextImg ∧
    (s.setConn n x).barriers = s.barriers ∧ (s.setConn n x).barIn = s.barIn ∧ (s.setConn n x).tlbis = s.tlbis ∧
    (s.setConn n x).freshBad = s.freshBad ∧ (s.setConn n x).martens = s.martens ∧ (s.setConn n x).sec = s.sec ∧
    (s.setConn n x).pkg = s.pkg ∧ (s.setConn n x).npkg = s.npkg ∧ (s.setConn n x).events = s.events ∧
    (s.setConn n x).routerEvents = s.routerEvents ∧ (s.setConn n x).badRows = s.badRows ∧ (s.setConn n x).badClusters = s.badClusters ∧
    (s.setConn n x).sched = s.sched ∧ (s.setConn n x).turn = s.turn ∧ (s.setConn n x).defects = s.defects ∧
    (s.setConn n x).clock = s.clock ∧ (s.setConn n x).freeCtr = s.freeCtr := by
  and_intros <;> rfl

/-- A program slot set. -/
@[simp] theorem setMarten_fields (s : State) (m k : Nat) (x : MSlot) :
    (s.setMarten m k x).cur = s.cur ∧ (s.setMarten m k x).curM = s.curM ∧ (s.setMarten m k x).curSlot = s.curSlot ∧
    (s.setMarten m k x).cores = s.cores ∧ (s.setMarten m k x).clusters = s.clusters ∧ (s.setMarten m k x).sisters = s.sisters ∧
    (s.setMarten m k x).mem = s.mem ∧ (s.setMarten m k x).l2 = s.l2 ∧ (s.setMarten m k x).cxl = s.cxl ∧ (s.setMarten m k x).binv = s.binv ∧
    (s.setMarten m k x).cxlWant = s.cxlWant ∧ (s.setMarten m k x).blocks = s.blocks ∧ (s.setMarten m k x).sweeps = s.sweeps ∧
    (s.setMarten m k x).ws = s.ws ∧ (s.setMarten m k x).wsPoison = s.wsPoison ∧ (s.setMarten m k x).wsWorld = s.wsWorld ∧
    (s.setMarten m k x).pkts = s.pkts ∧ (s.setMarten m k x).nextPkt = s.nextPkt ∧ (s.setMarten m k x).slotTab = s.slotTab ∧
    (s.setMarten m k x).slotOld = s.slotOld ∧ (s.setMarten m k x).reserved = s.reserved ∧ (s.setMarten m k x).peg = s.peg ∧
    (s.setMarten m k x).pegPkt = s.pegPkt ∧ (s.setMarten m k x).pegSeen = s.pegSeen ∧ (s.setMarten m k x).links = s.links ∧
    (s.setMarten m k x).launches = s.launches ∧ (s.setMarten m k x).queues = s.queues ∧ (s.setMarten m k x).nextLid = s.nextLid ∧
    (s.setMarten m k x).lbad = s.lbad ∧ (s.setMarten m k x).rrq = s.rrq ∧ (s.setMarten m k x).dispatches = s.dispatches ∧
    (s.setMarten m k x).gangs = s.gangs ∧ (s.setMarten m k x).nextImg = s.nextImg ∧ (s.setMarten m k x).barriers = s.barriers ∧
    (s.setMarten m k x).barIn = s.barIn ∧ (s.setMarten m k x).tlbis = s.tlbis ∧ (s.setMarten m k x).fab = s.fab ∧
    (s.setMarten m k x).freshBad = s.freshBad ∧ (s.setMarten m k x).martens = SMap.set s.martens (4 * m + k) x ∧
    (s.setMarten m k x).sec = s.sec ∧ (s.setMarten m k x).pkg = s.pkg ∧ (s.setMarten m k x).npkg = s.npkg ∧
    (s.setMarten m k x).events = s.events ∧ (s.setMarten m k x).routerEvents = s.routerEvents ∧ (s.setMarten m k x).badRows = s.badRows ∧
    (s.setMarten m k x).badClusters = s.badClusters ∧ (s.setMarten m k x).sched = s.sched ∧ (s.setMarten m k x).turn = s.turn ∧
    (s.setMarten m k x).defects = s.defects ∧ (s.setMarten m k x).clock = s.clock ∧ (s.setMarten m k x).freeCtr = s.freeCtr := by
  and_intros <;> rfl

/-- A program slot changed. -/
@[simp] theorem modMarten_fields (s : State) (m k : Nat) (f : MSlot → MSlot) :
    (s.modMarten m k f).cur = s.cur ∧ (s.modMarten m k f).curM = s.curM ∧ (s.modMarten m k f).curSlot = s.curSlot ∧
    (s.modMarten m k f).cores = s.cores ∧ (s.modMarten m k f).clusters = s.clusters ∧ (s.modMarten m k f).sisters = s.sisters ∧
    (s.modMarten m k f).mem = s.mem ∧ (s.modMarten m k f).l2 = s.l2 ∧ (s.modMarten m k f).cxl = s.cxl ∧ (s.modMarten m k f).binv = s.binv ∧
    (s.modMarten m k f).cxlWant = s.cxlWant ∧ (s.modMarten m k f).blocks = s.blocks ∧ (s.modMarten m k f).sweeps = s.sweeps ∧
    (s.modMarten m k f).ws = s.ws ∧ (s.modMarten m k f).wsPoison = s.wsPoison ∧ (s.modMarten m k f).wsWorld = s.wsWorld ∧
    (s.modMarten m k f).pkts = s.pkts ∧ (s.modMarten m k f).nextPkt = s.nextPkt ∧ (s.modMarten m k f).slotTab = s.slotTab ∧
    (s.modMarten m k f).slotOld = s.slotOld ∧ (s.modMarten m k f).reserved = s.reserved ∧ (s.modMarten m k f).peg = s.peg ∧
    (s.modMarten m k f).pegPkt = s.pegPkt ∧ (s.modMarten m k f).pegSeen = s.pegSeen ∧ (s.modMarten m k f).links = s.links ∧
    (s.modMarten m k f).launches = s.launches ∧ (s.modMarten m k f).queues = s.queues ∧ (s.modMarten m k f).nextLid = s.nextLid ∧
    (s.modMarten m k f).lbad = s.lbad ∧ (s.modMarten m k f).rrq = s.rrq ∧ (s.modMarten m k f).dispatches = s.dispatches ∧
    (s.modMarten m k f).gangs = s.gangs ∧ (s.modMarten m k f).nextImg = s.nextImg ∧ (s.modMarten m k f).barriers = s.barriers ∧
    (s.modMarten m k f).barIn = s.barIn ∧ (s.modMarten m k f).tlbis = s.tlbis ∧ (s.modMarten m k f).fab = s.fab ∧
    (s.modMarten m k f).freshBad = s.freshBad ∧ (s.modMarten m k f).sec = s.sec ∧ (s.modMarten m k f).pkg = s.pkg ∧
    (s.modMarten m k f).npkg = s.npkg ∧ (s.modMarten m k f).events = s.events ∧ (s.modMarten m k f).routerEvents = s.routerEvents ∧
    (s.modMarten m k f).badRows = s.badRows ∧ (s.modMarten m k f).badClusters = s.badClusters ∧ (s.modMarten m k f).sched = s.sched ∧
    (s.modMarten m k f).turn = s.turn ∧ (s.modMarten m k f).defects = s.defects ∧ (s.modMarten m k f).clock = s.clock ∧
    (s.modMarten m k f).freeCtr = s.freeCtr := by
  and_intros <;> rfl

/-- A byte of memory written. -/
@[simp] theorem putByte_fields (s : State) (a : Nat) (b : Byte) :
    (s.putByte a b).cur = s.cur ∧ (s.putByte a b).curM = s.curM ∧ (s.putByte a b).curSlot = s.curSlot ∧ (s.putByte a b).cores = s.cores ∧
    (s.putByte a b).clusters = s.clusters ∧ (s.putByte a b).sisters = s.sisters ∧ (s.putByte a b).mem = SMap.put emptyByte s.mem a b ∧
    (s.putByte a b).l2 = s.l2 ∧ (s.putByte a b).cxl = s.cxl ∧ (s.putByte a b).binv = s.binv ∧ (s.putByte a b).cxlWant = s.cxlWant ∧
    (s.putByte a b).blocks = s.blocks ∧ (s.putByte a b).sweeps = s.sweeps ∧ (s.putByte a b).ws = s.ws ∧
    (s.putByte a b).wsPoison = s.wsPoison ∧ (s.putByte a b).wsWorld = s.wsWorld ∧ (s.putByte a b).pkts = s.pkts ∧
    (s.putByte a b).nextPkt = s.nextPkt ∧ (s.putByte a b).slotTab = s.slotTab ∧ (s.putByte a b).slotOld = s.slotOld ∧
    (s.putByte a b).reserved = s.reserved ∧ (s.putByte a b).peg = s.peg ∧ (s.putByte a b).pegPkt = s.pegPkt ∧
    (s.putByte a b).pegSeen = s.pegSeen ∧ (s.putByte a b).links = s.links ∧ (s.putByte a b).launches = s.launches ∧
    (s.putByte a b).queues = s.queues ∧ (s.putByte a b).nextLid = s.nextLid ∧ (s.putByte a b).lbad = s.lbad ∧ (s.putByte a b).rrq = s.rrq ∧
    (s.putByte a b).dispatches = s.dispatches ∧ (s.putByte a b).gangs = s.gangs ∧ (s.putByte a b).nextImg = s.nextImg ∧
    (s.putByte a b).barriers = s.barriers ∧ (s.putByte a b).barIn = s.barIn ∧ (s.putByte a b).tlbis = s.tlbis ∧
    (s.putByte a b).fab = s.fab ∧ (s.putByte a b).freshBad = s.freshBad ∧ (s.putByte a b).martens = s.martens ∧
    (s.putByte a b).sec = s.sec ∧ (s.putByte a b).pkg = s.pkg ∧ (s.putByte a b).npkg = s.npkg ∧ (s.putByte a b).events = s.events ∧
    (s.putByte a b).routerEvents = s.routerEvents ∧ (s.putByte a b).badRows = s.badRows ∧ (s.putByte a b).badClusters = s.badClusters ∧
    (s.putByte a b).sched = s.sched ∧ (s.putByte a b).turn = s.turn ∧ (s.putByte a b).defects = s.defects ∧
    (s.putByte a b).clock = s.clock ∧ (s.putByte a b).freeCtr = s.freeCtr := by
  and_intros <;> rfl

/-- A line of the L2 set. -/
@[simp] theorem setL2_fields (s : State) (n : Nat) (x : L2Line) :
    (s.setL2 n x).cur = s.cur ∧ (s.setL2 n x).curM = s.curM ∧ (s.setL2 n x).curSlot = s.curSlot ∧ (s.setL2 n x).cores = s.cores ∧
    (s.setL2 n x).clusters = s.clusters ∧ (s.setL2 n x).sisters = s.sisters ∧ (s.setL2 n x).mem = s.mem ∧
    (s.setL2 n x).l2 = SMap.set s.l2 n (some x) ∧ (s.setL2 n x).cxl = s.cxl ∧ (s.setL2 n x).binv = s.binv ∧
    (s.setL2 n x).cxlWant = s.cxlWant ∧ (s.setL2 n x).blocks = s.blocks ∧ (s.setL2 n x).sweeps = s.sweeps ∧ (s.setL2 n x).ws = s.ws ∧
    (s.setL2 n x).wsPoison = s.wsPoison ∧ (s.setL2 n x).wsWorld = s.wsWorld ∧ (s.setL2 n x).pkts = s.pkts ∧
    (s.setL2 n x).nextPkt = s.nextPkt ∧ (s.setL2 n x).slotTab = s.slotTab ∧ (s.setL2 n x).slotOld = s.slotOld ∧
    (s.setL2 n x).reserved = s.reserved ∧ (s.setL2 n x).peg = s.peg ∧ (s.setL2 n x).pegPkt = s.pegPkt ∧ (s.setL2 n x).pegSeen = s.pegSeen ∧
    (s.setL2 n x).links = s.links ∧ (s.setL2 n x).launches = s.launches ∧ (s.setL2 n x).queues = s.queues ∧
    (s.setL2 n x).nextLid = s.nextLid ∧ (s.setL2 n x).lbad = s.lbad ∧ (s.setL2 n x).rrq = s.rrq ∧ (s.setL2 n x).dispatches = s.dispatches ∧
    (s.setL2 n x).gangs = s.gangs ∧ (s.setL2 n x).nextImg = s.nextImg ∧ (s.setL2 n x).barriers = s.barriers ∧
    (s.setL2 n x).barIn = s.barIn ∧ (s.setL2 n x).tlbis = s.tlbis ∧ (s.setL2 n x).fab = s.fab ∧ (s.setL2 n x).freshBad = s.freshBad ∧
    (s.setL2 n x).martens = s.martens ∧ (s.setL2 n x).sec = s.sec ∧ (s.setL2 n x).pkg = s.pkg ∧ (s.setL2 n x).npkg = s.npkg ∧
    (s.setL2 n x).events = s.events ∧ (s.setL2 n x).routerEvents = s.routerEvents ∧ (s.setL2 n x).badRows = s.badRows ∧
    (s.setL2 n x).badClusters = s.badClusters ∧ (s.setL2 n x).sched = s.sched ∧ (s.setL2 n x).turn = s.turn ∧
    (s.setL2 n x).defects = s.defects ∧ (s.setL2 n x).clock = s.clock ∧ (s.setL2 n x).freeCtr = s.freeCtr := by
  and_intros <;> rfl

/-- A sweep set. -/
@[simp] theorem setSweep_fields (s : State) (n : Nat) (w : Sweep) :
    (s.setSweep n w).cur = s.cur ∧ (s.setSweep n w).curM = s.curM ∧ (s.setSweep n w).curSlot = s.curSlot ∧
    (s.setSweep n w).cores = s.cores ∧ (s.setSweep n w).clusters = s.clusters ∧ (s.setSweep n w).sisters = s.sisters ∧
    (s.setSweep n w).mem = s.mem ∧ (s.setSweep n w).l2 = s.l2 ∧ (s.setSweep n w).cxl = s.cxl ∧ (s.setSweep n w).binv = s.binv ∧
    (s.setSweep n w).cxlWant = s.cxlWant ∧ (s.setSweep n w).blocks = s.blocks ∧ (s.setSweep n w).sweeps = SMap.put {} s.sweeps n w ∧
    (s.setSweep n w).ws = s.ws ∧ (s.setSweep n w).wsPoison = s.wsPoison ∧ (s.setSweep n w).wsWorld = s.wsWorld ∧
    (s.setSweep n w).pkts = s.pkts ∧ (s.setSweep n w).nextPkt = s.nextPkt ∧ (s.setSweep n w).slotTab = s.slotTab ∧
    (s.setSweep n w).slotOld = s.slotOld ∧ (s.setSweep n w).reserved = s.reserved ∧ (s.setSweep n w).peg = s.peg ∧
    (s.setSweep n w).pegPkt = s.pegPkt ∧ (s.setSweep n w).pegSeen = s.pegSeen ∧ (s.setSweep n w).links = s.links ∧
    (s.setSweep n w).launches = s.launches ∧ (s.setSweep n w).queues = s.queues ∧ (s.setSweep n w).nextLid = s.nextLid ∧
    (s.setSweep n w).lbad = s.lbad ∧ (s.setSweep n w).rrq = s.rrq ∧ (s.setSweep n w).dispatches = s.dispatches ∧
    (s.setSweep n w).gangs = s.gangs ∧ (s.setSweep n w).nextImg = s.nextImg ∧ (s.setSweep n w).barriers = s.barriers ∧
    (s.setSweep n w).barIn = s.barIn ∧ (s.setSweep n w).tlbis = s.tlbis ∧ (s.setSweep n w).fab = s.fab ∧
    (s.setSweep n w).freshBad = s.freshBad ∧ (s.setSweep n w).martens = s.martens ∧ (s.setSweep n w).sec = s.sec ∧
    (s.setSweep n w).pkg = s.pkg ∧ (s.setSweep n w).npkg = s.npkg ∧ (s.setSweep n w).events = s.events ∧
    (s.setSweep n w).routerEvents = s.routerEvents ∧ (s.setSweep n w).badRows = s.badRows ∧ (s.setSweep n w).badClusters = s.badClusters ∧
    (s.setSweep n w).sched = s.sched ∧ (s.setSweep n w).turn = s.turn ∧ (s.setSweep n w).defects = s.defects ∧
    (s.setSweep n w).clock = s.clock ∧ (s.setSweep n w).freeCtr = s.freeCtr := by
  and_intros <;> rfl

/-- A link set. -/
@[simp] theorem setLink_fields (s : State) (n : Nat) (x : Link) :
    (s.setLink n x).cur = s.cur ∧ (s.setLink n x).curM = s.curM ∧ (s.setLink n x).curSlot = s.curSlot ∧ (s.setLink n x).cores = s.cores ∧
    (s.setLink n x).clusters = s.clusters ∧ (s.setLink n x).sisters = s.sisters ∧ (s.setLink n x).mem = s.mem ∧ (s.setLink n x).l2 = s.l2 ∧
    (s.setLink n x).cxl = s.cxl ∧ (s.setLink n x).binv = s.binv ∧ (s.setLink n x).cxlWant = s.cxlWant ∧ (s.setLink n x).blocks = s.blocks ∧
    (s.setLink n x).sweeps = s.sweeps ∧ (s.setLink n x).ws = s.ws ∧ (s.setLink n x).wsPoison = s.wsPoison ∧
    (s.setLink n x).wsWorld = s.wsWorld ∧ (s.setLink n x).pkts = s.pkts ∧ (s.setLink n x).nextPkt = s.nextPkt ∧
    (s.setLink n x).slotTab = s.slotTab ∧ (s.setLink n x).slotOld = s.slotOld ∧ (s.setLink n x).reserved = s.reserved ∧
    (s.setLink n x).peg = s.peg ∧ (s.setLink n x).pegPkt = s.pegPkt ∧ (s.setLink n x).pegSeen = s.pegSeen ∧
    (s.setLink n x).links = SMap.put {} s.links n x ∧ (s.setLink n x).launches = s.launches ∧ (s.setLink n x).queues = s.queues ∧
    (s.setLink n x).nextLid = s.nextLid ∧ (s.setLink n x).lbad = s.lbad ∧ (s.setLink n x).rrq = s.rrq ∧
    (s.setLink n x).dispatches = s.dispatches ∧ (s.setLink n x).gangs = s.gangs ∧ (s.setLink n x).nextImg = s.nextImg ∧
    (s.setLink n x).barriers = s.barriers ∧ (s.setLink n x).barIn = s.barIn ∧ (s.setLink n x).tlbis = s.tlbis ∧
    (s.setLink n x).fab = s.fab ∧ (s.setLink n x).freshBad = s.freshBad ∧ (s.setLink n x).martens = s.martens ∧
    (s.setLink n x).sec = s.sec ∧ (s.setLink n x).pkg = s.pkg ∧ (s.setLink n x).npkg = s.npkg ∧ (s.setLink n x).events = s.events ∧
    (s.setLink n x).routerEvents = s.routerEvents ∧ (s.setLink n x).badRows = s.badRows ∧ (s.setLink n x).badClusters = s.badClusters ∧
    (s.setLink n x).sched = s.sched ∧ (s.setLink n x).turn = s.turn ∧ (s.setLink n x).defects = s.defects ∧
    (s.setLink n x).clock = s.clock ∧ (s.setLink n x).freeCtr = s.freeCtr := by
  and_intros <;> rfl

/-- A packet gone. -/
@[simp] theorem dropPkt_fields (s : State) (n : Nat) :
    (s.dropPkt n).cur = s.cur ∧ (s.dropPkt n).curM = s.curM ∧ (s.dropPkt n).curSlot = s.curSlot ∧ (s.dropPkt n).cores = s.cores ∧
    (s.dropPkt n).clusters = s.clusters ∧ (s.dropPkt n).sisters = s.sisters ∧ (s.dropPkt n).mem = s.mem ∧ (s.dropPkt n).l2 = s.l2 ∧
    (s.dropPkt n).cxl = s.cxl ∧ (s.dropPkt n).binv = s.binv ∧ (s.dropPkt n).cxlWant = s.cxlWant ∧ (s.dropPkt n).blocks = s.blocks ∧
    (s.dropPkt n).sweeps = s.sweeps ∧ (s.dropPkt n).ws = s.ws ∧ (s.dropPkt n).wsPoison = s.wsPoison ∧ (s.dropPkt n).wsWorld = s.wsWorld ∧
    (s.dropPkt n).pkts = SMap.put none s.pkts n none ∧ (s.dropPkt n).nextPkt = s.nextPkt ∧ (s.dropPkt n).slotTab = s.slotTab ∧
    (s.dropPkt n).slotOld = s.slotOld ∧ (s.dropPkt n).reserved = s.reserved ∧ (s.dropPkt n).peg = s.peg ∧ (s.dropPkt n).pegPkt = s.pegPkt ∧
    (s.dropPkt n).pegSeen = s.pegSeen ∧ (s.dropPkt n).links = s.links ∧ (s.dropPkt n).launches = s.launches ∧
    (s.dropPkt n).queues = s.queues ∧ (s.dropPkt n).nextLid = s.nextLid ∧ (s.dropPkt n).lbad = s.lbad ∧ (s.dropPkt n).rrq = s.rrq ∧
    (s.dropPkt n).dispatches = s.dispatches ∧ (s.dropPkt n).gangs = s.gangs ∧ (s.dropPkt n).nextImg = s.nextImg ∧
    (s.dropPkt n).barriers = s.barriers ∧ (s.dropPkt n).barIn = s.barIn ∧ (s.dropPkt n).tlbis = s.tlbis ∧ (s.dropPkt n).fab = s.fab ∧
    (s.dropPkt n).freshBad = s.freshBad ∧ (s.dropPkt n).martens = s.martens ∧ (s.dropPkt n).sec = s.sec ∧ (s.dropPkt n).pkg = s.pkg ∧
    (s.dropPkt n).npkg = s.npkg ∧ (s.dropPkt n).events = s.events ∧ (s.dropPkt n).routerEvents = s.routerEvents ∧
    (s.dropPkt n).badRows = s.badRows ∧ (s.dropPkt n).badClusters = s.badClusters ∧ (s.dropPkt n).sched = s.sched ∧
    (s.dropPkt n).turn = s.turn ∧ (s.dropPkt n).defects = s.defects ∧ (s.dropPkt n).clock = s.clock ∧ (s.dropPkt n).freeCtr = s.freeCtr := by
  and_intros <;> rfl

/-- A command of the security processor answered. -/
@[simp] theorem spDone_fields (s : State) (r : Nat) :
    (s.spDone r).cur = s.cur ∧ (s.spDone r).curM = s.curM ∧ (s.spDone r).curSlot = s.curSlot ∧ (s.spDone r).cores = s.cores ∧
    (s.spDone r).clusters = s.clusters ∧ (s.spDone r).sisters = s.sisters ∧ (s.spDone r).mem = s.mem ∧ (s.spDone r).l2 = s.l2 ∧
    (s.spDone r).cxl = s.cxl ∧ (s.spDone r).binv = s.binv ∧ (s.spDone r).cxlWant = s.cxlWant ∧ (s.spDone r).blocks = s.blocks ∧
    (s.spDone r).sweeps = s.sweeps ∧ (s.spDone r).ws = s.ws ∧ (s.spDone r).wsPoison = s.wsPoison ∧ (s.spDone r).wsWorld = s.wsWorld ∧
    (s.spDone r).pkts = s.pkts ∧ (s.spDone r).nextPkt = s.nextPkt ∧ (s.spDone r).slotTab = s.slotTab ∧ (s.spDone r).slotOld = s.slotOld ∧
    (s.spDone r).reserved = s.reserved ∧ (s.spDone r).peg = s.peg ∧ (s.spDone r).pegPkt = s.pegPkt ∧ (s.spDone r).pegSeen = s.pegSeen ∧
    (s.spDone r).links = s.links ∧ (s.spDone r).launches = s.launches ∧ (s.spDone r).queues = s.queues ∧ (s.spDone r).nextLid = s.nextLid ∧
    (s.spDone r).lbad = s.lbad ∧ (s.spDone r).rrq = s.rrq ∧ (s.spDone r).dispatches = s.dispatches ∧ (s.spDone r).gangs = s.gangs ∧
    (s.spDone r).nextImg = s.nextImg ∧ (s.spDone r).barriers = s.barriers ∧ (s.spDone r).barIn = s.barIn ∧ (s.spDone r).tlbis = s.tlbis ∧
    (s.spDone r).fab = s.fab ∧ (s.spDone r).freshBad = s.freshBad ∧ (s.spDone r).martens = s.martens ∧
    (s.spDone r).sec = { s.sec with cmd := none, res := r } ∧ (s.spDone r).pkg = s.pkg ∧ (s.spDone r).npkg = s.npkg ∧
    (s.spDone r).events = s.events ∧ (s.spDone r).routerEvents = s.routerEvents ∧ (s.spDone r).badRows = s.badRows ∧
    (s.spDone r).badClusters = s.badClusters ∧ (s.spDone r).sched = s.sched ∧ (s.spDone r).turn = s.turn ∧
    (s.spDone r).defects = s.defects ∧ (s.spDone r).clock = s.clock ∧ (s.spDone r).freeCtr = s.freeCtr := by
  and_intros <;> rfl

/-- A stall cycle of a core. -/
@[simp] theorem stallCycle_fields (s : State) (n : Nat) (w : Option Word) (b : Bool) :
    (s.stallCycle n w b).cur = s.cur ∧ (s.stallCycle n w b).curM = s.curM ∧ (s.stallCycle n w b).curSlot = s.curSlot ∧
    (s.stallCycle n w b).clusters = s.clusters ∧ (s.stallCycle n w b).sisters = s.sisters ∧ (s.stallCycle n w b).mem = s.mem ∧
    (s.stallCycle n w b).l2 = s.l2 ∧ (s.stallCycle n w b).cxl = s.cxl ∧ (s.stallCycle n w b).binv = s.binv ∧
    (s.stallCycle n w b).cxlWant = s.cxlWant ∧ (s.stallCycle n w b).blocks = s.blocks ∧ (s.stallCycle n w b).sweeps = s.sweeps ∧
    (s.stallCycle n w b).ws = s.ws ∧ (s.stallCycle n w b).wsPoison = s.wsPoison ∧ (s.stallCycle n w b).wsWorld = s.wsWorld ∧
    (s.stallCycle n w b).pkts = s.pkts ∧ (s.stallCycle n w b).nextPkt = s.nextPkt ∧ (s.stallCycle n w b).slotTab = s.slotTab ∧
    (s.stallCycle n w b).slotOld = s.slotOld ∧ (s.stallCycle n w b).reserved = s.reserved ∧ (s.stallCycle n w b).peg = s.peg ∧
    (s.stallCycle n w b).pegPkt = s.pegPkt ∧ (s.stallCycle n w b).pegSeen = s.pegSeen ∧ (s.stallCycle n w b).links = s.links ∧
    (s.stallCycle n w b).launches = s.launches ∧ (s.stallCycle n w b).queues = s.queues ∧ (s.stallCycle n w b).nextLid = s.nextLid ∧
    (s.stallCycle n w b).lbad = s.lbad ∧ (s.stallCycle n w b).rrq = s.rrq ∧ (s.stallCycle n w b).dispatches = s.dispatches ∧
    (s.stallCycle n w b).gangs = s.gangs ∧ (s.stallCycle n w b).nextImg = s.nextImg ∧ (s.stallCycle n w b).barriers = s.barriers ∧
    (s.stallCycle n w b).barIn = s.barIn ∧ (s.stallCycle n w b).tlbis = s.tlbis ∧ (s.stallCycle n w b).fab = s.fab ∧
    (s.stallCycle n w b).freshBad = s.freshBad ∧ (s.stallCycle n w b).martens = s.martens ∧ (s.stallCycle n w b).sec = s.sec ∧
    (s.stallCycle n w b).pkg = s.pkg ∧ (s.stallCycle n w b).npkg = s.npkg ∧ (s.stallCycle n w b).events = s.events ∧
    (s.stallCycle n w b).routerEvents = s.routerEvents ∧ (s.stallCycle n w b).badRows = s.badRows ∧
    (s.stallCycle n w b).badClusters = s.badClusters ∧ (s.stallCycle n w b).sched = s.sched ∧ (s.stallCycle n w b).turn = s.turn ∧
    (s.stallCycle n w b).defects = s.defects ∧ (s.stallCycle n w b).clock = s.clock ∧ (s.stallCycle n w b).freeCtr = s.freeCtr := by
  and_intros <;> rfl

/-- A result put on its way. -/
@[simp] theorem push_fields (c : Core) (n : Nat) (w : RegWrite) :
    (c.push n w).run = c.run ∧ (c.push n w).regs = c.regs ∧ (c.push n w).spr = c.spr ∧ (c.push n w).pc = c.pc ∧
    (c.push n w).handler = c.handler ∧ (c.push n w).loops = c.loops ∧ (c.push n w).hloops = c.hloops ∧
    (c.push n w).pend = c.pend ++ [⟨c.handler, n, w, c.tick + n⟩] ∧ (c.push n w).accs = c.accs ∧ (c.push n w).seq = c.seq ∧
    (c.push n w).drain = c.drain ∧ (c.push n w).tlbiWait = c.tlbiWait ∧ (c.push n w).monitor = c.monitor ∧
    (c.push n w).segCount = c.segCount ∧ (c.push n w).segCrc = c.segCrc ∧ (c.push n w).marks = c.marks ∧ (c.push n w).arrGen = c.arrGen ∧
    (c.push n w).text = c.text ∧ (c.push n w).ctab = c.ctab ∧ (c.push n w).sealKey = c.sealKey ∧ (c.push n w).ctabPoison = c.ctabPoison ∧
    (c.push n w).banks = c.banks ∧ (c.push n w).sp = c.sp ∧ (c.push n w).spPoison = c.spPoison ∧ (c.push n w).owner = c.owner ∧
    (c.push n w).l1 = c.l1 ∧ (c.push n w).l1ptr = c.l1ptr ∧ (c.push n w).tlb = c.tlb ∧ (c.push n w).walk = c.walk ∧
    (c.push n w).walkFault = c.walkFault ∧ (c.push n w).recs = c.recs ∧ (c.push n w).arr0 = c.arr0 ∧ (c.push n w).arr1 = c.arr1 ∧
    (c.push n w).tiles = c.tiles ∧ (c.push n w).tilePoison = c.tilePoison ∧ (c.push n w).passes = c.passes ∧ (c.push n w).ftab0 = c.ftab0 ∧
    (c.push n w).ftab1 = c.ftab1 ∧ (c.push n w).wit = c.wit ∧ (c.push n w).handles = c.handles ∧ (c.push n w).lands = c.lands ∧
    (c.push n w).cmds = c.cmds ∧ (c.push n w).oldTabs = c.oldTabs ∧ (c.push n w).async = c.async ∧ (c.push n w).sent = c.sent ∧
    (c.push n w).performed = c.performed ∧ (c.push n w).classRR = c.classRR ∧ (c.push n w).held = c.held ∧
    (c.push n w).pairCrc = c.pairCrc ∧ (c.push n w).pairSum = c.pairSum ∧ (c.push n w).run_ = c.run_ ∧ (c.push n w).ncmd = c.ncmd ∧
    (c.push n w).stopCause = c.stopCause ∧ (c.push n w).faddr2 = c.faddr2 ∧ (c.push n w).hoff = c.hoff ∧ (c.push n w).fwait = c.fwait ∧
    (c.push n w).rowMap = c.rowMap ∧ (c.push n w).tick = c.tick ∧ (c.push n w).refresh = c.refresh ∧ (c.push n w).gated = c.gated ∧
    (c.push n w).retention = c.retention ∧ (c.push n w).powerOff = c.powerOff ∧ (c.push n w).lastWorld = c.lastWorld := by
  and_intros <;> rfl

/-- A handle set. -/
@[simp] theorem setHandle_fields (c : Core) (h : Nat) (x : Handle) :
    (c.setHandle h x).run = c.run ∧ (c.setHandle h x).regs = c.regs ∧ (c.setHandle h x).spr = c.spr ∧ (c.setHandle h x).pc = c.pc ∧
    (c.setHandle h x).handler = c.handler ∧ (c.setHandle h x).loops = c.loops ∧ (c.setHandle h x).hloops = c.hloops ∧
    (c.setHandle h x).pend = c.pend ∧ (c.setHandle h x).accs = c.accs ∧ (c.setHandle h x).seq = c.seq ∧ (c.setHandle h x).drain = c.drain ∧
    (c.setHandle h x).tlbiWait = c.tlbiWait ∧ (c.setHandle h x).monitor = c.monitor ∧ (c.setHandle h x).segCount = c.segCount ∧
    (c.setHandle h x).segCrc = c.segCrc ∧ (c.setHandle h x).marks = c.marks ∧ (c.setHandle h x).arrGen = c.arrGen ∧
    (c.setHandle h x).text = c.text ∧ (c.setHandle h x).ctab = c.ctab ∧ (c.setHandle h x).sealKey = c.sealKey ∧
    (c.setHandle h x).ctabPoison = c.ctabPoison ∧ (c.setHandle h x).banks = c.banks ∧ (c.setHandle h x).sp = c.sp ∧
    (c.setHandle h x).spPoison = c.spPoison ∧ (c.setHandle h x).owner = c.owner ∧ (c.setHandle h x).l1 = c.l1 ∧
    (c.setHandle h x).l1ptr = c.l1ptr ∧ (c.setHandle h x).tlb = c.tlb ∧ (c.setHandle h x).walk = c.walk ∧
    (c.setHandle h x).walkFault = c.walkFault ∧ (c.setHandle h x).recs = c.recs ∧ (c.setHandle h x).arr0 = c.arr0 ∧
    (c.setHandle h x).arr1 = c.arr1 ∧ (c.setHandle h x).tiles = c.tiles ∧ (c.setHandle h x).tilePoison = c.tilePoison ∧
    (c.setHandle h x).passes = c.passes ∧ (c.setHandle h x).ftab0 = c.ftab0 ∧ (c.setHandle h x).ftab1 = c.ftab1 ∧
    (c.setHandle h x).wit = c.wit ∧ (c.setHandle h x).handles = SMap.set c.handles h x ∧ (c.setHandle h x).lands = c.lands ∧
    (c.setHandle h x).cmds = c.cmds ∧ (c.setHandle h x).oldTabs = c.oldTabs ∧ (c.setHandle h x).async = c.async ∧
    (c.setHandle h x).sent = c.sent ∧ (c.setHandle h x).performed = c.performed ∧ (c.setHandle h x).classRR = c.classRR ∧
    (c.setHandle h x).held = c.held ∧ (c.setHandle h x).pairCrc = c.pairCrc ∧ (c.setHandle h x).pairSum = c.pairSum ∧
    (c.setHandle h x).run_ = c.run_ ∧ (c.setHandle h x).ncmd = c.ncmd ∧ (c.setHandle h x).stopCause = c.stopCause ∧
    (c.setHandle h x).faddr2 = c.faddr2 ∧ (c.setHandle h x).hoff = c.hoff ∧ (c.setHandle h x).fwait = c.fwait ∧
    (c.setHandle h x).rowMap = c.rowMap ∧ (c.setHandle h x).tick = c.tick ∧ (c.setHandle h x).refresh = c.refresh ∧
    (c.setHandle h x).gated = c.gated ∧ (c.setHandle h x).retention = c.retention ∧ (c.setHandle h x).powerOff = c.powerOff ∧
    (c.setHandle h x).lastWorld = c.lastWorld := by
  and_intros <;> rfl

/-- A row of the scratchpad written. -/
@[simp] theorem putRow_fields (c : Core) (r : Nat) (v : Row) (p : Bool) :
    (c.putRow r v p).run = c.run ∧ (c.putRow r v p).regs = c.regs ∧ (c.putRow r v p).spr = c.spr ∧ (c.putRow r v p).pc = c.pc ∧
    (c.putRow r v p).handler = c.handler ∧ (c.putRow r v p).loops = c.loops ∧ (c.putRow r v p).hloops = c.hloops ∧
    (c.putRow r v p).pend = c.pend ∧ (c.putRow r v p).accs = c.accs ∧ (c.putRow r v p).seq = c.seq ∧ (c.putRow r v p).drain = c.drain ∧
    (c.putRow r v p).tlbiWait = c.tlbiWait ∧ (c.putRow r v p).monitor = c.monitor ∧ (c.putRow r v p).segCount = c.segCount ∧
    (c.putRow r v p).segCrc = c.segCrc ∧ (c.putRow r v p).marks = c.marks ∧ (c.putRow r v p).arrGen = c.arrGen ∧
    (c.putRow r v p).text = c.text ∧ (c.putRow r v p).ctab = c.ctab ∧ (c.putRow r v p).sealKey = c.sealKey ∧
    (c.putRow r v p).ctabPoison = c.ctabPoison ∧ (c.putRow r v p).banks = c.banks ∧ (c.putRow r v p).sp = SMap.put 0 c.sp r v ∧
    (c.putRow r v p).spPoison = SMap.put false c.spPoison r p ∧ (c.putRow r v p).owner = c.owner ∧ (c.putRow r v p).l1 = c.l1 ∧
    (c.putRow r v p).l1ptr = c.l1ptr ∧ (c.putRow r v p).tlb = c.tlb ∧ (c.putRow r v p).walk = c.walk ∧
    (c.putRow r v p).walkFault = c.walkFault ∧ (c.putRow r v p).recs = c.recs ∧ (c.putRow r v p).arr0 = c.arr0 ∧
    (c.putRow r v p).arr1 = c.arr1 ∧ (c.putRow r v p).tiles = c.tiles ∧ (c.putRow r v p).tilePoison = c.tilePoison ∧
    (c.putRow r v p).passes = c.passes ∧ (c.putRow r v p).ftab0 = c.ftab0 ∧ (c.putRow r v p).ftab1 = c.ftab1 ∧
    (c.putRow r v p).wit = c.wit ∧ (c.putRow r v p).handles = c.handles ∧ (c.putRow r v p).lands = c.lands ∧
    (c.putRow r v p).cmds = c.cmds ∧ (c.putRow r v p).oldTabs = c.oldTabs ∧ (c.putRow r v p).async = c.async ∧
    (c.putRow r v p).sent = c.sent ∧ (c.putRow r v p).performed = c.performed ∧ (c.putRow r v p).classRR = c.classRR ∧
    (c.putRow r v p).held = c.held ∧ (c.putRow r v p).pairCrc = c.pairCrc ∧ (c.putRow r v p).pairSum = c.pairSum ∧
    (c.putRow r v p).run_ = c.run_ ∧ (c.putRow r v p).ncmd = c.ncmd ∧ (c.putRow r v p).stopCause = c.stopCause ∧
    (c.putRow r v p).faddr2 = c.faddr2 ∧ (c.putRow r v p).hoff = c.hoff ∧ (c.putRow r v p).fwait = c.fwait ∧
    (c.putRow r v p).rowMap = c.rowMap ∧ (c.putRow r v p).tick = c.tick ∧ (c.putRow r v p).refresh = c.refresh ∧
    (c.putRow r v p).gated = c.gated ∧ (c.putRow r v p).retention = c.retention ∧ (c.putRow r v p).powerOff = c.powerOff ∧
    (c.putRow r v p).lastWorld = c.lastWorld := by
  and_intros <;> rfl

/-- The handles of rows written. -/
@[simp] theorem touch_fields (c : Core) (l : List Nat) :
    (c.touch l).run = c.run ∧ (c.touch l).regs = c.regs ∧ (c.touch l).spr = c.spr ∧ (c.touch l).pc = c.pc ∧
    (c.touch l).handler = c.handler ∧ (c.touch l).loops = c.loops ∧ (c.touch l).hloops = c.hloops ∧ (c.touch l).pend = c.pend ∧
    (c.touch l).accs = c.accs ∧ (c.touch l).seq = c.seq ∧ (c.touch l).drain = c.drain ∧ (c.touch l).tlbiWait = c.tlbiWait ∧
    (c.touch l).monitor = c.monitor ∧ (c.touch l).segCount = c.segCount ∧ (c.touch l).segCrc = c.segCrc ∧ (c.touch l).marks = c.marks ∧
    (c.touch l).arrGen = c.arrGen ∧ (c.touch l).text = c.text ∧ (c.touch l).ctab = c.ctab ∧ (c.touch l).sealKey = c.sealKey ∧
    (c.touch l).ctabPoison = c.ctabPoison ∧ (c.touch l).banks = c.banks ∧ (c.touch l).sp = c.sp ∧ (c.touch l).spPoison = c.spPoison ∧
    (c.touch l).owner = c.owner ∧ (c.touch l).l1 = c.l1 ∧ (c.touch l).l1ptr = c.l1ptr ∧ (c.touch l).tlb = c.tlb ∧
    (c.touch l).walk = c.walk ∧ (c.touch l).walkFault = c.walkFault ∧ (c.touch l).recs = c.recs ∧ (c.touch l).arr0 = c.arr0 ∧
    (c.touch l).arr1 = c.arr1 ∧ (c.touch l).tiles = c.tiles ∧ (c.touch l).tilePoison = c.tilePoison ∧ (c.touch l).passes = c.passes ∧
    (c.touch l).ftab0 = c.ftab0 ∧ (c.touch l).ftab1 = c.ftab1 ∧ (c.touch l).wit = c.wit ∧ (c.touch l).lands = c.lands ∧
    (c.touch l).cmds = c.cmds ∧ (c.touch l).oldTabs = c.oldTabs ∧ (c.touch l).async = c.async ∧ (c.touch l).sent = c.sent ∧
    (c.touch l).performed = c.performed ∧ (c.touch l).classRR = c.classRR ∧ (c.touch l).held = c.held ∧ (c.touch l).pairCrc = c.pairCrc ∧
    (c.touch l).pairSum = c.pairSum ∧ (c.touch l).run_ = c.run_ ∧ (c.touch l).ncmd = c.ncmd ∧ (c.touch l).stopCause = c.stopCause ∧
    (c.touch l).faddr2 = c.faddr2 ∧ (c.touch l).hoff = c.hoff ∧ (c.touch l).fwait = c.fwait ∧ (c.touch l).rowMap = c.rowMap ∧
    (c.touch l).tick = c.tick ∧ (c.touch l).refresh = c.refresh ∧ (c.touch l).gated = c.gated ∧ (c.touch l).retention = c.retention ∧
    (c.touch l).powerOff = c.powerOff ∧ (c.touch l).lastWorld = c.lastWorld := by
  and_intros <;> rfl

/-- An engine command changed. -/
@[simp] theorem modCmd_fields (c : Core) (id : Nat) (f : Cmd → Cmd) :
    (c.modCmd id f).run = c.run ∧ (c.modCmd id f).regs = c.regs ∧ (c.modCmd id f).spr = c.spr ∧ (c.modCmd id f).pc = c.pc ∧
    (c.modCmd id f).handler = c.handler ∧ (c.modCmd id f).loops = c.loops ∧ (c.modCmd id f).hloops = c.hloops ∧
    (c.modCmd id f).pend = c.pend ∧ (c.modCmd id f).accs = c.accs ∧ (c.modCmd id f).seq = c.seq ∧ (c.modCmd id f).drain = c.drain ∧
    (c.modCmd id f).tlbiWait = c.tlbiWait ∧ (c.modCmd id f).monitor = c.monitor ∧ (c.modCmd id f).segCount = c.segCount ∧
    (c.modCmd id f).segCrc = c.segCrc ∧ (c.modCmd id f).marks = c.marks ∧ (c.modCmd id f).arrGen = c.arrGen ∧
    (c.modCmd id f).text = c.text ∧ (c.modCmd id f).ctab = c.ctab ∧ (c.modCmd id f).sealKey = c.sealKey ∧
    (c.modCmd id f).ctabPoison = c.ctabPoison ∧ (c.modCmd id f).banks = c.banks ∧ (c.modCmd id f).sp = c.sp ∧
    (c.modCmd id f).spPoison = c.spPoison ∧ (c.modCmd id f).owner = c.owner ∧ (c.modCmd id f).l1 = c.l1 ∧ (c.modCmd id f).l1ptr = c.l1ptr ∧
    (c.modCmd id f).tlb = c.tlb ∧ (c.modCmd id f).walk = c.walk ∧ (c.modCmd id f).walkFault = c.walkFault ∧ (c.modCmd id f).recs = c.recs ∧
    (c.modCmd id f).arr0 = c.arr0 ∧ (c.modCmd id f).arr1 = c.arr1 ∧ (c.modCmd id f).tiles = c.tiles ∧
    (c.modCmd id f).tilePoison = c.tilePoison ∧ (c.modCmd id f).passes = c.passes ∧ (c.modCmd id f).ftab0 = c.ftab0 ∧
    (c.modCmd id f).ftab1 = c.ftab1 ∧ (c.modCmd id f).wit = c.wit ∧ (c.modCmd id f).handles = c.handles ∧ (c.modCmd id f).lands = c.lands ∧
    (c.modCmd id f).cmds = (c.cmds.map fun m => if m.id = id then f m else m) ∧ (c.modCmd id f).oldTabs = c.oldTabs ∧
    (c.modCmd id f).async = c.async ∧ (c.modCmd id f).sent = c.sent ∧ (c.modCmd id f).performed = c.performed ∧
    (c.modCmd id f).classRR = c.classRR ∧ (c.modCmd id f).held = c.held ∧ (c.modCmd id f).pairCrc = c.pairCrc ∧
    (c.modCmd id f).pairSum = c.pairSum ∧ (c.modCmd id f).run_ = c.run_ ∧ (c.modCmd id f).ncmd = c.ncmd ∧
    (c.modCmd id f).stopCause = c.stopCause ∧ (c.modCmd id f).faddr2 = c.faddr2 ∧ (c.modCmd id f).hoff = c.hoff ∧
    (c.modCmd id f).fwait = c.fwait ∧ (c.modCmd id f).rowMap = c.rowMap ∧ (c.modCmd id f).tick = c.tick ∧
    (c.modCmd id f).refresh = c.refresh ∧ (c.modCmd id f).gated = c.gated ∧ (c.modCmd id f).retention = c.retention ∧
    (c.modCmd id f).powerOff = c.powerOff ∧ (c.modCmd id f).lastWorld = c.lastWorld := by
  and_intros <;> rfl

/-- A cycle in which a group issues. -/
@[simp] theorem issueCycle_fields (c : Core) :
    (c.issueCycle).run = c.run ∧ (c.issueCycle).regs = c.regs ∧ (c.issueCycle).spr = { c.spr with cyc := c.spr.cyc + 1 } ∧
    (c.issueCycle).pc = c.pc ∧ (c.issueCycle).handler = c.handler ∧ (c.issueCycle).loops = c.loops ∧ (c.issueCycle).hloops = c.hloops ∧
    (c.issueCycle).pend = c.pend ∧ (c.issueCycle).accs = c.accs ∧ (c.issueCycle).seq = c.seq ∧ (c.issueCycle).drain = c.drain ∧
    (c.issueCycle).tlbiWait = c.tlbiWait ∧ (c.issueCycle).monitor = c.monitor ∧ (c.issueCycle).segCount = c.segCount ∧
    (c.issueCycle).segCrc = c.segCrc ∧ (c.issueCycle).marks = c.marks ∧ (c.issueCycle).arrGen = c.arrGen ∧ (c.issueCycle).text = c.text ∧
    (c.issueCycle).ctab = c.ctab ∧ (c.issueCycle).sealKey = c.sealKey ∧ (c.issueCycle).ctabPoison = c.ctabPoison ∧
    (c.issueCycle).banks = c.banks ∧ (c.issueCycle).sp = c.sp ∧ (c.issueCycle).spPoison = c.spPoison ∧ (c.issueCycle).owner = c.owner ∧
    (c.issueCycle).l1 = c.l1 ∧ (c.issueCycle).l1ptr = c.l1ptr ∧ (c.issueCycle).tlb = c.tlb ∧ (c.issueCycle).walk = c.walk ∧
    (c.issueCycle).walkFault = c.walkFault ∧ (c.issueCycle).recs = c.recs ∧ (c.issueCycle).arr0 = c.arr0 ∧ (c.issueCycle).arr1 = c.arr1 ∧
    (c.issueCycle).tiles = c.tiles ∧ (c.issueCycle).tilePoison = c.tilePoison ∧ (c.issueCycle).passes = c.passes ∧
    (c.issueCycle).ftab0 = c.ftab0 ∧ (c.issueCycle).ftab1 = c.ftab1 ∧ (c.issueCycle).wit = c.wit ∧ (c.issueCycle).handles = c.handles ∧
    (c.issueCycle).lands = c.lands ∧ (c.issueCycle).cmds = c.cmds ∧ (c.issueCycle).oldTabs = c.oldTabs ∧ (c.issueCycle).async = c.async ∧
    (c.issueCycle).sent = c.sent ∧ (c.issueCycle).performed = c.performed ∧ (c.issueCycle).classRR = c.classRR ∧
    (c.issueCycle).held = c.held ∧ (c.issueCycle).pairCrc = c.pairCrc ∧ (c.issueCycle).pairSum = c.pairSum ∧ (c.issueCycle).run_ = c.run_ ∧
    (c.issueCycle).ncmd = c.ncmd ∧ (c.issueCycle).stopCause = c.stopCause ∧ (c.issueCycle).faddr2 = c.faddr2 ∧
    (c.issueCycle).hoff = c.hoff ∧ (c.issueCycle).fwait = c.fwait ∧ (c.issueCycle).rowMap = c.rowMap ∧ (c.issueCycle).tick = c.tick + 1 ∧
    (c.issueCycle).refresh = c.refresh ∧ (c.issueCycle).gated = c.gated ∧ (c.issueCycle).retention = c.retention ∧
    (c.issueCycle).powerOff = c.powerOff ∧ (c.issueCycle).lastWorld = c.lastWorld := by
  and_intros <;> rfl

/-- Cycles in which none does. -/
@[simp] theorem idleCycles_fields (c : Core) (k : Nat) :
    (c.idleCycles k).run = c.run ∧ (c.idleCycles k).regs = c.regs ∧ (c.idleCycles k).pc = c.pc ∧ (c.idleCycles k).handler = c.handler ∧
    (c.idleCycles k).loops = c.loops ∧ (c.idleCycles k).hloops = c.hloops ∧ (c.idleCycles k).pend = c.pend ∧
    (c.idleCycles k).accs = c.accs ∧ (c.idleCycles k).seq = c.seq ∧ (c.idleCycles k).drain = c.drain ∧
    (c.idleCycles k).tlbiWait = c.tlbiWait ∧ (c.idleCycles k).monitor = c.monitor ∧ (c.idleCycles k).segCount = c.segCount ∧
    (c.idleCycles k).segCrc = c.segCrc ∧ (c.idleCycles k).marks = c.marks ∧ (c.idleCycles k).arrGen = c.arrGen ∧
    (c.idleCycles k).text = c.text ∧ (c.idleCycles k).ctab = c.ctab ∧ (c.idleCycles k).sealKey = c.sealKey ∧
    (c.idleCycles k).ctabPoison = c.ctabPoison ∧ (c.idleCycles k).banks = c.banks ∧ (c.idleCycles k).sp = c.sp ∧
    (c.idleCycles k).spPoison = c.spPoison ∧ (c.idleCycles k).owner = c.owner ∧ (c.idleCycles k).l1 = c.l1 ∧
    (c.idleCycles k).l1ptr = c.l1ptr ∧ (c.idleCycles k).tlb = c.tlb ∧ (c.idleCycles k).walk = c.walk ∧
    (c.idleCycles k).walkFault = c.walkFault ∧ (c.idleCycles k).recs = c.recs ∧ (c.idleCycles k).arr0 = c.arr0 ∧
    (c.idleCycles k).arr1 = c.arr1 ∧ (c.idleCycles k).tiles = c.tiles ∧ (c.idleCycles k).tilePoison = c.tilePoison ∧
    (c.idleCycles k).passes = c.passes ∧ (c.idleCycles k).ftab0 = c.ftab0 ∧ (c.idleCycles k).ftab1 = c.ftab1 ∧
    (c.idleCycles k).wit = c.wit ∧ (c.idleCycles k).handles = c.handles ∧ (c.idleCycles k).lands = c.lands ∧
    (c.idleCycles k).cmds = c.cmds ∧ (c.idleCycles k).oldTabs = c.oldTabs ∧ (c.idleCycles k).async = c.async ∧
    (c.idleCycles k).sent = c.sent ∧ (c.idleCycles k).performed = c.performed ∧ (c.idleCycles k).classRR = c.classRR ∧
    (c.idleCycles k).held = c.held ∧ (c.idleCycles k).pairCrc = c.pairCrc ∧ (c.idleCycles k).pairSum = c.pairSum ∧
    (c.idleCycles k).run_ = c.run_ ∧ (c.idleCycles k).ncmd = c.ncmd ∧ (c.idleCycles k).stopCause = c.stopCause ∧
    (c.idleCycles k).faddr2 = c.faddr2 ∧ (c.idleCycles k).hoff = c.hoff ∧ (c.idleCycles k).fwait = c.fwait ∧
    (c.idleCycles k).rowMap = c.rowMap ∧ (c.idleCycles k).tick = c.tick + k ∧ (c.idleCycles k).refresh = c.refresh ∧
    (c.idleCycles k).gated = c.gated ∧ (c.idleCycles k).retention = c.retention ∧ (c.idleCycles k).powerOff = c.powerOff ∧
    (c.idleCycles k).lastWorld = c.lastWorld := by
  and_intros <;> rfl

/-- The text of a task loaded. -/
@[simp] theorem loadTask_fields (c : Core) (t : TaskImage) :
    (c.loadTask t).run = c.run ∧ (c.loadTask t).regs = c.regs ∧ (c.loadTask t).spr = c.spr ∧ (c.loadTask t).pc = c.pc ∧
    (c.loadTask t).handler = c.handler ∧ (c.loadTask t).loops = c.loops ∧ (c.loadTask t).hloops = c.hloops ∧ (c.loadTask t).pend = c.pend ∧
    (c.loadTask t).accs = c.accs ∧ (c.loadTask t).seq = c.seq ∧ (c.loadTask t).drain = c.drain ∧ (c.loadTask t).tlbiWait = c.tlbiWait ∧
    (c.loadTask t).monitor = c.monitor ∧ (c.loadTask t).segCount = c.segCount ∧ (c.loadTask t).segCrc = c.segCrc ∧
    (c.loadTask t).marks = t.marks ∧ (c.loadTask t).arrGen = c.arrGen ∧ (c.loadTask t).text = t.text ∧ (c.loadTask t).ctab = t.ctab ∧
    (c.loadTask t).sealKey = c.sealKey ∧ (c.loadTask t).ctabPoison = c.ctabPoison ∧ (c.loadTask t).banks = c.banks ∧
    (c.loadTask t).sp = c.sp ∧ (c.loadTask t).spPoison = c.spPoison ∧ (c.loadTask t).owner = c.owner ∧ (c.loadTask t).l1 = c.l1 ∧
    (c.loadTask t).l1ptr = c.l1ptr ∧ (c.loadTask t).tlb = c.tlb ∧ (c.loadTask t).walk = c.walk ∧ (c.loadTask t).walkFault = c.walkFault ∧
    (c.loadTask t).recs = c.recs ∧ (c.loadTask t).arr0 = c.arr0 ∧ (c.loadTask t).arr1 = c.arr1 ∧ (c.loadTask t).tiles = c.tiles ∧
    (c.loadTask t).tilePoison = c.tilePoison ∧ (c.loadTask t).passes = c.passes ∧ (c.loadTask t).ftab0 = c.ftab0 ∧
    (c.loadTask t).ftab1 = c.ftab1 ∧ (c.loadTask t).wit = c.wit ∧ (c.loadTask t).handles = c.handles ∧ (c.loadTask t).lands = c.lands ∧
    (c.loadTask t).cmds = c.cmds ∧ (c.loadTask t).oldTabs = c.oldTabs ∧ (c.loadTask t).async = c.async ∧ (c.loadTask t).sent = c.sent ∧
    (c.loadTask t).performed = c.performed ∧ (c.loadTask t).classRR = c.classRR ∧ (c.loadTask t).held = c.held ∧
    (c.loadTask t).pairCrc = c.pairCrc ∧ (c.loadTask t).pairSum = c.pairSum ∧ (c.loadTask t).run_ = c.run_ ∧ (c.loadTask t).ncmd = c.ncmd ∧
    (c.loadTask t).stopCause = c.stopCause ∧ (c.loadTask t).faddr2 = c.faddr2 ∧ (c.loadTask t).hoff = c.hoff ∧
    (c.loadTask t).fwait = c.fwait ∧ (c.loadTask t).rowMap = c.rowMap ∧ (c.loadTask t).tick = c.tick ∧ (c.loadTask t).refresh = c.refresh ∧
    (c.loadTask t).gated = c.gated ∧ (c.loadTask t).retention = c.retention ∧ (c.loadTask t).powerOff = c.powerOff ∧
    (c.loadTask t).lastWorld = c.lastWorld := by
  and_intros <;> rfl

/-- Cycles of a program slot. -/
@[simp] theorem mtick_fields (x : MSlot) (n : Nat) :
    (x.tick n).run = x.run ∧ (x.tick n).lid = x.lid ∧ (x.tick n).k = x.k ∧ (x.tick n).kPoison = x.kPoison ∧ (x.tick n).pc = x.pc ∧
    (x.tick n).loops = x.loops ∧ (x.tick n).lm = x.lm ∧ (x.tick n).rank = x.rank ∧ (x.tick n).nr = x.nr ∧ (x.tick n).rtab = x.rtab ∧
    (x.tick n).emask = x.emask ∧ (x.tick n).queue = x.queue ∧ (x.tick n).locks = x.locks ∧ (x.tick n).held = x.held ∧
    (x.tick n).steps = x.steps ∧ (x.tick n).nextStep = x.nextStep ∧ (x.tick n).waits = x.waits ∧ (x.tick n).armed = x.armed ∧
    (x.tick n).prog = x.prog ∧ (x.tick n).mb = x.mb ∧ (x.tick n).world = x.world ∧ (x.tick n).cause = x.cause := by
  and_intros <;> rfl

/-! ## What a table reads after an update -/

@[simp] theorem core_setCore_same (s : State) (n : Nat) (c : Core) : (s.setCore n c).core n = c := by
  simp only [State.setCore, State.core, SMap.get_set, if_true]

theorem core_setCore_ne (s : State) {n k : Nat} (c : Core) (h : k ≠ n) : (s.setCore n c).core k = s.core k := by
  simp only [State.setCore, State.core, SMap.get_set, if_neg h]

/-- A core set twice holds what was set last. -/
@[simp] theorem setCore_setCore (s : State) (n : Nat) (c d : Core) : (s.setCore n c).setCore n d = s.setCore n d := by
  simp only [State.setCore, SMap.set_set]

@[simp] theorem cluster_setCluster_same (s : State) (n : Nat) (c : Cluster) : (s.setCluster n c).cluster n = c := by
  simp only [State.setCluster, State.cluster, SMap.get_set, if_true]

@[simp] theorem barrier_setBarrier_same (s : State) (n : Nat) (b : Barrier) : (s.setBarrier n b).barrier n = b := by
  simp only [State.setBarrier, State.barrier, SMap.get_set, if_true]

@[simp] theorem marten_setMarten_same (s : State) (m k : Nat) (x : MSlot) : (s.setMarten m k x).marten m k = x := by
  simp only [State.setMarten, State.marten, SMap.get_set, if_true]

@[simp] theorem launch_setLaunch_same (s : State) (l : Launch) : (s.setLaunch l).launch l.lid = some l := by
  simp only [State.setLaunch, State.launch, SMap.get_set, if_true]

@[simp] theorem handle_setHandle_same (c : Core) (h : Nat) (x : Handle) : (c.setHandle h x).handle h = x := by
  simp only [Core.setHandle, Core.handle, SMap.get_set, if_true]

theorem handle_setHandle_ne (c : Core) {h k : Nat} (x : Handle) (hk : k ≠ h) : (c.setHandle h x).handle k = c.handle k := by
  simp only [Core.setHandle, Core.handle, SMap.get_set, if_neg hk]

@[simp] theorem row_putRow_same (c : Core) (r : Nat) (v : Row) (p : Bool) : (c.putRow r v p).row r = v := by
  simp only [Core.putRow, Core.row, SMap.get_put, if_true]

theorem row_putRow_ne (c : Core) {r k : Nat} (v : Row) (p : Bool) (h : k ≠ r) : (c.putRow r v p).row k = c.row k := by
  simp only [Core.putRow, Core.row, SMap.get_put, if_neg h]

/-! ## Memory -/

@[simp] theorem byte_putByte_same (s : State) (a : Nat) (b : Byte) : (s.putByte a b).byte a = b := by
  simp only [State.putByte, State.byte, SMap.get_put, if_true]

theorem byte_putByte_ne (s : State) {a k : Nat} (b : Byte) (h : k ≠ a) : (s.putByte a b).byte k = s.byte k := by
  simp only [State.putByte, State.byte, SMap.get_put, if_neg h]

/-- A byte written keeps the canonical form. -/
theorem wf_putByte (s : State) (a : Nat) (b : Byte) (h : Memory.wf s.mem) : Memory.wf (s.putByte a b).mem := SMap.wf_put _ _ _ _ h

theorem wf_storeNat (s : State) (a n x : Nat) (h : Memory.wf s.mem) : Memory.wf (s.storeNat a n x).mem := by
  induction n generalizing s a x with
  | zero => exact h
  | succ n ih => exact ih _ _ _ (wf_putByte _ _ _ h)

theorem wf_storeBytes (s : State) (a : Nat) (l : List Byte) (h : Memory.wf s.mem) : Memory.wf (s.storeBytes a l).mem := by
  induction l generalizing s a with
  | nil => exact h
  | cons b l ih => exact ih _ _ (wf_putByte _ _ _ h)

/-- A number stored leaves every byte outside it. -/
theorem byte_storeNat_out (s : State) (a n x : Nat) {k : Nat} (h : k < a ∨ a + n ≤ k) : (s.storeNat a n x).byte k = s.byte k := by
  induction n generalizing s a x with
  | zero => rfl
  | succ n ih => exact (ih _ _ _ (by omega)).trans (byte_putByte_ne _ _ (by omega))

/-- Bytes stored leave every byte outside them. -/
theorem byte_storeBytes_out (s : State) (a : Nat) (l : List Byte) {k : Nat} (h : k < a ∨ a + l.length ≤ k) :
    (s.storeBytes a l).byte k = s.byte k := by
  induction l generalizing s a with
  | nil => rfl
  | cons b l ih => exact (ih _ _ (by simp at h; omega)).trans (byte_putByte_ne _ _ (by simp at h; omega))

/-- The memory after reset has the canonical form. -/
theorem wf_reset : Memory.wf State.reset.mem := rfl

end Sys2Proof.Machine
end

