-- ==== Sys2Proof/Laws/Memory.lean ====
section
/-! SUPPORT. The canonical form of the memory through a cold start, and the bytes a store writes and a load reads. -/
namespace Sys2Proof

namespace SMap

variable {α : Type}

theorem wfFrom_filter [DecidableEq α] (d : α) (p : Nat × α → Bool) (lo : Nat) (m : SMap α) (hw : wfFrom d lo m = true) :
    wfFrom d lo (m.filter p) = true := by
  induction m generalizing lo with
  | nil => rfl
  | cons e m ih =>
    obtain ⟨k, v⟩ := e
    simp only [wfFrom, Bool.and_eq_true, decide_eq_true_eq] at hw
    by_cases h : p (k, v) = true
    · simp only [List.filter_cons, h, if_true, wfFrom, Bool.and_eq_true, decide_eq_true_eq]
      exact ⟨hw.1, ih (k + 1) hw.2⟩
    · rw [List.filter_cons, if_neg h]
      exact wfFrom_mono d (by omega) _ (ih (k + 1) hw.2)

/-- Entries kept by a choice of addresses stay in canonical form. -/
theorem wf_filter [DecidableEq α] (d : α) (p : Nat × α → Bool) (m : SMap α) (hw : wf d m = true) : wf d (m.filter p) = true :=
  wfFrom_filter d p 0 m hw

end SMap

namespace Machine

/-- A cold start keeps host memory as it is, in canonical form. -/
theorem wf_coldReset (s : State) (p : PowerState) (h : Memory.wf s.mem) : Memory.wf (s.coldReset p).mem :=
  SMap.wf_filter emptyByte _ _ h

/-- A change of one core leaves the memory. -/
theorem mem_modCore (s : State) (n : Nat) (f : Core → Core) : (s.modCore n f).mem = s.mem := rfl

/-- A byte written reads as written, every other as before. -/
theorem byte_putByte (s : State) (a p : Nat) (b : Byte) : (s.putByte a b).byte p = if p = a then b else s.byte p := by
  simp only [State.putByte, State.byte, SMap.get_put]

/-- Bytes stored read as stored, every other as before. -/
theorem byte_storeBytes (l : List Byte) (s : State) (a p : Nat) :
    (s.storeBytes a l).byte p = if h : a ≤ p ∧ p - a < l.length then l[p - a] else s.byte p := by
  induction l generalizing s a with
  | nil => simp [State.storeBytes]
  | cons b l ih =>
    rw [State.storeBytes, ih, byte_putByte]
    by_cases h : p = a
    · subst h
      simp [show ¬ p + 1 ≤ p by omega]
    · by_cases h1 : a + 1 ≤ p
      · obtain ⟨k, rfl⟩ : ∃ k, p = a + 1 + k := ⟨p - (a + 1), by omega⟩
        simp [h, show a + 1 + k - (a + 1) = k by omega, show a + 1 + k - a = k + 1 by omega, show a ≤ a + 1 + k by omega]
      · simp [h, h1, show ¬ a ≤ p by omega]

/-- The bytes a load answers. -/
theorem loadBytes_eq (n : Nat) (s : State) (a : Nat) : s.loadBytes a n = (List.range n).map fun i => s.byte (a + i) := by
  induction n generalizing a with
  | zero => rfl
  | succ n ih => simp [State.loadBytes, ih, List.range_succ_eq_map, Nat.add_assoc, Nat.add_comm 1]

end Machine

end Sys2Proof
end

