-- ==== Sys2Proof/Laws/PerInstr.lean ====
section
/-! SUPPORT. Per instruction: its encoding carries the opcode the opcode table gives it (R77 to R81, R84, R139, R171, R186, R196, R247, R416), and a step that
is no instruction has no encoding. -/
open Sys2Proof Sys2Proof.Laws.Encode

namespace Sys2Proof.Laws.Encoding

/-- The opcode field of an encoding: bits 31:25 of a slot word of 32 bits, 63:57 of one of 64, 31:26 of a word of a communication core. -/
def opcodeField : Encoded → Option Nat
  | .w32 _ w => some (w.toNat / 2 ^ 25)
  | .w64 _ w => some (w.toNat / 2 ^ 57)
  | .kw w => some (w.toNat / 2 ^ 26)
  | .header => some 0x80
  | .none => none

/-- The opcode of the instruction's row. -/
def tableOpcode : Instr → Option Nat
  | .nopGroup => some 0x80
  | .cNop .. => some 0x00
  | .cBr .. => some 0x01
  | .cJmp .. => some 0x02
  | .cCall .. => some 0x03
  | .cRet .. => some 0x04
  | .cLoop .. => some 0x05
  | .cBrk .. => some 0x06
  | .cTrap .. => some 0x07
  | .cTret .. => some 0x08
  | .cEnd .. => some 0x09
  | .cWait .. => some 0x10
  | .cWaith .. => some 0x11
  | .cWaitt .. => some 0x12
  | .cWaitl .. => some 0x13
  | .cScheck .. => some 0x14
  | .cRelb .. => some 0x18
  | .cAcqb .. => some 0x19
  | .cFinc .. => some 0x20
  | .cFwait .. => some 0x21
  | .cFarm .. => some 0x22
  | .cFdis .. => some 0x23
  | .cBpost .. => some 0x28
  | .cBarr .. => some 0x29
  | .cBwait .. => some 0x2A
  | .cLaunch .. => some 0x30
  | .cTlbi .. => some 0x31
  | .cScrub .. => some 0x32
  | .aAdd .. => some 0x00
  | .aSub .. => some 0x01
  | .aAnd .. => some 0x02
  | .aOr .. => some 0x03
  | .aXor .. => some 0x04
  | .aShl .. => some 0x05
  | .aShr .. => some 0x06
  | .aSar .. => some 0x07
  | .aMul .. => some 0x08
  | .aMulh .. => some 0x09
  | .aMin .. => some 0x0A
  | .aMax .. => some 0x0B
  | .aCmp .. => some 0x0C
  | .aSel .. => some 0x0D
  | .aClz .. => some 0x0E
  | .aPop .. => some 0x0F
  | .aAddi .. => some 0x10
  | .aAndi .. => some 0x11
  | .aOri .. => some 0x12
  | .aXori .. => some 0x13
  | .aShli .. => some 0x14
  | .aShri .. => some 0x15
  | .aLi .. => some 0x18
  | .aLih .. => some 0x19
  | .aMov .. => some 0x1A
  | .aMfs .. => some 0x1B
  | .aMts .. => some 0x1C
  | .aPand .. => some 0x20
  | .aPor .. => some 0x21
  | .aPxor .. => some 0x22
  | .aPnot .. => some 0x23
  | .aQset .. => some 0x28
  | .aQget .. => some 0x29
  | .aHq .. => some 0x2A
  | .lLd .. => some 0x00
  | .lSt .. => some 0x01
  | .lLdq .. => some 0x02
  | .lStq .. => some 0x03
  | .lLdg .. => some 0x08
  | .lStg .. => some 0x09
  | .lLdgv .. => some 0x0A
  | .lStgv .. => some 0x0B
  | .lLdx .. => some 0x10
  | .lStx .. => some 0x11
  | .lAop .. => some 0x18
  | .lCas .. => some 0x19
  | .lSaop .. => some 0x1A
  | .lFence .. => some 0x20
  | .lDrain .. => some 0x21
  | .lCwb .. => some 0x28
  | .lCinv .. => some 0x29
  | .lCzero .. => some 0x2A
  | .lPf .. => some 0x2B
  | .lTlbp .. => some 0x2C
  | .vAdd .. => some 0x00
  | .vSub .. => some 0x01
  | .vMul .. => some 0x02
  | .vFma .. => some 0x03
  | .vMin .. => some 0x04
  | .vMax .. => some 0x05
  | .vAbs .. => some 0x06
  | .vNeg .. => some 0x07
  | .vSadd .. => some 0x08
  | .vAnd .. => some 0x10
  | .vOr .. => some 0x11
  | .vXor .. => some 0x12
  | .vShl .. => some 0x13
  | .vShr .. => some 0x14
  | .vSar .. => some 0x15
  | .vCmp .. => some 0x18
  | .vSel .. => some 0x19
  | .vCvt .. => some 0x20
  | .vScl .. => some 0x21
  | .vPack .. => some 0x22
  | .vUnpk .. => some 0x23
  | .vRed .. => some 0x28
  | .vRedx .. => some 0x29
  | .vPerm .. => some 0x30
  | .vRot .. => some 0x31
  | .vRmg .. => some 0x32
  | .vBc .. => some 0x33
  | .vIns .. => some 0x34
  | .vExt .. => some 0x35
  | .vIota .. => some 0x36
  | .vMovVv .. => some 0x37
  | .vMovVw .. => some 0x37
  | .vMovWv .. => some 0x37
  | .vWmax .. => some 0x40
  | .vWmin .. => some 0x41
  | .vWclamp .. => some 0x42
  | .vWmed .. => some 0x43
  | .vWsum .. => some 0x44
  | .vWtopk .. => some 0x45
  | .vAdjb .. => some 0x46
  | .fTsel .. => some 0x00
  | .fEval .. => some 0x01
  | .fRcp .. => some 0x02
  | .fRsq .. => some 0x03
  | .fExp2 .. => some 0x04
  | .fLog2 .. => some 0x05
  | .xZero .. => some 0x00
  | .xLdw .. => some 0x01
  | .xSwap .. => some 0x02
  | .xMul .. => some 0x03
  | .xAcc .. => some 0x04
  | .xRd .. => some 0x05
  | .xSt .. => some 0x06
  | .xCfg .. => some 0x07
  | .eCpy .. => some 0x00
  | .eCpyWadd .. => some 0x00
  | .eGath .. => some 0x01
  | .eScat .. => some 0x02
  | .eLand .. => some 0x03
  | .eHset .. => some 0x04
  | .eHfree .. => some 0x05
  | .eCbp .. => some 0x06
  | .eCbc .. => some 0x07
  | .ePut .. => some 0x10
  | .ePutLand .. => some 0x10
  | .eGet .. => some 0x11
  | .eRatom .. => some 0x12
  | .eColl .. => some 0x13
  | .eMcast .. => some 0x14
  | .eSig .. => some 0x15
  | .eCtxSave .. => some 0x18
  | .eCtxRest .. => some 0x18
  | .kNop => some 0x00
  | .kAdd .. => some 0x01
  | .kSub .. => some 0x02
  | .kAnd .. => some 0x03
  | .kOr .. => some 0x04
  | .kXor .. => some 0x05
  | .kShl .. => some 0x06
  | .kShr .. => some 0x07
  | .kAddi .. => some 0x08
  | .kAndi .. => some 0x09
  | .kOri .. => some 0x0A
  | .kShli .. => some 0x0B
  | .kShri .. => some 0x0C
  | .kLi .. => some 0x0D
  | .kLih .. => some 0x0E
  | .kMfs .. => some 0x0F
  | .kLd .. => some 0x10
  | .kSt .. => some 0x11
  | .kLdg .. => some 0x12
  | .kBeq .. => some 0x18
  | .kBne .. => some 0x19
  | .kBlt .. => some 0x1A
  | .kJmp .. => some 0x1B
  | .kCall .. => some 0x1C
  | .kRet .. => some 0x1D
  | .kLoop .. => some 0x1E
  | .kEnd => some 0x1F
  | .kEwait .. => some 0x20
  | .kEack .. => some 0x21
  | .kEmask .. => some 0x22
  | .kTimer .. => some 0x23
  | .kConn .. => some 0x24
  | .kRetx .. => some 0x25
  | .kCctl .. => some 0x26
  | .kPath .. => some 0x27
  | .kArm .. => some 0x28
  | .kMgrp .. => some 0x29
  | .kRfail .. => some 0x2A
  | .kSig .. => some 0x2B
  | .kRset .. => some 0x2C
  | .kPeer .. => some 0x2D
  | .kRpkg .. => some 0x2E
  | .kSend .. => some 0x30
  | .kRecv .. => some 0x31
  | .kRrs .. => some 0x32
  | .kCopy .. => some 0x33
  | .kMcast .. => some 0x34
  | .kWait .. => some 0x35
  | .asyncCauseTake .. | .witnessComplete .. | .adjbComplete .. | .fTableLoadComplete .. | .pendingResultDelivery ..
  | .loadResultArrival .. | .storeAckArrival .. | .xLdwComplete .. | .xPassCommit .. | .xStComplete .. | .engineCommandStart ..
  | .engineCommandComplete .. | .landingChunkArrival .. | .remoteAccessArrival .. | .orderedFlagArrival ..
  | .orderedFlagPerform .. | .flagIncrementApply .. | .barrierPostApply .. | .barrierArrivalApply .. | .barrierByteArrival ..
  | .pageWalkComplete .. | .tlbInvalidateArrival .. | .tlbiComplete .. | .stepComplete .. | .mcoreTimerExpire ..
  | .reductionContribution .. | .reductionResultDelivery .. | .multicastDelivery .. | .transportRtoExpire .. | .faaCombine ..
  | .clusterRelease .. | .launchCompletionRelease .. | .coreHaltStop .. | .weightStoreWriteStart .. | .clearToSendArrival ..
  | .stepRowArrival .. | .fabricRequestServe .. | .sweepBlock .. | .sweepStart .. | .clockGateEntry .. | .refreshWindowOpen ..
  | .refreshWindowClose .. | .dirRead .. | .dirReadExclusive .. | .dirUpgrade .. | .dirEvictionNotice .. | .l1Invalidate ..
  | .l1Downgrade .. | .hostSnoop .. | .hostHbmRead .. | .hostHbmWrite .. | .memoryRead .. | .memoryWrite .. | .sweepPause ..
  | .routerPacketReceive .. | .nonminTimeout .. | .pegRequest .. | .pegArrival .. | .linkFlitNak .. | .linkRetrainComplete ..
  | .bucketLeak .. | .linkExchangeTimeout .. | .fabricPacketReceive .. | .fabricAckReceive .. | .transitHoldExpire ..
  | .slotLost .. | .firmwareEventAction .. | .engineHaltStop .. | .mcoreHaltStop .. | .lportWrite .. | .launchWaitRecheck ..
  | .clusterDefect .. | .spcmdWopen .. | .spcmdKeyload .. | .spcmdWclose .. | .spcmdToken .. | .spcmdRekey .. | .spcmdInvalid ..
  | .registerWrite .. | .retentionEntry .. | .powerGateEntry .. | .powerThrottle .. | .debugHalt .. | .debugStep ..
  | .debugAccess .. | .backInvalidationResponse .. | .cxlCacheGrant .. | .weightStoreGranuleAssign .. | .debugResume ..
  | .burrowDelivery | .pegReissue | .launchDispatch | .spcmdConfig | .spcmdAttest | .spcmdWarm | .spcmdSleep | .spcmdLoad
  | .spcmdUnload | .coldStart | .sleepExit | .thermalTrip => none

/-- The encoding carries the opcode of the table. -/
def Statement (i : Instr) : Prop := opcodeField (encode i) = tableOpcode i

theorem wordR_opcode (op : Nat) (g : Guard) (d : BitVec 5) (a : BitVec 5) (b : BitVec 5) (k : BitVec 6) :
    (wordR op g d a b k).toNat / 2 ^ 25 = op % 128 := by
  rw [wordR_toNat]; omega
theorem wordI_opcode (op : Nat) (g : Guard) (d : BitVec 5) (a : BitVec 5) (imm : BitVec 11) :
    (wordI op g d a imm).toNat / 2 ^ 25 = op % 128 := by
  rw [wordI_toNat]; omega
theorem wordJ_opcode (op : Nat) (g : Guard) (d : BitVec 5) (imm : BitVec 16) :
    (wordJ op g d imm).toNat / 2 ^ 25 = op % 128 := by
  rw [wordJ_toNat]; omega
theorem wordM_opcode (op : Nat) (g : Guard) (d : BitVec 5) (a : BitVec 5) (q : BitVec 3) (off : BitVec 8) :
    (wordM op g d a q off).toNat / 2 ^ 25 = op % 128 := by
  rw [wordM_toNat]; omega
theorem wordP_opcode (op : Nat) (g : Guard) (ck : BitVec 2) (cv : BitVec 8) (last : BitVec 11) :
    (wordP op g ck cv last).toNat / 2 ^ 25 = op % 128 := by
  rw [wordP_toNat]; omega
theorem wordV_opcode (op : Nat) (t : Fmt) (d : BitVec 5) (a : BitVec 5) (b : BitVec 5) (r : VRange) :
    (wordV op t d a b r).toNat / 2 ^ 25 = op % 128 := by
  rw [wordV_toNat]; have := t.code.isLt; omega
theorem wordX_opcode (op : Nat) (arr : Bool) (mt : BitVec 3) (qa : BitVec 4) (qw : BitVec 4) (beats : BitVec 12) (pl : BitVec 5) (sp : BitVec 2) (mode : BitVec 8) (xr : BitVec 5) :
    (wordX op arr mt qa qw beats pl sp mode xr).toNat / 2 ^ 57 = op % 128 := by
  rw [wordX_toNat]; have := Bool.toNat_lt arr; omega
theorem wordE_opcode (op : Nat) (h : BitVec 6) (qs : BitVec 4) (qd : BitVec 4) (len : BitVec 16) (dar : BitVec 3) (acq : Bool) (rel : Bool) (scope : BitVec 3) (es : BitVec 5) (ec : BitVec 14) :
    (wordE op h qs qd len dar acq rel scope es ec).toNat / 2 ^ 57 = op % 128 := by
  rw [wordE_toNat]; have := Bool.toNat_lt acq; have := Bool.toNat_lt rel; omega
theorem wordKR_opcode (op : Nat) (d : BitVec 4) (a : BitVec 4) (b : BitVec 4) (x : BitVec 14) :
    (wordKR op d a b x).toNat / 2 ^ 26 = op % 64 := by
  rw [wordKR_toNat]; omega
theorem wordKI_opcode (op : Nat) (d : BitVec 4) (a : BitVec 4) (imm : BitVec 18) :
    (wordKI op d a imm).toNat / 2 ^ 26 = op % 64 := by
  rw [wordKI_toNat]; omega
theorem wordKL_opcode (op : Nat) (d : BitVec 4) (imm : BitVec 22) :
    (wordKL op d imm).toNat / 2 ^ 26 = op % 64 := by
  rw [wordKL_toNat]; omega

theorem nopGroup : Statement .nopGroup := rfl
theorem cNop (g : Guard) : Statement (.cNop g) := congrArg some (wordR_opcode ..)
theorem cBr (g : Guard) (line : BitVec 16) : Statement (.cBr g line) := congrArg some (wordJ_opcode ..)
theorem cJmp (g : Guard) (a : Reg) : Statement (.cJmp g a) := congrArg some (wordR_opcode ..)
theorem cCall (g : Guard) (d : Reg) (line : BitVec 16) : Statement (.cCall g d line) := congrArg some (wordJ_opcode ..)
theorem cRet (g : Guard) (a : Reg) : Statement (.cRet g a) := congrArg some (wordR_opcode ..)
theorem cLoop (g : Guard) (count : LoopCount) (last : BitVec 11) : Statement (.cLoop g count last) := congrArg some (wordP_opcode ..)
theorem cBrk (g : Guard) (code : BitVec 16) : Statement (.cBrk g code) := congrArg some (wordJ_opcode ..)
theorem cTrap (g : Guard) (code : BitVec 16) : Statement (.cTrap g code) := congrArg some (wordJ_opcode ..)
theorem cTret (g : Guard) : Statement (.cTret g) := congrArg some (wordR_opcode ..)
theorem cEnd (g : Guard) : Statement (.cEnd g) := congrArg some (wordR_opcode ..)
theorem cWait (g : Guard) (l s c t : BitVec 4) : Statement (.cWait g l s c t) := congrArg some (wordJ_opcode ..)
theorem cWaith (g : Guard) (cond : HCond) (h : BitVec 6) : Statement (.cWaith g cond h) := congrArg some (wordR_opcode ..)
theorem cWaitt (g : Guard) (a : Reg) (h : BitVec 6) : Statement (.cWaitt g a h) := congrArg some (wordR_opcode ..)
theorem cWaitl (g : Guard) (a : Reg) : Statement (.cWaitl g a) := congrArg some (wordR_opcode ..)
theorem cScheck (g : Guard) (seg : BitVec 11) : Statement (.cScheck g seg) := congrArg some (wordI_opcode ..)
theorem cRelb (g : Guard) (a b : Reg) : Statement (.cRelb g a b) := congrArg some (wordR_opcode ..)
theorem cAcqb (g : Guard) (a b : Reg) : Statement (.cAcqb g a b) := congrArg some (wordR_opcode ..)
theorem cFinc (g : Guard) (a b : Reg) : Statement (.cFinc g a b) := congrArg some (wordR_opcode ..)
theorem cFwait (g : Guard) (a b : Reg) : Statement (.cFwait g a b) := congrArg some (wordR_opcode ..)
theorem cFarm (g : Guard) (a b : Reg) (act : FAction) : Statement (.cFarm g a b act) := congrArg some (wordR_opcode ..)
theorem cFdis (g : Guard) (a : Reg) : Statement (.cFdis g a) := congrArg some (wordR_opcode ..)
theorem cBpost (g : Guard) (a b : Reg) : Statement (.cBpost g a b) := congrArg some (wordR_opcode ..)
theorem cBarr (g : Guard) (a : Reg) : Statement (.cBarr g a) := congrArg some (wordR_opcode ..)
theorem cBwait (g : Guard) (a : Reg) : Statement (.cBwait g a) := congrArg some (wordR_opcode ..)
theorem cLaunch (g : Guard) (a : Reg) : Statement (.cLaunch g a) := congrArg some (wordR_opcode ..)
theorem cTlbi (g : Guard) (a : Reg) (scope : Scope) : Statement (.cTlbi g a scope) := congrArg some (wordR_opcode ..)
theorem cScrub (g : Guard) (units : BitVec 5) : Statement (.cScrub g units) := congrArg some (wordR_opcode ..)
theorem aAdd (g : Guard) (d a b : Reg) : Statement (.aAdd g d a b) := congrArg some (wordR_opcode ..)
theorem aSub (g : Guard) (d a b : Reg) : Statement (.aSub g d a b) := congrArg some (wordR_opcode ..)
theorem aAnd (g : Guard) (d a b : Reg) : Statement (.aAnd g d a b) := congrArg some (wordR_opcode ..)
theorem aOr (g : Guard) (d a b : Reg) : Statement (.aOr g d a b) := congrArg some (wordR_opcode ..)
theorem aXor (g : Guard) (d a b : Reg) : Statement (.aXor g d a b) := congrArg some (wordR_opcode ..)
theorem aShl (g : Guard) (d a b : Reg) : Statement (.aShl g d a b) := congrArg some (wordR_opcode ..)
theorem aShr (g : Guard) (d a b : Reg) : Statement (.aShr g d a b) := congrArg some (wordR_opcode ..)
theorem aSar (g : Guard) (d a b : Reg) : Statement (.aSar g d a b) := congrArg some (wordR_opcode ..)
theorem aMul (g : Guard) (d a b : Reg) : Statement (.aMul g d a b) := congrArg some (wordR_opcode ..)
theorem aMulh (g : Guard) (d a b : Reg) (z : Bool) : Statement (.aMulh g d a b z) := congrArg some (wordR_opcode ..)
theorem aMin (g : Guard) (d a b : Reg) (z : Bool) : Statement (.aMin g d a b z) := congrArg some (wordR_opcode ..)
theorem aMax (g : Guard) (d a b : Reg) (z : Bool) : Statement (.aMax g d a b z) := congrArg some (wordR_opcode ..)
theorem aCmp (g : Guard) (cond : ACond) (p : BitVec 3) (a b : Reg) : Statement (.aCmp g cond p a b) := congrArg some (wordR_opcode ..)
theorem aSel (g : Guard) (d a b : Reg) (p : BitVec 3) : Statement (.aSel g d a b p) := congrArg some (wordR_opcode ..)
theorem aClz (g : Guard) (d a : Reg) : Statement (.aClz g d a) := congrArg some (wordR_opcode ..)
theorem aPop (g : Guard) (d a : Reg) : Statement (.aPop g d a) := congrArg some (wordR_opcode ..)
theorem aAddi (g : Guard) (d a : Reg) (imm : BitVec 11) : Statement (.aAddi g d a imm) := congrArg some (wordI_opcode ..)
theorem aAndi (g : Guard) (d a : Reg) (imm : BitVec 11) : Statement (.aAndi g d a imm) := congrArg some (wordI_opcode ..)
theorem aOri (g : Guard) (d a : Reg) (imm : BitVec 11) : Statement (.aOri g d a imm) := congrArg some (wordI_opcode ..)
theorem aXori (g : Guard) (d a : Reg) (imm : BitVec 11) : Statement (.aXori g d a imm) := congrArg some (wordI_opcode ..)
theorem aShli (g : Guard) (d a : Reg) (imm : BitVec 6) : Statement (.aShli g d a imm) := congrArg some (wordI_opcode ..)
theorem aShri (g : Guard) (d a : Reg) (imm : BitVec 6) : Statement (.aShri g d a imm) := congrArg some (wordI_opcode ..)
theorem aLi (g : Guard) (d : Reg) (imm : BitVec 16) : Statement (.aLi g d imm) := congrArg some (wordJ_opcode ..)
theorem aLih (g : Guard) (d : Reg) (imm : BitVec 16) : Statement (.aLih g d imm) := congrArg some (wordJ_opcode ..)
theorem aMov (g : Guard) (d a : Reg) : Statement (.aMov g d a) := congrArg some (wordR_opcode ..)
theorem aMfs (g : Guard) (d : Reg) (n : Reg) : Statement (.aMfs g d n) := congrArg some (wordR_opcode ..)
theorem aMts (g : Guard) (n : Reg) (a : Reg) : Statement (.aMts g n a) := congrArg some (wordR_opcode ..)
theorem aPand (g : Guard) (d a b : BitVec 3) : Statement (.aPand g d a b) := congrArg some (wordR_opcode ..)
theorem aPor (g : Guard) (d a b : BitVec 3) : Statement (.aPor g d a b) := congrArg some (wordR_opcode ..)
theorem aPxor (g : Guard) (d a b : BitVec 3) : Statement (.aPxor g d a b) := congrArg some (wordR_opcode ..)
theorem aPnot (g : Guard) (d a : BitVec 3) : Statement (.aPnot g d a) := congrArg some (wordR_opcode ..)
theorem aQset (g : Guard) (q : BitVec 4) (a : Reg) (wn : BitVec 2) : Statement (.aQset g q a wn) := congrArg some (wordR_opcode ..)
theorem aQget (g : Guard) (d : Reg) (q : BitVec 4) (wn : BitVec 2) : Statement (.aQget g d q wn) := congrArg some (wordR_opcode ..)
theorem aHq (g : Guard) (d : Reg) (h : BitVec 6) : Statement (.aHq g d h) := congrArg some (wordR_opcode ..)
theorem lLd (g : Guard) (sel : RowSel) (d a : Reg) (off : BitVec 8) : Statement (.lLd g sel d a off) := congrArg some (wordM_opcode ..)
theorem lSt (g : Guard) (sel : RowSel) (d a : Reg) (off : BitVec 8) : Statement (.lSt g sel d a off) := congrArg some (wordM_opcode ..)
theorem lLdq (g : Guard) (sp : Bool) (q : BitVec 4) (a : Reg) (off : BitVec 8) : Statement (.lLdq g sp q a off) := congrArg some (wordM_opcode ..)
theorem lStq (g : Guard) (q : BitVec 4) (a : Reg) (off : BitVec 8) : Statement (.lStq g q a off) := congrArg some (wordM_opcode ..)
theorem lLdg (g : Guard) (size : Size) (acq : Bool) (d a : Reg) (off : BitVec 8) :
    Statement (.lLdg g size acq d a off) := congrArg some (wordM_opcode ..)
theorem lStg (g : Guard) (size : Size) (rel : Bool) (d a : Reg) (off : BitVec 8) :
    Statement (.lStg g size rel d a off) := congrArg some (wordM_opcode ..)
theorem lLdgv (g : Guard) (q16 hi acq : Bool) (d a : Reg) (off : BitVec 8) :
    Statement (.lLdgv g q16 hi acq d a off) := congrArg some (wordM_opcode ..)
theorem lStgv (g : Guard) (q16 hi rel : Bool) (d a : Reg) (off : BitVec 8) :
    Statement (.lStgv g q16 hi rel d a off) := congrArg some (wordM_opcode ..)
theorem lLdx (g : Guard) (sel : RowSel) (acq : Bool) (d a : Reg) (off : BitVec 8) :
    Statement (.lLdx g sel acq d a off) := congrArg some (wordM_opcode ..)
theorem lStx (g : Guard) (sel : RowSel) (ofl : Bool) (d a : Reg) (off : BitVec 8) :
    Statement (.lStx g sel ofl d a off) := congrArg some (wordM_opcode ..)
theorem lAop (g : Guard) (op : AOp) (w4 z ar : Bool) (d a b : Reg) : Statement (.lAop g op w4 z ar d a b) := congrArg some (wordR_opcode ..)
theorem lCas (g : Guard) (size : CasSize) (ar : Bool) (d a b : Reg) : Statement (.lCas g size ar d a b) := congrArg some (wordR_opcode ..)
theorem lSaop (g : Guard) (op : AOp) (fmt : BitVec 3) (d a b : Reg) : Statement (.lSaop g op fmt d a b) := congrArg some (wordR_opcode ..)
theorem lFence (g : Guard) (kind : FenceKind) (scope : Scope) : Statement (.lFence g kind scope) := congrArg some (wordR_opcode ..)
theorem lDrain (g : Guard) (scope : Scope) : Statement (.lDrain g scope) := congrArg some (wordR_opcode ..)
theorem lCwb (g : Guard) (a : Reg) : Statement (.lCwb g a) := congrArg some (wordR_opcode ..)
theorem lCinv (g : Guard) (a : Reg) : Statement (.lCinv g a) := congrArg some (wordR_opcode ..)
theorem lCzero (g : Guard) (a : Reg) : Statement (.lCzero g a) := congrArg some (wordR_opcode ..)
theorem lPf (g : Guard) (ex l2 : Bool) (a : Reg) (off : BitVec 8) : Statement (.lPf g ex l2 a off) := congrArg some (wordM_opcode ..)
theorem lTlbp (g : Guard) (d a : Reg) : Statement (.lTlbp g d a) := congrArg some (wordR_opcode ..)
theorem vAdd (t : Fmt) (d a b : Reg) (r : VRange) : Statement (.vAdd t d a b r) := congrArg some (wordV_opcode ..)
theorem vSub (t : Fmt) (d a b : Reg) (r : VRange) : Statement (.vSub t d a b r) := congrArg some (wordV_opcode ..)
theorem vMul (t : Fmt) (d a b : Reg) (r : VRange) : Statement (.vMul t d a b r) := congrArg some (wordV_opcode ..)
theorem vFma (t : Fmt) (d a b : Reg) (r : VRange) : Statement (.vFma t d a b r) := congrArg some (wordV_opcode ..)
theorem vMin (t : Fmt) (d a b : Reg) (r : VRange) : Statement (.vMin t d a b r) := congrArg some (wordV_opcode ..)
theorem vMax (t : Fmt) (d a b : Reg) (r : VRange) : Statement (.vMax t d a b r) := congrArg some (wordV_opcode ..)
theorem vAbs (t : Fmt) (d a : Reg) (r : VRange) : Statement (.vAbs t d a r) := congrArg some (wordV_opcode ..)
theorem vNeg (t : Fmt) (d a : Reg) (r : VRange) : Statement (.vNeg t d a r) := congrArg some (wordV_opcode ..)
theorem vSadd (t : Fmt) (d a b : Reg) (r : VRange) : Statement (.vSadd t d a b r) := congrArg some (wordV_opcode ..)
theorem vAnd (t : Fmt) (d a b : Reg) (r : VRange) : Statement (.vAnd t d a b r) := congrArg some (wordV_opcode ..)
theorem vOr (t : Fmt) (d a b : Reg) (r : VRange) : Statement (.vOr t d a b r) := congrArg some (wordV_opcode ..)
theorem vXor (t : Fmt) (d a b : Reg) (r : VRange) : Statement (.vXor t d a b r) := congrArg some (wordV_opcode ..)
theorem vShl (t : Fmt) (d a b : Reg) (r : VRange) : Statement (.vShl t d a b r) := congrArg some (wordV_opcode ..)
theorem vShr (t : Fmt) (d a b : Reg) (r : VRange) : Statement (.vShr t d a b r) := congrArg some (wordV_opcode ..)
theorem vSar (t : Fmt) (d a b : Reg) (r : VRange) : Statement (.vSar t d a b r) := congrArg some (wordV_opcode ..)
theorem vCmp (t : Fmt) (cond : VCond) (wd : BitVec 2) (a b : Reg) (r : VRange) : Statement (.vCmp t cond wd a b r) := congrArg some (wordV_opcode ..)
theorem vSel (t : Fmt) (d a b : Reg) (r : VRange) : Statement (.vSel t d a b r) := congrArg some (wordV_opcode ..)
theorem vCvt (t from_ : Fmt) (rnd : Rnd) (d a : Reg) (w l : BitVec 2) : Statement (.vCvt t from_ rnd d a w l) := congrArg some (wordV_opcode ..)
theorem vScl (t : Fmt) (qt : QType) (blk32 : Bool) (d a : Reg) (r : VRange) : Statement (.vScl t qt blk32 d a r) := congrArg some (wordV_opcode ..)
theorem vPack (t : Fmt) (rnd : Rnd) (blk32 : Bool) (d a : Reg) (r : VRange) : Statement (.vPack t rnd blk32 d a r) := congrArg some (wordV_opcode ..)
theorem vUnpk (t : Fmt) (rnd : Rnd) (blk32 : Bool) (d a : Reg) (r : VRange) : Statement (.vUnpk t rnd blk32 d a r) := congrArg some (wordV_opcode ..)
theorem vRed (t : Fmt) (op : RedOp) (d a : Reg) (r : VRange) : Statement (.vRed t op d a r) := congrArg some (wordV_opcode ..)
theorem vRedx (t : Fmt) (isMin : Bool) (d a : Reg) (r : VRange) : Statement (.vRedx t isMin d a r) := congrArg some (wordV_opcode ..)
theorem vPerm (t : Fmt) (d a b : Reg) (r : VRange) : Statement (.vPerm t d a b r) := congrArg some (wordV_opcode ..)
theorem vRot (t : Fmt) (d a b : Reg) (r : VRange) : Statement (.vRot t d a b r) := congrArg some (wordV_opcode ..)
theorem vRmg (t : Fmt) (d a b : Reg) (r : VRange) : Statement (.vRmg t d a b r) := congrArg some (wordV_opcode ..)
theorem vBc (t : Fmt) (d a : Reg) (r : VRange) : Statement (.vBc t d a r) := congrArg some (wordV_opcode ..)
theorem vIns (t : Fmt) (d a b : Reg) (r : VRange) : Statement (.vIns t d a b r) := congrArg some (wordV_opcode ..)
theorem vExt (t : Fmt) (d a b : Reg) (w l : BitVec 2) : Statement (.vExt t d a b w l) := congrArg some (wordV_opcode ..)
theorem vIota (t : Fmt) (d a : Reg) (r : VRange) : Statement (.vIota t d a r) := congrArg some (wordV_opcode ..)
theorem vMovVv (t : Fmt) (d a : Reg) (r : VRange) : Statement (.vMovVv t d a r) := congrArg some (wordV_opcode ..)
theorem vMovVw (wd : BitVec 2) (a : Reg) : Statement (.vMovVw wd a) := congrArg some (wordV_opcode ..)
theorem vMovWv (d : Reg) (wa : BitVec 2) : Statement (.vMovWv d wa) := congrArg some (wordV_opcode ..)
theorem vWmax (t : Fmt) (d a b : Reg) : Statement (.vWmax t d a b) := congrArg some (wordV_opcode ..)
theorem vWmin (t : Fmt) (d a b : Reg) : Statement (.vWmin t d a b) := congrArg some (wordV_opcode ..)
theorem vWclamp (t : Fmt) (d a b : Reg) : Statement (.vWclamp t d a b) := congrArg some (wordV_opcode ..)
theorem vWmed (t : Fmt) (d a b : Reg) : Statement (.vWmed t d a b) := congrArg some (wordV_opcode ..)
theorem vWsum (t : Fmt) (d a b : Reg) : Statement (.vWsum t d a b) := congrArg some (wordV_opcode ..)
theorem vWtopk (t : Fmt) (d a b : Reg) : Statement (.vWtopk t d a b) := congrArg some (wordV_opcode ..)
theorem vAdjb (t : Fmt) (mode : AdjMode) (acc last : Bool) (a b : Reg) : Statement (.vAdjb t mode acc last a b) := congrArg some (wordV_opcode ..)
theorem fTsel (g : Guard) (ts : Bool) (a : Reg) : Statement (.fTsel g ts a) := congrArg some (wordR_opcode ..)
theorem fEval (g : Guard) (fmt : FFmt) (rg : BitVec 3) (ts : Bool) (d a : Reg) : Statement (.fEval g fmt rg ts d a) := congrArg some (wordR_opcode ..)
theorem fRcp (g : Guard) (fmt : FFmt) (rg : BitVec 3) (d a : Reg) : Statement (.fRcp g fmt rg d a) := congrArg some (wordR_opcode ..)
theorem fRsq (g : Guard) (fmt : FFmt) (rg : BitVec 3) (d a : Reg) : Statement (.fRsq g fmt rg d a) := congrArg some (wordR_opcode ..)
theorem fExp2 (g : Guard) (fmt : FFmt) (rg : BitVec 3) (d a : Reg) : Statement (.fExp2 g fmt rg d a) := congrArg some (wordR_opcode ..)
theorem fLog2 (g : Guard) (fmt : FFmt) (rg : BitVec 3) (d a : Reg) : Statement (.fLog2 g fmt rg d a) := congrArg some (wordR_opcode ..)
theorem xZero (mt : BitVec 3) : Statement (.xZero mt) := congrArg some (wordX_opcode ..)
theorem xLdw (arr : Bool) (wid : Wid) (sp : Sparsity) (qw : BitVec 4) (cols : BitVec 12) :
    Statement (.xLdw arr wid sp qw cols) := congrArg some (wordX_opcode ..)
theorem xSwap (arr : Bool) : Statement (.xSwap arr) := congrArg some (wordX_opcode ..)
theorem xMul (mt : BitVec 3) (qa : BitVec 4) (beats : BitVec 12) (pl : BitVec 5) (sp : Sparsity) (dw sub : Bool) :
    Statement (.xMul mt qa beats pl sp dw sub) := congrArg some (wordX_opcode ..)
theorem xAcc (mt : BitVec 3) (qa : BitVec 4) (beats : BitVec 12) (pl : BitVec 5) (sub : Bool) :
    Statement (.xAcc mt qa beats pl sub) := congrArg some (wordX_opcode ..)
theorem xRd (mt : BitVec 3) (fmt : Fmt) (rnd : Rnd) (vx : Reg) : Statement (.xRd mt fmt rnd vx) := congrArg some (wordX_opcode ..)
theorem xSt (mt : BitVec 3) (qa : BitVec 4) (fmt : Fmt) (rnd : Rnd) (clr : Bool) :
    Statement (.xSt mt qa fmt rnd clr) := congrArg some (wordX_opcode ..)
theorem xCfg (arr : Bool) (reg : XReg) (sx : Reg) : Statement (.xCfg arr reg sx) := congrArg some (wordX_opcode ..)
theorem eCpy (h : BitVec 6) (qs qd : BitVec 4) (len : BitVec 16) (dar : Darith) (ord : EOrd) (ec : BitVec 14) :
    Statement (.eCpy h qs qd len dar ord ec) := congrArg some (wordE_opcode ..)
theorem eCpyWadd (h : BitVec 6) (qs qd : BitVec 4) (len : BitVec 16) (ord : EOrd) (rnd : BitVec 2) (bexp : BitVec 12) :
    Statement (.eCpyWadd h qs qd len ord rnd bexp) := congrArg some (wordE_opcode ..)
theorem eGath (h : BitVec 6) (qs qd : BitVec 4) (len : BitVec 16) (ord : EOrd) (es : Reg) (xsh : BitVec 5) (glb : Bool) (fmt : Fmt) :
    Statement (.eGath h qs qd len ord es xsh glb fmt) := congrArg some (wordE_opcode ..)
theorem eScat (h : BitVec 6) (qs qd : BitVec 4) (len : BitVec 16) (dar : Darith) (ord : EOrd) (es : Reg) (xsh : BitVec 5) (glb : Bool) (fmt : Fmt) :
    Statement (.eScat h qs qd len dar ord es xsh glb fmt) := congrArg some (wordE_opcode ..)
theorem eLand (h : BitVec 6) (es : Reg) (tag : BitVec 14) : Statement (.eLand h es tag) := congrArg some (wordE_opcode ..)
theorem eHset (h : BitVec 6) (ring full : Bool) (isz : BitVec 3) (row rows : BitVec 13) :
    Statement (.eHset h ring full isz row rows) := by
  cases ring <;> exact congrArg some (wordE_opcode ..)
theorem eHfree (h : BitVec 6) : Statement (.eHfree h) := congrArg some (wordE_opcode ..)
theorem eCbp (h : BitVec 6) (act : RingAct) : Statement (.eCbp h act) := congrArg some (wordE_opcode ..)
theorem eCbc (h : BitVec 6) (act : RingAct) : Statement (.eCbc h act) := congrArg some (wordE_opcode ..)
theorem ePut (h : BitVec 6) (qs : BitVec 4) (len : BitVec 16) (dar : Darith) (ord : EOrd) (es : Reg) (dest : PutDest) (be : Bool) (bar : BitVec 6) :
    Statement (.ePut h qs len dar ord es dest be bar) := congrArg some (wordE_opcode ..)
theorem ePutLand (h : BitVec 6) (qs : BitVec 4) (len : BitVec 16) (ord : EOrd) (es : Reg) (chunk : BitVec 12) :
    Statement (.ePutLand h qs len ord es chunk) := congrArg some (wordE_opcode ..)
theorem eGet (h : BitVec 6) (qd : BitVec 4) (len : BitVec 16) (ord : EOrd) (es : Reg) (rsp : Bool) :
    Statement (.eGet h qd len ord es rsp) := congrArg some (wordE_opcode ..)
theorem eRatom (h : BitVec 6) (ord : EOrd) (es : Reg) (op : ROp) (w4 z : Bool) :
    Statement (.eRatom h ord es op w4 z) := congrArg some (wordE_opcode ..)
theorem eColl (h : BitVec 6) (len : BitVec 16) (dar : Darith) (ord : EOrd) (es : Reg) (cbase : BitVec 12) :
    Statement (.eColl h len dar ord es cbase) := congrArg some (wordE_opcode ..)
theorem eMcast (h : BitVec 6) (qs : BitVec 4) (len : BitVec 16) (ord : EOrd) (es : Reg) (group : BitVec 12) :
    Statement (.eMcast h qs len ord es group) := congrArg some (wordE_opcode ..)
theorem eSig (ord : EOrd) (es : Reg) : Statement (.eSig ord es) := congrArg some (wordE_opcode ..)
theorem eCtxSave (h : BitVec 6) (es : Reg) (core : BitVec 3) (units : BitVec 9) :
    Statement (.eCtxSave h es core units) := congrArg some (wordE_opcode ..)
theorem eCtxRest (h : BitVec 6) (es : Reg) (core : BitVec 3) (units : BitVec 9) :
    Statement (.eCtxRest h es core units) := congrArg some (wordE_opcode ..)
theorem kNop : Statement .kNop := congrArg some (wordKR_opcode ..)
theorem kAdd (d a b : KReg) : Statement (.kAdd d a b) := congrArg some (wordKR_opcode ..)
theorem kSub (d a b : KReg) : Statement (.kSub d a b) := congrArg some (wordKR_opcode ..)
theorem kAnd (d a b : KReg) : Statement (.kAnd d a b) := congrArg some (wordKR_opcode ..)
theorem kOr (d a b : KReg) : Statement (.kOr d a b) := congrArg some (wordKR_opcode ..)
theorem kXor (d a b : KReg) : Statement (.kXor d a b) := congrArg some (wordKR_opcode ..)
theorem kShl (d a b : KReg) : Statement (.kShl d a b) := congrArg some (wordKR_opcode ..)
theorem kShr (d a b : KReg) : Statement (.kShr d a b) := congrArg some (wordKR_opcode ..)
theorem kAddi (d a : KReg) (imm : BitVec 18) : Statement (.kAddi d a imm) := congrArg some (wordKI_opcode ..)
theorem kAndi (d a : KReg) (imm : BitVec 18) : Statement (.kAndi d a imm) := congrArg some (wordKI_opcode ..)
theorem kOri (d a : KReg) (imm : BitVec 18) : Statement (.kOri d a imm) := congrArg some (wordKI_opcode ..)
theorem kShli (d a : KReg) (imm : BitVec 6) : Statement (.kShli d a imm) := congrArg some (wordKI_opcode ..)
theorem kShri (d a : KReg) (imm : BitVec 6) : Statement (.kShri d a imm) := congrArg some (wordKI_opcode ..)
theorem kLi (d : KReg) (imm : BitVec 22) : Statement (.kLi d imm) := congrArg some (wordKL_opcode ..)
theorem kLih (d : KReg) (imm : BitVec 16) : Statement (.kLih d imm) := congrArg some (wordKL_opcode ..)
theorem kMfs (d : KReg) (n : BitVec 5) : Statement (.kMfs d n) := congrArg some (wordKR_opcode ..)
theorem kLd (d a : KReg) (imm : BitVec 18) : Statement (.kLd d a imm) := congrArg some (wordKI_opcode ..)
theorem kSt (d a : KReg) (imm : BitVec 18) : Statement (.kSt d a imm) := congrArg some (wordKI_opcode ..)
theorem kLdg (d a : KReg) (imm : BitVec 18) : Statement (.kLdg d a imm) := congrArg some (wordKI_opcode ..)
theorem kBeq (d a : KReg) (imm : BitVec 18) : Statement (.kBeq d a imm) := congrArg some (wordKI_opcode ..)
theorem kBne (d a : KReg) (imm : BitVec 18) : Statement (.kBne d a imm) := congrArg some (wordKI_opcode ..)
theorem kBlt (d a : KReg) (imm : BitVec 18) : Statement (.kBlt d a imm) := congrArg some (wordKI_opcode ..)
theorem kJmp (imm : BitVec 22) : Statement (.kJmp imm) := congrArg some (wordKL_opcode ..)
theorem kCall (d : KReg) (imm : BitVec 22) : Statement (.kCall d imm) := congrArg some (wordKL_opcode ..)
theorem kRet (a : KReg) : Statement (.kRet a) := congrArg some (wordKR_opcode ..)
theorem kLoop (a : KReg) (imm : BitVec 18) : Statement (.kLoop a imm) := congrArg some (wordKI_opcode ..)
theorem kEnd : Statement .kEnd := congrArg some (wordKR_opcode ..)
theorem kEwait (nb : Bool) (d : KReg) : Statement (.kEwait nb d) := congrArg some (wordKR_opcode ..)
theorem kEack (a : KReg) : Statement (.kEack a) := congrArg some (wordKR_opcode ..)
theorem kEmask (a : KReg) : Statement (.kEmask a) := congrArg some (wordKR_opcode ..)
theorem kTimer (a b : KReg) : Statement (.kTimer a b) := congrArg some (wordKR_opcode ..)
theorem kConn (d a : KReg) : Statement (.kConn d a) := congrArg some (wordKR_opcode ..)
theorem kRetx (d a b : KReg) : Statement (.kRetx d a b) := congrArg some (wordKR_opcode ..)
theorem kCctl (rto : Bool) (d a b : KReg) : Statement (.kCctl rto d a b) := congrArg some (wordKR_opcode ..)
theorem kPath (en : Bool) (d a b : KReg) : Statement (.kPath en d a b) := congrArg some (wordKR_opcode ..)
theorem kArm (d a : KReg) : Statement (.kArm d a) := congrArg some (wordKR_opcode ..)
theorem kMgrp (a b : KReg) : Statement (.kMgrp a b) := congrArg some (wordKR_opcode ..)
theorem kRfail (a : KReg) : Statement (.kRfail a) := congrArg some (wordKR_opcode ..)
theorem kSig (a b : KReg) : Statement (.kSig a b) := congrArg some (wordKR_opcode ..)
theorem kRset (d a b : KReg) : Statement (.kRset d a b) := congrArg some (wordKR_opcode ..)
theorem kPeer (d a : KReg) (imm : BitVec 18) : Statement (.kPeer d a imm) := congrArg some (wordKI_opcode ..)
theorem kRpkg (d a : KReg) : Statement (.kRpkg d a) := congrArg some (wordKR_opcode ..)
theorem kSend (a b : KReg) (step : BitVec 14) : Statement (.kSend a b step) := congrArg some (wordKR_opcode ..)
theorem kRecv (a b : KReg) (step : BitVec 14) : Statement (.kRecv a b step) := congrArg some (wordKR_opcode ..)
theorem kRrs (a b : KReg) (step : BitVec 14) : Statement (.kRrs a b step) := congrArg some (wordKR_opcode ..)
theorem kCopy (a b : KReg) : Statement (.kCopy a b) := congrArg some (wordKR_opcode ..)
theorem kMcast (a b : KReg) (tag : BitVec 14) : Statement (.kMcast a b tag) := congrArg some (wordKR_opcode ..)
theorem kWait (n : BitVec 18) : Statement (.kWait n) := congrArg some (wordKI_opcode ..)
theorem asyncCauseTake (core : Nat) : Statement (.asyncCauseTake core) := rfl
theorem witnessComplete (core : Nat) : Statement (.witnessComplete core) := rfl
theorem adjbComplete (core : Nat) : Statement (.adjbComplete core) := rfl
theorem fTableLoadComplete (core : Nat) (ts : Bool) : Statement (.fTableLoadComplete core ts) := rfl
theorem pendingResultDelivery (core : Nat) : Statement (.pendingResultDelivery core) := rfl
theorem loadResultArrival (core id : Nat) : Statement (.loadResultArrival core id) := rfl
theorem storeAckArrival (core id : Nat) : Statement (.storeAckArrival core id) := rfl
theorem xLdwComplete (core : Nat) (arr : Bool) : Statement (.xLdwComplete core arr) := rfl
theorem xPassCommit (core : Nat) (tile : Nat) : Statement (.xPassCommit core tile) := rfl
theorem xStComplete (core : Nat) (arr : Bool) : Statement (.xStComplete core arr) := rfl
theorem engineCommandStart (core id : Nat) : Statement (.engineCommandStart core id) := rfl
theorem engineCommandComplete (core id : Nat) : Statement (.engineCommandComplete core id) := rfl
theorem landingChunkArrival (core : Nat) (p : TensorPkt) : Statement (.landingChunkArrival core p) := rfl
theorem remoteAccessArrival (pkt : Nat) : Statement (.remoteAccessArrival pkt) := rfl
theorem orderedFlagArrival (pkt : Nat) : Statement (.orderedFlagArrival pkt) := rfl
theorem orderedFlagPerform (core : Nat) (pkt : Nat) : Statement (.orderedFlagPerform core pkt) := rfl
theorem flagIncrementApply (cluster : Nat) (idx : Nat) : Statement (.flagIncrementApply cluster idx) := rfl
theorem barrierPostApply (core id : Nat) : Statement (.barrierPostApply core id) := rfl
theorem barrierArrivalApply (core id : Nat) : Statement (.barrierArrivalApply core id) := rfl
theorem barrierByteArrival (bar bytes : Nat) : Statement (.barrierByteArrival bar bytes) := rfl
theorem pageWalkComplete (core : Nat) : Statement (.pageWalkComplete core) := rfl
theorem tlbInvalidateArrival (core : Nat) : Statement (.tlbInvalidateArrival core) := rfl
theorem tlbiComplete (core : Nat) : Statement (.tlbiComplete core) := rfl
theorem stepComplete (unit slot id : Nat) : Statement (.stepComplete unit slot id) := rfl
theorem mcoreTimerExpire (unit slot timer : Nat) : Statement (.mcoreTimerExpire unit slot timer) := rfl
theorem reductionContribution (hop : Option Nat) (p : TensorPkt) : Statement (.reductionContribution hop p) := rfl
theorem reductionResultDelivery (core : Nat) (p : TensorPkt) : Statement (.reductionResultDelivery core p) := rfl
theorem multicastDelivery (group port : Nat) (p : TensorPkt) : Statement (.multicastDelivery group port p) := rfl
theorem transportRtoExpire (conn : Nat) : Statement (.transportRtoExpire conn) := rfl
theorem faaCombine (first second : Nat) : Statement (.faaCombine first second) := rfl
theorem clusterRelease (lid : Nat) : Statement (.clusterRelease lid) := rfl
theorem launchCompletionRelease (lid : Nat) : Statement (.launchCompletionRelease lid) := rfl
theorem coreHaltStop (core : Nat) : Statement (.coreHaltStop core) := rfl
theorem weightStoreWriteStart (die : Nat) : Statement (.weightStoreWriteStart die) := rfl
theorem clearToSendArrival (k : StepKey) (rows : Nat) : Statement (.clearToSendArrival k rows) := rfl
theorem stepRowArrival (k : StepKey) (row : Nat) (poison : Bool) (data : Row) : Statement (.stepRowArrival k row poison data) := rfl
theorem fabricRequestServe (r : FabReq) : Statement (.fabricRequestServe r) := rfl
theorem sweepBlock (die ctl : Nat) : Statement (.sweepBlock die ctl) := rfl
theorem sweepStart (die ctl : Nat) : Statement (.sweepStart die ctl) := rfl
theorem clockGateEntry (core : Nat) : Statement (.clockGateEntry core) := rfl
theorem refreshWindowOpen (core : Nat) : Statement (.refreshWindowOpen core) := rfl
theorem refreshWindowClose (core : Nat) : Statement (.refreshWindowClose core) := rfl
theorem dirRead (core line : Nat) : Statement (.dirRead core line) := rfl
theorem dirReadExclusive (core line : Nat) : Statement (.dirReadExclusive core line) := rfl
theorem dirUpgrade (core line : Nat) : Statement (.dirUpgrade core line) := rfl
theorem dirEvictionNotice (core line : Nat) (dirty : Bool) : Statement (.dirEvictionNotice core line dirty) := rfl
theorem l1Invalidate (core line : Nat) : Statement (.l1Invalidate core line) := rfl
theorem l1Downgrade (core line : Nat) : Statement (.l1Downgrade core line) := rfl
theorem hostSnoop (line : Nat) (inv : Bool) : Statement (.hostSnoop line inv) := rfl
theorem hostHbmRead (line : Nat) : Statement (.hostHbmRead line) := rfl
theorem hostHbmWrite (line : Nat) (data : Row) : Statement (.hostHbmWrite line data) := rfl
theorem memoryRead (block world : Nat) : Statement (.memoryRead block world) := rfl
theorem memoryWrite (block world : Nat) (lines : BitVec 8) (compress : Bool) (shape : BitVec 2) :
    Statement (.memoryWrite block world lines compress shape) := rfl
theorem sweepPause (die ctl : Nat) (hold : Bool) : Statement (.sweepPause die ctl hold) := rfl
theorem routerPacketReceive (router : Nat) (hdr : BitVec 128) : Statement (.routerPacketReceive router hdr) := rfl
theorem nonminTimeout (pkt : Nat) : Statement (.nonminTimeout pkt) := rfl
theorem pegRequest (pkt : Nat) : Statement (.pegRequest pkt) := rfl
theorem pegArrival (router : Nat) : Statement (.pegArrival router) := rfl
theorem linkFlitNak (link : Nat) : Statement (.linkFlitNak link) := rfl
theorem linkRetrainComplete (link : Nat) : Statement (.linkRetrainComplete link) := rfl
theorem bucketLeak (link : Nat) : Statement (.bucketLeak link) := rfl
theorem linkExchangeTimeout (link : Nat) : Statement (.linkExchangeTimeout link) := rfl
theorem fabricPacketReceive (conn psn : Nat) (authentic : Bool) (payload : FabPayload) :
    Statement (.fabricPacketReceive conn psn authentic payload) := rfl
theorem fabricAckReceive (conn cum : Nat) (bitmap : BitVec 64) (mark : Bool) : Statement (.fabricAckReceive conn cum bitmap mark) := rfl
theorem transitHoldExpire (idx : Nat) : Statement (.transitHoldExpire idx) := rfl
theorem slotLost (slot : Nat) : Statement (.slotLost slot) := rfl
theorem firmwareEventAction (unit : Nat) : Statement (.firmwareEventAction unit) := rfl
theorem engineHaltStop (cluster e : Nat) : Statement (.engineHaltStop cluster e) := rfl
theorem mcoreHaltStop (unit slot : Nat) : Statement (.mcoreHaltStop unit slot) := rfl
theorem lportWrite (bytes : List Byte) : Statement (.lportWrite bytes) := rfl
theorem launchWaitRecheck (queue : Nat) : Statement (.launchWaitRecheck queue) := rfl
theorem clusterDefect (cluster : Nat) : Statement (.clusterDefect cluster) := rfl
theorem spcmdWopen (wid : Nat) : Statement (.spcmdWopen wid) := rfl
theorem spcmdKeyload (wid : Nat) : Statement (.spcmdKeyload wid) := rfl
theorem spcmdWclose (wid : Nat) : Statement (.spcmdWclose wid) := rfl
theorem spcmdToken (wid : Nat) : Statement (.spcmdToken wid) := rfl
theorem spcmdRekey (wid : Nat) : Statement (.spcmdRekey wid) := rfl
theorem spcmdInvalid (opc : Nat) : Statement (.spcmdInvalid opc) := rfl
theorem registerWrite (off : Nat) (value : Word) : Statement (.registerWrite off value) := rfl
theorem retentionEntry (core : Nat) : Statement (.retentionEntry core) := rfl
theorem powerGateEntry (core : Nat) : Statement (.powerGateEntry core) := rfl
theorem powerThrottle (on : Bool) : Statement (.powerThrottle on) := rfl
theorem debugHalt (lid : Nat) : Statement (.debugHalt lid) := rfl
theorem debugStep (core : Nat) : Statement (.debugStep core) := rfl
theorem debugAccess (core : Nat) (item : DbgItem) (write : Option VReg) : Statement (.debugAccess core item write) := rfl
theorem backInvalidationResponse (line : Nat) : Statement (.backInvalidationResponse line) := rfl
theorem cxlCacheGrant (line : Nat) (state : Mesi) (data : Row) : Statement (.cxlCacheGrant line state data) := rfl
theorem weightStoreGranuleAssign (die granule world : Nat) : Statement (.weightStoreGranuleAssign die granule world) := rfl
theorem debugResume (lid : Nat) : Statement (.debugResume lid) := rfl
theorem burrowDelivery : Statement .burrowDelivery := rfl
theorem pegReissue : Statement .pegReissue := rfl
theorem launchDispatch : Statement .launchDispatch := rfl
theorem spcmdConfig : Statement .spcmdConfig := rfl
theorem spcmdAttest : Statement .spcmdAttest := rfl
theorem spcmdWarm : Statement .spcmdWarm := rfl
theorem spcmdSleep : Statement .spcmdSleep := rfl
theorem spcmdLoad : Statement .spcmdLoad := rfl
theorem spcmdUnload : Statement .spcmdUnload := rfl
theorem coldStart : Statement .coldStart := rfl
theorem sleepExit : Statement .sleepExit := rfl
theorem thermalTrip : Statement .thermalTrip := rfl

end Sys2Proof.Laws.Encoding
end

