-- ==== Sys2Proof/Laws/Results.lean ====
section
/-! SUPPORT. Results on their way: what one more committed group makes of them, and what a group that falls through commits to. -/
namespace Sys2Proof.Machine

/-- A core with other results on its way. -/
def Core.withPend (c : Core) (l : List Pend) : Core := { c with pend := l }

/-- A result of latency n put on its way is n groups off, and n cycles. -/
theorem push_pushAt (c : Core) (n : Nat) (w : RegWrite) : c.push n w = c.pushAt n (c.tick + n) w := rfl
theorem pushAt_withPend (c : Core) (k ready : Nat) (w : RegWrite) : c.pushAt k ready w = Core.withPend c (c.pend ++ [⟨c.handler, k, w, ready⟩]) := rfl
/-- A result put on its way stands last. -/
theorem push_withPend (c : Core) (n : Nat) (w : RegWrite) : c.push n w = Core.withPend c (c.pend ++ [⟨c.handler, n, w, c.tick + n⟩]) := rfl
/-- Writing a result does not look at those on their way. -/
theorem deliver_withPend (c : Core) (l : List Pend) (w : RegWrite) : (Core.withPend c l).deliver w = Core.withPend (c.deliver w) l := by
  cases w <;> simp only [Core.deliver] <;> first | rfl | (split <;> rfl)
theorem deliver_pend (c : Core) (w : RegWrite) : (c.deliver w).pend = c.pend := by
  cases w <;> simp only [Core.deliver] <;> split <;> rfl
theorem deliverAll_withPend (c : Core) (l k : List Pend) : (Core.withPend c l).deliverAll k = Core.withPend (c.deliverAll k) l := by
  induction k generalizing c with
  | nil => rfl
  | cons p k ih => simp only [Core.deliverAll, deliver_withPend, ih]
/-- Results are written in order. -/
theorem deliverAll_append (c : Core) (k m : List Pend) : c.deliverAll (k ++ m) = (c.deliverAll k).deliverAll m := by
  induction k generalizing c with
  | nil => rfl
  | cons p k ih => exact ih _
theorem deliverAll_pend (c : Core) (k : List Pend) : (c.deliverAll k).pend = c.pend := by
  induction k generalizing c with
  | nil => rfl
  | cons p k ih => exact (ih _).trans (deliver_pend ..)

theorem deliverSel_pend (c : Core) (h : Bool) (f : Pend → Bool) : (c.deliverSel h f).pend = c.pend.filter fun p => !(p.due h && f p) :=
  deliverAll_pend ..
/-- An entry that is not delivered stays last. -/
theorem deliverSel_keep (c : Core) (h : Bool) (f : Pend → Bool) (p : Pend) (hp : (p.due h && f p) = false) :
    (Core.withPend c (c.pend ++ [p])).deliverSel h f = Core.withPend (c.deliverSel h f) ((c.deliverSel h f).pend ++ [p]) := by
  rw [deliverSel_pend]
  simp only [Core.deliverSel, Core.withPend, List.filter_append, List.filter_cons, hp, Bool.not_false, List.filter_nil, if_true,
    Bool.false_eq_true, if_false, List.append_nil]
  exact (deliverAll_withPend (Core.withPend c (c.pend.filter fun p => !(p.due h && f p))) _ _)
/-- An entry that is delivered, standing last, is written last. -/
theorem deliverSel_take (c : Core) (h : Bool) (f : Pend → Bool) (p : Pend) (hp : (p.due h && f p) = true) :
    (Core.withPend c (c.pend ++ [p])).deliverSel h f = (c.deliverSel h f).deliver p.w := by
  simp only [Core.deliverSel, Core.withPend, List.filter_append, List.filter_cons, hp, Bool.not_true, List.filter_nil, if_true,
    Bool.false_eq_true, if_false, List.append_nil, deliverAll_append]
  rfl
/-- The table slot a result loads, if it is one. -/
def RegWrite.table (w : RegWrite) : Option Bool := match w with | .tab t .. => some t | _ => none
/-- A table and a register, or the two tables, are written in either order. -/
theorem deliver_comm (c : Core) (v w : RegWrite) (h : RegWrite.table v ≠ RegWrite.table w) (h' : RegWrite.table v ≠ none ∨ RegWrite.table w ≠ none) : (c.deliver v).deliver w = (c.deliver w).deliver v := by
  cases v <;> cases w <;> first | rfl | (simp [RegWrite.table] at h h'; done) | skip
  all_goals (simp only [Core.deliver]; first | rfl | (split <;> first | rfl | (split <;> simp_all [RegWrite.table])))
/-- Deliveries of another kind of result do not look at one written before. -/
theorem deliverSel_deliver (c : Core) (h : Bool) (f : Pend → Bool) (w : RegWrite)
    (hf : ∀ p, f p = true → (c.deliver w).deliver p.w = (c.deliver p.w).deliver w ∧ RegWrite.table p.w ≠ RegWrite.table w ∧ (RegWrite.table p.w ≠ none ∨ RegWrite.table w ≠ none)) :
    (c.deliver w).deliverSel h f = (c.deliverSel h f).deliver w := by
  simp only [Core.deliverSel, deliver_pend]
  have : ∀ (l : List Pend) (c : Core), (∀ p ∈ l, f p = true) → (c.deliver w).deliverAll l = (c.deliverAll l).deliver w := by
    intro l
    induction l with
    | nil => exact fun _ _ => rfl
    | cons p l ih =>
      intro c hl
      simp only [Core.deliverAll]
      obtain ⟨-, h2, h3⟩ := hf p (hl p (List.mem_cons_self ..))
      rw [← deliver_comm c p.w w h2 h3]
      exact ih _ fun q hq => hl q (List.mem_cons_of_mem _ hq)
  have e := deliver_withPend c (c.pend.filter fun p => !(p.due h && f p)) w
  simp only [Core.withPend] at e
  rw [← e]
  exact this _ _ fun p hp => by simp [List.mem_filter] at hp; exact hp.2.2
theorem commitPasses_withPend (c : Core) (l : List Pend) (k : List Pass) : (Core.withPend c l).commitPasses k = Core.withPend (c.commitPasses k) l := by
  induction k generalizing c with
  | nil => rfl
  | cons p k ih => exact ih (c.commitPass p)
theorem commitPasses_pend (c : Core) (k : List Pass) : (c.commitPasses k).pend = c.pend := by
  induction k generalizing c with
  | nil => rfl
  | cons p k ih => exact ih (c.commitPass p)
theorem deliver_passes (c : Core) (w : RegWrite) : (c.deliver w).passes = c.passes := by
  cases w <;> simp only [Core.deliver] <;> split <;> rfl
theorem commitPass_deliver (c : Core) (p : Pass) (w : RegWrite) : (c.deliver w).commitPass p = (c.commitPass p).deliver w := by
  cases w <;> first | rfl | (simp only [Core.deliver]; split <;> rfl)
theorem commitPasses_deliver (c : Core) (k : List Pass) (w : RegWrite) : (c.deliver w).commitPasses k = (c.commitPasses k).deliver w := by
  induction k generalizing c with
  | nil => rfl
  | cons p k ih => simp only [Core.commitPasses, commitPass_deliver, ih]
/-- A tile takes its pass whatever results are on their way. -/
theorem commitTile_withPend (c : Core) (h : Bool) (t : Nat) (l : List Pend) : (Core.withPend c l).commitTile h t = Core.withPend (c.commitTile h t) l :=
  commitPasses_withPend { c with passes := c.passes.filter fun p => !(p.due h && p.tile == t) } l _
/-- A tile takes its pass before or after a result is written. -/
theorem commitTile_deliver (c : Core) (h : Bool) (t : Nat) (w : RegWrite) : (c.deliver w).commitTile h t = (c.commitTile h t).deliver w := by
  simp only [Core.commitTile, deliver_passes]
  rw [← commitPasses_deliver]
  congr 1
  cases w <;> first | rfl | (simp only [Core.deliver]; split <;> rfl)
theorem commitTiles_withPend (h : Bool) (ts : List Nat) (c : Core) (l : List Pend) :
    ts.foldl (fun c t => c.commitTile h t) (Core.withPend c l) = Core.withPend (ts.foldl (fun c t => c.commitTile h t) c) l := by
  induction ts generalizing c with
  | nil => rfl
  | cons t ts ih => simp only [List.foldl, commitTile_withPend, ih]
theorem commitTiles_pend (h : Bool) (ts : List Nat) (c : Core) : (ts.foldl (fun c t => c.commitTile h t) c).pend = c.pend := by
  induction ts generalizing c with
  | nil => rfl
  | cons t ts ih => exact (ih _).trans (commitPasses_pend ..)
theorem commitTiles_deliver (h : Bool) (ts : List Nat) (c : Core) (w : RegWrite) :
    ts.foldl (fun c t => c.commitTile h t) (c.deliver w) = (ts.foldl (fun c t => c.commitTile h t) c).deliver w := by
  induction ts generalizing c with
  | nil => rfl
  | cons t ts ih => simp only [List.foldl, commitTile_deliver, ih]
/-- The tick of an entry. -/
def Pend.tick (p : Pend) (h : Bool) : Pend := if p.handler = h then { p with delay := p.delay - 1 } else p
/-- One group nearer, entry by entry. -/
theorem tick_append (c : Core) (h : Bool) (p : Pend) : (Core.withPend c (c.pend ++ [p])).tickResults h =
    Core.withPend (c.tickResults h) ((c.tickResults h).pend ++ [Pend.tick p h]) := by
  simp only [Core.tickResults, Core.withPend, List.map_append, List.map_cons, List.map_nil, Pend.tick]
/-- An entry that is not due stays. -/
theorem advance_keep (c : Core) (h : Bool) (p : Pend) (hp : (Pend.tick p h).due h = false) :
    (Core.withPend c (c.pend ++ [p])).advance h = Core.withPend (c.advance h) ((c.advance h).pend ++ [Pend.tick p h]) := by
  have hk : ∀ f : Pend → Bool, ((Pend.tick p h).due h && f (Pend.tick p h)) = false := by simp [hp]
  simp only [Core.advance, Core.deliverResults, Core.deliverTable, tick_append]
  rw [deliverSel_keep _ _ _ _ (hk _), deliverSel_keep _ _ _ _ (hk _), deliverSel_keep _ _ _ _ (hk _), commitTiles_withPend, commitTiles_pend]
theorem loads_tab (p : Pend) (ts : Bool) : p.loadsTable ts = (RegWrite.table p.w == some ts) := by
  obtain ⟨_, _, w, _⟩ := p
  cases w <;> simp [Pend.loadsTable, RegWrite.table]
/-- An entry that becomes due, standing last, is written last. -/
theorem advance_take (c : Core) (h : Bool) (p : Pend) (hp : (Pend.tick p h).due h = true) :
    (Core.withPend c (c.pend ++ [p])).advance h = (c.advance h).deliver p.w := by
  have hw : (Pend.tick p h).w = p.w := by simp only [Pend.tick]; split <;> rfl
  simp only [Core.advance, Core.deliverResults, Core.deliverTable, tick_append]
  rcases htab : RegWrite.table p.w with _ | ts
  · rw [deliverSel_take _ _ _ _ (by simp [hp, loads_tab, hw, htab]), hw, deliverSel_deliver, deliverSel_deliver, commitTiles_deliver] <;>
      intro q hq <;> simp [loads_tab] at hq <;>
      exact ⟨(deliver_comm _ _ _ (by simp [hq, htab]) (by simp [hq])).symm, by simp [hq, htab], by simp [hq]⟩
  · cases ts
    · rw [deliverSel_keep _ _ _ _ (by simp [loads_tab, hw, htab]), deliverSel_take _ _ _ _ (by simp [hp, loads_tab, hw, htab]), hw,
        deliverSel_deliver, commitTiles_deliver]
      intro q hq; simp [loads_tab] at hq
      exact ⟨(deliver_comm _ _ _ (by simp [hq, htab]) (by simp [hq])).symm, by simp [hq, htab], by simp [hq]⟩
    · rw [deliverSel_keep _ _ _ _ (by simp [loads_tab, hw, htab]), deliverSel_keep _ _ _ _ (by simp [loads_tab, hw, htab]),
        deliverSel_take _ _ _ _ (by simp [hp, loads_tab, hw, htab]), hw, commitTiles_deliver]
@[simp] theorem deliver_handler (c : Core) (w : RegWrite) : (c.deliver w).handler = c.handler := by
  cases w <;> simp only [Core.deliver] <;> split <;> rfl
@[simp] theorem deliverAll_handler (c : Core) (l : List Pend) : (c.deliverAll l).handler = c.handler := by
  induction l generalizing c with
  | nil => rfl
  | cons p l ih => exact (ih _).trans (deliver_handler ..)
@[simp] theorem commitPasses_handler (c : Core) (l : List Pass) : (c.commitPasses l).handler = c.handler := by
  induction l generalizing c with
  | nil => rfl
  | cons p l ih => exact ih _
@[simp] theorem deliverSel_handler (c : Core) (h : Bool) (f) : (c.deliverSel h f).handler = c.handler := deliverAll_handler ..
theorem advance_handler (c : Core) (h : Bool) : (c.advance h).handler = c.handler := by
  have : ∀ (l : List Nat) (c : Core), (l.foldl (fun c t => c.commitTile h t) c).handler = c.handler := by
    intro l
    induction l with
    | nil => exact fun _ => rfl
    | cons t l ih => exact fun c => (ih _).trans (commitPasses_handler ..)
  simp only [Core.advance, this]
  simp [Core.deliverTable, Core.deliverResults, Core.tickResults]
theorem advances_handler (c : Core) (k : Nat) : (c.advances k).handler = c.handler := by
  induction k with
  | zero => rfl
  | succ k ih => exact (advance_handler ..).trans ih
/-- A result of latency above 1 is on its way after its group commits. -/
theorem push_advance_more (c : Core) (n : Nat) (w : RegWrite) (hn : 2 ≤ n) :
    (c.push n w).advance c.handler = (c.advance c.handler).pushAt (n - 1) (c.tick + n) w := by
  rw [push_withPend, advance_keep _ _ _ (by simp [Pend.tick, Pend.due]; omega), pushAt_withPend, advance_handler]
  simp [Pend.tick]
/-- A result of latency 1 is written as its group commits (R86). -/
theorem push_advance_one (c : Core) (w : RegWrite) : (c.push 1 w).advance c.handler = (c.advance c.handler).deliver w := by
  rw [push_withPend, advance_take _ _ _ (by simp [Pend.tick, Pend.due])]

/-- A group that falls through: its results land, and fetch goes on. -/
theorem commit_fall (c : Core) (x : Ctx) : c.commit x .fall = (c.advance c.handler).fallen x := by
  have hh := advance_handler c c.handler
  simp only [Core.commit, Core.fallen, Core.issueCycle]
  cases hc : c.handler <;> simp only [hc] at hh <;> simp [Core.setStack, Core.stack, hh]

end Sys2Proof.Machine
end

