-- ==== Sys2Proof/Tests/Slice0.lean ====
section
/-! SUPPORT. The model's own tests: words of the spec and their decoding, ill-formed terms the checks refuse, and for every statement
with hypotheses a state and operands that meet them. -/
open Sys2Proof Sys2Proof.Machine Sys2Proof.Claims

namespace Sys2Proof.Tests

set_option Elab.async false

/-! ## Small states -/

/-- A launch of 4 x 2 tiles, 4 banks a task, in cluster 0. -/
def lau : Launch := { lid := 1, queue := 0, world := 0, root := 0x10000, w := 4, h := 2, p := 4, line := false, clusters := [[0, 1]] }

/-- A core that runs a task of that launch with the four banks its own, at a text. -/
def core0 : Core :=
  { run := .running, banks := 4, spr := { lid := 1, cyc := 100, tvec := 640 }, pc := 128
    owner := (List.range 4).map fun b => (b, BankOwner.task) }

/-- The package with that core alone. -/
def on (c : Core) : State := { cores := [(0, c)], launches := [(1, some lau)], npkg := 3 }

/-- A core's text from an offset. -/
def withText (c : Core) (o : Nat) (l : List Nat) : Core := { c with text := putLineBytes c.text o (l.map (BitVec.ofNat 8)) }

/-- Scalars of a core. -/
def withS (c : Core) (l : List (Nat × Nat)) : Core :=
  { c with regs := l.foldl (fun r e => r.writeS e.1 (BitVec.ofNat 64 e.2) false) c.regs }

/-- Page tables of the launch: the first GiB of the address space under one leaf. -/
def paged (s : State) (leaf : Nat) : State :=
  let table := fun (b : Nat) => 1 + 15 * 64 + 2 ^ 14 * (b / 4096)
  ((s.storeNat 0x10000 8 (table 0x11000)).storeNat 0x11000 8 (table 0x12000)).storeNat 0x12000 8 leaf

/-! ## Decoding: words the spec writes out (R84, R139, R171, R188, R219, R247, R274, R277, R310, R351, R359, R386, R416 and the programs) -/

theorem test_decode_c_flags : decode (.w32 .c 0x40002140) = some (.cFinc 0 4 5) ∧ decode (.w32 .c 0x44002143) = some (.cFarm 0 4 5 .signal) ∧
    decode (.w32 .c 0x42002140) = some (.cFwait 0 4 5) ∧ decode (.w32 .c 0x46002000) = some (.cFdis 0 4) := by decide +kernel
theorem test_decode_c_system : decode (.w32 .c 0x50002140) = some (.cBpost 0 4 5) ∧ decode (.w32 .c 0x52002000) = some (.cBarr 0 4) ∧
    decode (.w32 .c 0x54002000) = some (.cBwait 0 4) ∧ decode (.w32 .c 0x60002000) = some (.cLaunch 0 4) ∧
    decode (.w32 .c 0x62002004) = some (.cTlbi 0 4 .fab) := by decide +kernel
theorem test_decode_c_control : decode (.w32 .c 0x2000FF0F) = some (.cWait 0 15 15 0 15) ∧ decode (.w32 .c 0x12000000) = some (.cEnd 0) ∧
    decode (.w32 .c 0x28000000) = some (.cScheck 0 0) ∧ decode (.w32 .c 0x0A086027) = some (.cLoop 0 (.sreg 12) 39) ∧
    decode (.w32 .c 0x02600003) = some (.cBr 3 3) := by decide +kernel
theorem test_decode_a : decode (.w32 .a 0x30040005) = some (.aLi 0 4 5) ∧ decode (.w32 .a 0x32040403) = some (.aLih 0 4 0x403) ∧
    decode (.w32 .a 0x34041800) = some (.aMov 0 4 3) ∧ decode (.w32 .a 0x36094800) = some (.aMfs 0 9 9) ∧
    decode (.w32 .a 0x00042140) = some (.aAdd 0 4 4 5) ∧ decode (.w32 .a 0x2A0A4830) = some (.aShri 0 10 9 48) := by decide +kernel
theorem test_decode_l : decode (.w32 .l 0x22054C00) = some (.lStx 0 .lo true 5 9 0) ∧ decode (.w32 .l 0x22011900) = some (.lStx 0 .pair false 1 3 0) ∧
    decode (.w32 .l 0x34033108) = some (.lSaop 0 .add 1 3 6 4) ∧ decode (.w32 .l 0x4000000C) = some (.lFence 0 .rel .fab) ∧
    decode (.w32 .l 0x40000013) = some (.lFence 0 .full .pkg) ∧ decode (.w32 .l 0x42000003) = some (.lDrain 0 .pkg) := by decide +kernel
theorem test_decode_l_global : decode (.w32 .l 0x12093B00) = some (.lStg 0 .b8 false 9 7 0) ∧
    decode (.w32 .l 0x1215CF00) = some (.lStg 0 .b8 true 21 25 0) ∧ decode (.w32 .l 0x1614EA40) = some (.lStgv 0 false true false 20 29 64) := by
  decide +kernel
theorem test_decode_v : decode (.w32 .v 0x30290890) = some (.vCmp .s16 .lt 1 1 2 ⟨1, 0, 0⟩) ∧
    decode (.w32 .v 0x6C210010) = some (.vIota .s16 1 0 ⟨1, 0, 0⟩) ∧ decode (.w32 .v 0x66222810) = some (.vBc .s16 2 5 ⟨1, 0, 0⟩) ∧
    decode (.w32 .v 0x33063151) = some (.vSel .bf16 6 6 5 ⟨1, 0, 1⟩) ∧ decode (.w32 .v 0x66F4A018) = some (.vBc .z64 20 20 ⟨1, 2, 0⟩) := by
  decide +kernel
theorem test_decode_v_witness : decode (.w32 .v 0x81082140) = some (.vWmax .bf16 8 4 5) ∧
    decode (.w32 .v 0x85082140) = some (.vWclamp .bf16 8 4 5) ∧ decode (.w32 .v 0x8D483140) = some (.vAdjb .fp32 .first false true 6 5) ∧
    decode (.w32 .v 0x8D4A4940) = some (.vAdjb .fp32 .pass false true 9 5) := by decide +kernel
theorem test_decode_f : decode (.w32 .f 0x00000000) = some (.fTsel 0 false 0) ∧ decode (.w32 .f 0x02062810) = some (.fEval 0 .bf16 4 false 6 5) := by
  decide +kernel
theorem test_decode_x : decode (.w64 .x 0x0200400400000000) = some (.xLdw false .sw .sp16 2 2) ∧ decode (.w64 .x 0x0400000000000000) = some (.xSwap false) ∧
    decode (.w64 .x 0x0602001080000000) = some (.xMul 0 1 8 8 .sp16 false false) ∧ decode (.w64 .x 0x0A00000000282000) = some (.xRd 0 .fp32 .rne 1) ∧
    decode (.w64 .x 0x0786000848000000) = some (.xMul 4 3 4 4 .sp4 false false) ∧
    decode (.w64 .x 0x0300800408000000) = some (.xLdw true .sw .sp4 4 2) := by decide +kernel
theorem test_decode_e : decode (.w64 .e 0x0010900018480000) = some (.eCpy 2 1 2 3 .none ⟨false, true, .clu⟩ 0) ∧
    decode (.w64 .e 0x0808000050000000) = some (.eHset 1 false false 0 0 10) ∧ decode (.w64 .e 0x060800000002C005) = some (.eLand 1 11 5) ∧
    decode (.w64 .e 0x3048000000050734) = some (.eCtxSave 9 20 3 308) ∧
    decode (.w64 .e 0x2608000204190000) = some (.eColl 1 64 .wadd ⟨false, false, .pkg⟩ 4 0) := by decide +kernel
theorem test_decode_k : decode (.kw 0x880C0000) = some (.kEmask 3) ∧ decode (.kw 0x81000000) = some (.kEwait false 4) ∧
    decode (.kw 0x84100000) = some (.kEack 4) ∧ decode (.kw 0x32100010) = some (.kShri 8 4 16) ∧ decode (.kw 0x2620FFFF) = some (.kAndi 8 8 0xFFFF) ∧
    decode (.kw 0x95A10000) = some (.kRetx 6 8 4) ∧ decode (.kw 0x7C000000) = some .kEnd ∧ decode (.kw 0xA4090000) = some (.kMgrp 2 4) := by
  decide +kernel
theorem test_decode_k_more : decode (.kw 0xA1400000) = some (.kArm 5 0) ∧ decode (.kw 0x8C00C000) = some (.kTimer 0 3) ∧
    decode (.kw 0x619C0007) = some (.kBeq 6 7 7) ∧ decode (.kw 0x34D86A00) = some (.kLi 3 1600000) := by decide +kernel

/-! ## Ill-formed terms: one for each check of `Instr.wf` -/

theorem test_wf_special_registers : (Instr.cLoop 0 (.spr 3) 0).wf = false ∧ (Instr.aMfs 0 1 5).wf = false ∧ (Instr.aMts 0 27 1).wf = false := by
  decide +kernel
theorem test_wf_l : (Instr.lAop 0 .add false true false 1 2 3).wf = false ∧ (Instr.lCas 0 .q16 false 3 2 4).wf = false ∧
    (Instr.lCas 0 .q16 false 2 2 5).wf = false := by decide +kernel
theorem test_wf_v_formats : (Instr.vAdd .q4 1 2 3 ⟨0, 0, 0⟩).wf = false ∧ (Instr.vAbs .wfx128 1 2 ⟨0, 0, 0⟩).wf = false ∧
    (Instr.vSadd .fp32 1 2 3 ⟨0, 0, 0⟩).wf = false ∧ (Instr.vAnd .wfx128 1 2 3 ⟨0, 0, 0⟩).wf = false ∧
    (Instr.vShl .bf16 1 2 3 ⟨0, 0, 0⟩).wf = false ∧ (Instr.vSel .wfx128 1 2 3 ⟨0, 0, 0⟩).wf = false ∧
    (Instr.vCvt .q4 .s8 .rne 1 2 0 0).wf = false ∧ (Instr.vCvt .s8 .q4 .rne 1 2 0 0).wf = false ∧ (Instr.vScl .q4 .uni false 1 2 ⟨0, 0, 0⟩).wf = false ∧
    (Instr.vRed .q4 .add 1 2 ⟨0, 0, 0⟩).wf = false ∧ (Instr.vRed .fp32 .xor 1 2 ⟨0, 0, 0⟩).wf = false ∧ (Instr.vRedx .q4 false 1 2 ⟨0, 0, 0⟩).wf = false := by
  decide +kernel
theorem test_wf_v_ranges : (Instr.vAdd .s8 1 2 3 ⟨1, 1, 0⟩).wf = false ∧ (Instr.vAdd .s8 1 2 3 ⟨2, 1, 0⟩).wf = false ∧
    (Instr.vAdd .s8 1 2 3 ⟨3, 0, 0⟩).wf = false ∧ (Instr.vExt .s8 1 2 3 1 3).wf = false := by decide +kernel
theorem test_wf_v_moves : (Instr.vCmp .s8 .un 1 2 3 ⟨0, 0, 0⟩).wf = false ∧ (Instr.vCmp .s8 .lt 0 2 3 ⟨0, 0, 0⟩).wf = false ∧
    (Instr.vPack .s8 .rne false 1 31 ⟨0, 0, 0⟩).wf = false ∧ (Instr.vUnpk .s8 .rne false 1 31 ⟨0, 0, 0⟩).wf = false ∧
    (Instr.vPerm .q4 1 2 3 ⟨0, 0, 0⟩).wf = false ∧ (Instr.vRot .wfx128 1 2 3 ⟨0, 0, 0⟩).wf = false ∧ (Instr.vRmg .s16 1 2 3 ⟨0, 0, 0⟩).wf = false ∧
    (Instr.vBc .q4 1 2 ⟨0, 0, 0⟩).wf = false ∧ (Instr.vIns .q4 1 2 3 ⟨0, 0, 0⟩).wf = false ∧ (Instr.vExt .q4 1 2 3 0 0).wf = false ∧
    (Instr.vIota .fp32 1 2 ⟨0, 0, 0⟩).wf = false ∧ (Instr.vMovVv .wfx128 1 2 ⟨0, 0, 0⟩).wf = false ∧ (Instr.vMovVw 0 1).wf = false := by
  decide +kernel
theorem test_wf_v_witness : (Instr.vWmax .q4 1 2 3).wf = false ∧ (Instr.vWclamp .s8 1 2 30).wf = false ∧ (Instr.vWsum .fp32 1 2 3).wf = false ∧
    (Instr.vAdjb .s32 .first false false 1 2).wf = false := by decide +kernel
theorem test_wf_f_x : (Instr.fEval 0 .bf16 7 false 1 2).wf = false ∧ (Instr.fRcp 0 .bf16 7 1 2).wf = false ∧
    (Instr.xLdw false .sw .sp16 2 0).wf = false ∧ (Instr.xLdw false .sw .sp16 2 257).wf = false ∧ (Instr.xLdw false .sw .sp2 2 2048).wf = true ∧
    (Instr.xMul 0 1 6 4 .sp16 false false).wf = false ∧ (Instr.xMul 0 1 4 4 .sp16 true false).wf = false ∧ (Instr.xMul 0 1 34 17 .sp16 false false).wf = false ∧
    (Instr.xAcc 0 1 6 4 false).wf = false ∧ (Instr.xRd 0 .q4 .rne 1).wf = false ∧ (Instr.xSt 0 1 .wfx128 .rne false).wf = false := by decide +kernel
theorem test_wf_e : (Instr.eCpy 1 1 2 1 .wadd ⟨false, false, .pkg⟩ 0).wf = false ∧ (Instr.eCpyWadd 1 1 2 1 ⟨false, false, .pkg⟩ 0 2304).wf = false ∧
    (Instr.eGath 1 1 2 0 ⟨false, false, .pkg⟩ 1 0 false .s8).wf = false ∧ (Instr.eGath 1 1 2 1 ⟨false, false, .pkg⟩ 1 0 false .q4).wf = false ∧
    (Instr.eScat 1 1 2 1 .add ⟨false, false, .pkg⟩ 1 0 true .s8).wf = false ∧ (Instr.eHset 1 true true 0 0 1).wf = false ∧
    (Instr.eHset 1 false false 1 0 1).wf = false := by decide +kernel
theorem test_wf_e_fabric : (Instr.ePut 1 1 0 .none ⟨false, false, .pkg⟩ 1 .gva false 0).wf = false ∧
    (Instr.ePut 1 1 1 .none ⟨false, false, .pkg⟩ 1 .gva false 3).wf = false ∧ (Instr.ePut 1 1 1 .add ⟨false, false, .pkg⟩ 1 .gva false 0).wf = false ∧
    (Instr.ePut 1 1 1 .none ⟨false, false, .pkg⟩ 30 .chan false 0).wf = false ∧ (Instr.ePutLand 1 1 0 ⟨false, false, .pkg⟩ 1 0).wf = false ∧
    (Instr.eGet 1 1 0 ⟨false, false, .pkg⟩ 1 true).wf = false ∧ (Instr.eRatom 1 ⟨false, false, .pkg⟩ 30 .cas false false).wf = false ∧
    (Instr.eRatom 1 ⟨false, false, .pkg⟩ 1 (.aop .add) false true).wf = false ∧ (Instr.eColl 1 64 .add ⟨false, false, .pkg⟩ 1 0).wf = false ∧
    (Instr.eColl 1 16385 .wadd ⟨false, false, .pkg⟩ 1 0).wf = false ∧ (Instr.eColl 1 2048 .wadd ⟨false, false, .pkg⟩ 1 4095).wf = false ∧
    (Instr.eMcast 1 1 0 ⟨false, false, .pkg⟩ 1 0).wf = false ∧ (Instr.eSig ⟨false, false, .pkg⟩ 31).wf = false := by decide +kernel
theorem test_wf_k : (Instr.kMfs 1 17).wf = false ∧ (Instr.kEwait false 0).wf = false ∧ (Instr.kEwait false 15).wf = false ∧
    (Instr.kRetx 1 2 15).wf = false ∧ (Instr.kRrs 1 15 0).wf = false ∧ (Instr.kWait 17).wf = false := by decide +kernel
/-- A reserved encoding is refused, never read as a neighbour. -/
theorem test_reserved_words : decode (.w32 .c 0x40000001) = none ∧ decode (.w32 .l 0x40000006) = none ∧ decode (.w32 .v 0x00042094) = none ∧
    decode (.w64 .x 0x0000000000000001) = none ∧ decode (.kw 0x04000001) = none ∧ decode (.w32 .c 0xFE000000) = none := by decide +kernel

/-! ## Witnesses: encoding, fetch and the step -/

def sStep : State :=
  { on (withText core0 128 [0x82, 0x40, 0x18, 0x03, 0x20]) with sched := [.core 0] }
def sWord : State :=
  { martens := [(1, { run := .running, lid := 1, pc := 7, prog := [(7, 0x34C00002)] })], sched := [.marten 0 1], npkg := 3 }

theorem witness_decodeEncode : (Instr.aAddi 0 3 3 64).wf = true ∧ encode (.aAddi 0 3 3 64) ≠ .none := by decide +kernel
theorem witness_stepRunsDecoded_slot : sStep.sched = .core 0 :: [] ∧ sStep.sec.power = .on ∧ (sStep.core 0).issues = true ∧
    ((stepped sStep []).readyCore 0 |>.core 0).pc % 64 + 5 ≤ 64 ∧
    lineByte ((stepped sStep []).readyCore 0 |>.core 0).text ((stepped sStep []).readyCore 0 |>.core 0).pc = header .a ∧
    decode (wordAt ((stepped sStep []).readyCore 0 |>.core 0) .a (((stepped sStep []).readyCore 0 |>.core 0).pc + 1)) = some (.aAddi 0 3 3 64) := by
  decide +kernel
theorem witness_stepRunsDecoded_word : sWord.sched = .marten 0 1 :: [] ∧ sWord.sec.power = .on ∧ (sWord.marten 0 1).runs = true ∧
    (sWord.marten 0 1).pc < 4096 ∧ decode (.kw (SMap.get 0 (sWord.marten 0 1).prog (sWord.marten 0 1).pc)) = some (.kLi 3 2) := by decide +kernel
theorem witness_stepRunsDecoded_event : encode .coldStart = .none ∧ badUnit .coldStart = none ∧ encode (.dirRead 256 1) = .none ∧
    badUnit (.dirRead 256 1) ≠ none ∧ ({ sched := [.event .coldStart] } : State).sec.power = .on := by decide +kernel
theorem witness_stepRunsDecoded_slot32 : ∃ sl w, encode (.vAdd .s32 4 2 2 ⟨0, 0, 0⟩) = .w32 sl w := ⟨_, _, rfl⟩
theorem witness_stepRunsDecoded_slot64 : ∃ sl w, encode (.xSwap false) = .w64 sl w := ⟨_, _, rfl⟩

/-! ## Witnesses: issue and traps -/

/-- A core with a text of one empty word at its pc and registers for every instruction. -/
def ready : Core := withS core0 [(1, 0x1234), (2, 3), (3, 64), (4, 0), (5, 5)]
def handling : Core := { ready with handler := true, pc := 640 }

/-- Guards are checked with p3 false. -/
theorem witness_falseGuard : guardOf (.aAdd 3 1 2 3) = some 3 ∧ ((on ready).core 0).grouped false (.aAdd 3 1 2 3) = true ∧
    ((on ready).core 0).guardTrue (some 3) = false := by decide +kernel
theorem witness_privileged : ([.cTret 0, .cScrub 0 1, .cTlbi 0 4 .pkg, .aMts 0 16 1, .eCtxSave 1 4 0 1, .eCtxRest 1 4 0 1] : List Instr).all
    (fun i => isSlot i && i.wf && handlerOnly i) = true ∧
    ((on ready).core 0).handler = false ∧ ((on ready).core 0).async = [] := by decide +kernel
theorem witness_illegal : isSlot (.vMovVw 0 1) = true ∧ (Instr.vMovVw 0 1).wf = false ∧ isSlot (.aMts 0 9 1) = true ∧ mtsReadOnly (.aMts 0 9 1) = true ∧
    isSlot (.cBr 0 (-3)) = true ∧ ((on ready).core 0).badTarget 128 (some (.cBr 0 (-3))) = true ∧
    ((on { ready with regs := ready.regs.writeS 1 0x40000 false }).core 0).badTarget 128 (some (.cJmp 0 1)) = true ∧ noAsync (on ready) := by
  refine ⟨?_, ?_, ?_, ?_, ?_, ?_, ?_, .inr rfl⟩ <;> decide +kernel
/-- A target that is still inside: offset 0, and the line after the last is outside. -/
theorem witness_illegal_bounds : ready.badTarget 128 (some (.cBr 0 (-2))) = false ∧ ready.badTarget 0x3FFC0 (some (.cBr 0 0)) = false ∧
    ready.badTarget 0x3FFC0 (some (.cBr 0 1)) = true := by decide +kernel
def busyDest : Core := { ready with pend := [⟨false, 3, .s 1 0 false, 0⟩] }
theorem witness_occupancy : isSlot (.aAdd 0 1 2 3) = true ∧ (Instr.aAdd 0 1 2 3).wf = true ∧ Res.s 1 ∈ writesOf (.aAdd 0 1 2 3) ∧
    ((on busyDest).core 0).pending (.s 1) = true ∧ mtsReadOnly (.aAdd 0 1 2 3) = false ∧ busyDest.badTarget 128 (some (.aAdd 0 1 2 3)) = false ∧
    busyDest.lacksPriv false (.aAdd 0 1 2 3) = false ∧ ((on busyDest).core 0).groupStalls [soloItem (.aAdd 0 1 2 3) 128] = false ∧
    (soloSlot (.aAdd 0 1 2 3) (on busyDest)).isStall = false := by decide +kernel
def poisoned2 : Core := { ready with regs := ready.regs.writeS 2 7 true }
theorem witness_poison : ((on poisoned2).core 0).grouped false (.aAdd 0 1 2 3) = true ∧ (readsOf (.aAdd 0 1 2 3)).any ((on poisoned2).core 0).poisoned = true ∧
    ((on poisoned2).core 0).guardTrue (guardOf (.aAdd 0 1 2 3)) = true := by decide +kernel
/-- A scoreboarded load of s2 holds a group that reads it. -/
def load2 : Acc :=
  { id := 0
    op := .load 8
    loc := .mem 64 false
    dst := .s 2
    e := 64
    acq := false
    rel := false
    ofl := false
    scope := .pkg
    ownL1 := false
    handler := false
    sent := true
    vaLine := 0 }
def loading : Core := { ready with accs := [load2] }
theorem witness_stall : isSlot (.aAdd 0 1 2 3) = true ∧ ((on loading).core 0).badEncoding ((on loading).paired 0) 128 [soloItem (.aAdd 0 1 2 3) 128] = none ∧
    ((on loading).core 0).groupStalls [soloItem (.aAdd 0 1 2 3) 128] = true := by decide +kernel
/-- A group that reads and writes the destination of a load waits for the value, as `a.addi s23, s23, -192` of spec/23 does. -/
theorem test_stall_before_sched :
    (match exec (.aAddi 0 2 2 (-192)) (on loading) with | .next t => t.core 0 == ((on loading).stallCycle 0 none false).core 0 | _ => false) = true := by
  decide +kernel
def struck : Core := { ready with async := [⟨cWORLD, 7, 5⟩] }
theorem witness_asyncFirst : ((on struck).core 0).handler = false ∧ ((on struck).core 0).async = ⟨cWORLD, 7, 5⟩ :: [] := by decide +kernel
theorem witness_trapEntry : ((on ready).core 0).handler = false ∧ (on ready).launch ((on ready).core 0).lid = some lau := by decide +kernel
theorem witness_nestedFault : ((on handling).core 0).handler = true ∧ (on handling).launch ((on handling).core 0).lid = some lau := by decide +kernel
def flying : Core := { ready with pend := [⟨false, 3, .s 1 0 false, 0⟩] }
theorem witness_trapAndReturn : ((on flying).core 0).handler = false ∧
    ((on flying).core 0).pend.all (fun p => !p.handler && p.delay != 0) = true ∧ ((on flying).core 0).passes = [] := by decide +kernel
/-! ## Witnesses: the A and C slots -/

def aForms : List Instr :=
  [.aAdd 0 1 2 3, .aSub 0 1 2 3, .aAnd 0 1 2 3, .aOr 0 1 2 3, .aXor 0 1 2 3, .aShl 0 1 2 3, .aShr 0 1 2 3, .aSar 0 1 2 3, .aMul 0 1 2 3,
    .aMulh 0 1 2 3 false, .aMin 0 1 2 3 false, .aMax 0 1 2 3 true, .aSel 0 1 2 3 0, .aClz 0 1 2, .aPop 0 1 2, .aAddi 0 1 2 5, .aAndi 0 1 2 5,
    .aOri 0 1 2 5, .aXori 0 1 2 5, .aShli 0 1 2 63, .aShri 0 1 2 63, .aLi 0 1 5, .aLih 0 1 5, .aMov 0 0 2]
/-- Every form of R117 issues, s0 among the destinations and an amount of 64 among the shifts. -/
theorem witness_aInteger : aForms.all (fun i => (on ready).issuesSolo i &&
    (aInteger (fun a => ((on ready).core 0).regs.rs a.toNat) (fun p => ((on ready).core 0).regs.rp p.toNat) i).isSome) = true := by decide +kernel
theorem witness_aOther : ([.aCmp 0 .lt 1 2 3, .aPand 0 1 2 3, .aPor 0 1 2 3, .aPxor 0 1 2 3, .aPnot 0 1 2, .aMfs 0 1 9, .aQget 0 1 2 3, .aQset 0 2 1 3,
    .aHq 0 1 5] : List Instr).all (fun i => (on ready).issuesSolo i && (aOther ((on ready).core 0) i).isSome) = true := by decide +kernel
theorem witness_aOther_mts : (on handling).issuesSolo (.aMts 0 16 1) = true ∧ (aOther ((on handling).core 0) (.aMts 0 16 1)).isSome = true := by
  decide +kernel

/-- A landing of one chunk on h4, present. -/
def land4 : Landing := ⟨0, 4, false, false, 1, 1, 1, 0, 0, 0, 1, [(0, true)], []⟩
/-- h1 is a full block, h2 a ring with one item of four, h3 a block that fills, h5 a full ring; one load is outstanding. -/
def waiting : Core :=
  { withS ready [(6, 2), (7, 1), (8, 0x3FFFF), (9, 3)] with
    handles := [(1, ⟨0, 8, false, 2, false, false, 0, 0, 0, 0, none, none, 0⟩), (2, ⟨8, 4, true, 1, false, false, 0, 0, 1, 0, none, none, 0⟩),
      (3, ⟨16, 8, false, 1, false, false, 0, 0, 0, 0, none, none, 0⟩), (5, ⟨24, 4, true, 2, false, false, 0, 0, 4, 0, none, none, 0⟩),
      (6, ⟨28, 4, true, 2, false, false, 0, 0, 0, 0, none, none, 0⟩)]
    lands := [land4, { land4 with h := 7, present := [] }]
    arrGen := [(3, some 4)]
    accs := [load2] }
def flagged : State :=
  { on waiting with
    clusters := [(0, { flags := [(2, 1)] })]
    barriers := [(5, { gen := 3, bound := true, lidb := 1 }), (3, { gen := 4, bound := true, lidb := 1 })] }
theorem witness_cWaits_true : ([.cNop 0, .cWait 0 1 0 0 0, .cWait 0 15 15 15 15, .cWaith 0 .free 9, .cWaith 0 .full 1, .cWaith 0 .quiet 1, .cWaith 0 .ready 2,
    .cWaith 0 .room 2, .cWaitt 0 4 4, .cFwait 0 6 7, .cBwait 0 5] : List Instr).all
      (fun i => flagged.issuesSolo i && cCondition flagged i == some true) = true := by decide +kernel
theorem witness_cWaits_false : ([.cWait 0 0 15 15 15, .cWaith 0 .free 1, .cWaith 0 .full 3, .cWaith 0 .quiet 3, .cWaith 0 .ready 6, .cWaith 0 .room 5,
    .cWaitt 0 4 7, .cFwait 0 6 3, .cBwait 0 9] : List Instr).all
      (fun i => flagged.issuesSolo i && cCondition flagged i == some false) = true := by decide +kernel
theorem witness_cTransfers : ([.cBr 0 (-2), .cBr 0 0, .cCall 0 1 4093, .cJmp 0 8, .cRet 0 4] : List Instr).all
    (fun i => flagged.issuesSolo i && (cTarget (flagged.core 0) i).isSome) = true := by decide +kernel
def level (n : Nat) : Loop := ⟨n, 64, 128⟩
def nested (n : Nat) : Core := { waiting with loops := (List.range n).map level }
theorem witness_cLoop_zero : (on waiting).issuesSolo (.cLoop 0 (.imm 0) 3) = true ∧ trips ((on waiting).core 0) (.imm 0) = 0 ∧
    (on waiting).issuesSolo (.cLoop 0 (.sreg 4) 3) = true ∧ trips ((on waiting).core 0) (.sreg 4) = 0 := by decide +kernel
theorem witness_cLoop_push : (on (nested 3)).issuesSolo (.cLoop 0 (.imm 255) 2047) = true ∧ trips ((on (nested 3)).core 0) (.imm 255) ≠ 0 ∧
    ((on (nested 3)).core 0).stack.length < 4 ∧ ((on (nested 3)).core 0).handler = false := by decide +kernel
theorem witness_cLoop_full : (on (nested 4)).issuesSolo (.cLoop 0 (.imm 1) 0) = true ∧ trips (nested 4) (.imm 1) ≠ 0 ∧
    4 ≤ ((on (nested 4)).core 0).stack.length := by decide +kernel
theorem witness_loopEnd : (level 2).last = 128 ∧ 1 < (level 2).lc ∧ (level 1).lc ≤ 1 ∧ (level 1).last ≠ 64 := by decide +kernel
def marked : Core :=
  { ready with marks := [(5, some (ready.segCount + 1, ~~~(ready.signature [soloItem (.cScheck 0 5) 128])))] }
theorem witness_cScheck : (on marked).issuesSolo (.cScheck 0 5) = true ∧ ((on marked).core 0).handler = false ∧
    SMap.get none ((on marked).core 0).marks 5 =
      some (((on marked).core 0).segCount + 1, ~~~(((on marked).core 0).signature [soloItem (.cScheck 0 5) 128])) ∧
    (on marked).issuesSolo (.cScheck 0 6) = true ∧ SMap.get none ((on marked).core 0).marks 6 = none ∧
    (on handling).issuesSolo (.cScheck 0 5) = true := by decide +kernel
/-- Banks 1 to 3: the last bank of the partition among them. -/
def banks13 : Core := withS ready [(6, 1), (7, 3)]
theorem witness_cBanks : (on banks13).issuesSolo (.cRelb 0 6 7) = true ∧ 0 < 3 ∧ 1 + 3 ≤ ((on banks13).core 0).banks ∧
    ((on banks13).core 0).cmds = [] ∧ (on banks13).issuesSolo (.cAcqb 0 6 7) = true ∧
    ((List.range 3).any fun k => ((on banks13).core 0).bankHeld (1 + k)) = false := by decide +kernel
theorem witness_cScrub : (on handling).issuesSolo (.cScrub 0 31) = true ∧ ((on handling).core 0).scrubWaits 31 = false ∧
    (on handling).issuesSolo (.cScrub 0 0) = true := by decide +kernel

/-- A core with two operands. -/
def opnd (a b : Nat) : Core := withS core0 [(3, a), (4, b)]
def flags0 (c : Core) : State := { on c with clusters := [(0, { flags := [(2, 3), (255, 100)] })] }
theorem witness_cFinc : (on (opnd 0xFF 0xFFFFFFFF)).issuesSolo (.cFinc 0 3 4) = true ∧ (0xFF#64 &&& 0xFFFFFFFFFF80FF00#64) = 0 ∧
    (0x21FF#64 &&& 0xFFFFFFFFFF80C000#64) = 0 ∧ (0x21FF#64).getLsbD 13 = true ∧ (on (opnd 0x21FF 1)).launchCluster 0 1 = some 1 ∧
    (on (opnd 0x21FF 1)).issuesSolo (.cFinc 0 3 4) = true := by decide +kernel
theorem witness_cFarm : (flags0 (opnd 0x1F0002 (3 + 2 ^ 32))).issuesSolo (.cFarm 0 3 4 .wake) = true ∧ ownFlagBad 0x1F0002#64 = false ∧
    (flags0 (opnd 0x1F0002 3)).farmBad 0 .wake 0 = false ∧ (flags0 (opnd 0x1F0002 3)).farmBad 0 .start 0 = false ∧
    (flags0 (opnd 0x1F0002 3)).farmBad 0 .signal 5 = false ∧ (armEntry (flags0 (opnd 0x1F0002 3)) 0x1F0002#64 3#64 .wake).t ≤ 3 ∧
    ¬ (armEntry (flags0 (opnd 0x1F0002 3)) 0x1F0002#64 4#64 .wake).t ≤ 3 := by decide +kernel
theorem witness_cFdis : (flags0 (opnd 0x7F00FF 0)).issuesSolo (.cFdis 0 3) = true ∧ ownFlagBad 0x7F00FF#64 = false := by decide +kernel
def barred (c : Core) (t : Barrier) : State := { on c with barriers := [(5, t)] }
theorem witness_cBpost : (barred (opnd 5 100) {}).issuesSolo (.cBpost 0 3 4) = true ∧ barReserved 5#64 false = false ∧
    ((barred (opnd 5 100) {}).barrier 5).bound = false ∧ ((barred (opnd 5 100) {}).barrier 5).err = false ∧ (barred (opnd 5 100) {}).paired 0 = false ∧
    ((barred (opnd 5 100) { pend := 2 ^ 40 - 101 }).barrier 5).pend + 100 < 2 ^ 40 ∧
    2 ^ 40 ≤ ((barred (opnd 5 100) { pend := 2 ^ 40 - 100 }).barrier 5).pend + 100 := by decide +kernel
/-- Barrier 5, all tiles, package scope; and with a fabric scope. -/
theorem witness_cBarr : (barred (opnd (5 + 256 * 0x3FFF + 2 ^ 24 * 3) 0) {}).issuesSolo (.cBarr 0 3) = true ∧
    barReserved (BitVec.ofNat 64 (5 + 256 * 0x3FFF + 2 ^ 24 * 3)) true = false ∧ (subgroupTiles 4 2 0x3FFF).isSome = true ∧
    ((subgroupTiles 4 2 0x3FFF).getD []).contains (core0.tile 4) = true ∧ SMap.get none core0.arrGen 5 ≠ some (0 : BitVec 16) ∧
    (5 + 256 * 0x3FFF + 2 ^ 24 * 4) / 2 ^ 24 % 8 = 4 := by decide +kernel

/-! The system instructions of the C slot. -/

/-- An identity mapping of the first GiB of memory in the TLB, and operands at 0x4000. -/
def mapped (c : Core) : Core := { c with tlb := [⟨0, 2 ^ 18, 579, 0⟩] }
theorem witness_cTrapsAndEnd : (on ready).issuesSolo (.cBrk 0 0xFFFF) = true ∧ (on ready).issuesSolo (.cTrap 0 0) = true ∧
    (on handling).issuesSolo (.cTret 0) = true ∧ ((on handling).core 0).handlerBusy = false ∧ ((on handling).core 0).spr.epc.toNat ≤ 0x3FFFF ∧
    (on ready).issuesSolo (.cEnd 0) = true := by decide +kernel
theorem witness_cWaitl : (on (mapped (opnd 0x4000 0))).issuesSolo (.cWaitl 0 3) = true ∧
    (mapped (opnd 0x4000 0)).translate 0x4000 false = .ok 579 ∧ (on (mapped (opnd 0x4000 0))).leafLoc 579 0x4000 = .mem 0x4000 false ∧
    (⟨0x4000 / 64, true⟩ : Monitor).line = 0x4000 / 64 ∧ (⟨5, true⟩ : Monitor).line ≠ 0x4000 / 64 ∧
    (on { mapped (opnd 0x4000 0) with monitor := some ⟨0x100, false⟩ }).issuesSolo (.cWaitl 0 3) = true := by decide +kernel
def handlingAt (a : Nat) : Core := { opnd a 0 with handler := true, pc := 640 }
theorem witness_cTlbi : (on (handlingAt 16)).issuesSolo (.cTlbi 0 3 .fab) = true ∧ (16 : Nat) / 32 % 2 ^ 7 = 0 ∧ (16#64).getLsbD 4 = true ∧
    (on (handlingAt 0x4009)).issuesSolo (.cTlbi 0 3 .pkg) = true ∧ szBits (0x4009 % 16) = some 30 := by
  decide +kernel
theorem witness_cLaunch : (on (mapped (opnd 0x4000 0))).issuesSolo (.cLaunch 0 3) = true ∧ (on (mapped (opnd 0x4000 0))).paired 0 = false ∧
    ((on (mapped (opnd 0x4000 0))).core 0).accs = [] ∧ ((on (mapped (opnd 0x4000 0))).core 0).cmds = [] ∧
    (parseRcd (BitVec.ofNat 1024 ((on (mapped (opnd 0x4000 0))).loadNat 0x4000 128))).world = 0 ∧
    ((on (mapped (opnd 0x4000 0))).linePoison 0x100 || (on (mapped (opnd 0x4000 0))).linePoison 0x101) = false ∧
    (match (on (mapped (opnd 0x4000 0))).begun.readRec 0 (.mem 0x4000 false) with
     | .got t r false => (parseRcd r).world == 0 && decide ((t.queue (parseRcd r).queue).items.length < 64)
     | _ => false) = true := by decide +kernel
/-! ## Witnesses: the L slot -/

/-- Scratchpad addresses at the start and at the last row of the partition, global ones in the mapped GiB and outside it, remote ones. -/
def lcore : Core :=
  { mapped (withS core0 [(3, 0), (4, 4 * 4096 - 64), (5, 0x4000), (6, 0x4001), (7, 2 ^ 57), (8, 0x100000000 + 64), (9, 2 ^ 32 * 4), (10, 2 ^ 31)]) with
    spPoison := [(0, true)]
    handles := [(1, ⟨0, 8, false, 2, true, false, 0xFFFF, 0, 0, 0, none, none, 0⟩)] }
def lst : State := on lcore
theorem witness_lOwn : ([.lLd 0 .pair 1 3 0, .lLd 0 .hi 31 4 0, .lSt 0 .pair 1 3 0, .lSt 0 .lo 1 4 0, .lLdq 0 true 2 3 1, .lStq 0 2 4 1, .lLdq 0 false 3 3 0,
    .lSaop 0 .max 5 1 3 2] : List Instr).all (fun i => lst.issuesSolo i) = true ∧ lcore.ownBlocked 0 [0, 1] true true = false ∧ lcore.owns 0 = true ∧
    lcore.owns (4 * 4096 - 64) = true ∧ ((rowsNamed true 0).any lcore.witRows) = false ∧ ((rowsNamed false (4 * 4096 - 64)).any lcore.witRows) = false ∧
    (lcore.regs.rq 2).getLsbD 246 = false ∧ lcore.rowPoison 0 = true ∧ lcore.rowPoison 1 = false := by decide +kernel
theorem witness_scratchpadWrite : (([⟨0, 1, false⟩, ⟨7, 2, true⟩] : List RowWrite).map RowWrite.row).Nodup ∧
    ([⟨0, 1, false⟩, ⟨7, 2, true⟩] : List RowWrite).any (fun w => decide ((lcore.handle 1).row0 ≤ w.row ∧ w.row < (lcore.handle 1).row0 + (lcore.handle 1).rows))
      = true := by decide +kernel
def globals (a : Reg) : List Instr :=
  [.lLdg 0 .b8 true 1 a 0, .lStg 0 .b4 true 2 a 1, .lLdgv 0 false true false 1 a 0, .lStgv 0 true false true 1 a 3, .lAop 0 .add true false true 1 a 2,
    .lCas 0 .q16 true 2 a 4, .lCwb 0 a, .lCinv 0 a, .lCzero 0 a]
theorem witness_lGlobal_issues : (globals 5).all (fun i => lst.issuesSolo i && (match lGlobal lst i with
    | some x => decide (x.e.toNat % x.align = 0) && lcore.translate x.e x.store == .ok 579 && lst.leafLoc 579 x.e.toNat == .mem x.e.toNat false
    | none => false)) = true := by decide +kernel
theorem witness_lGlobal_misaligned : lst.issuesSolo (.lLdg 0 .b2 false 1 6 0) = true ∧
    (match lGlobal lst (.lLdg 0 .b2 false 1 6 0) with | some x => decide (x.e.toNat % x.align ≠ 0) | none => false) = true := by decide +kernel
theorem witness_lGlobal_fault : (match lGlobal lst (.lLdg 0 .b2 false 1 7 0) with
    | some x => lcore.translate x.e x.store == .fault cXLATE | none => false) = true ∧ lst.issuesSolo (.lLdg 0 .b2 false 1 7 0) = true := by decide +kernel
theorem witness_lGlobal_walk : (match lGlobal lst (.lStg 0 .b2 false 1 9 0) with
    | some x => lcore.translate x.e x.store == .walk | none => false) = true ∧ lst.issuesSolo (.lStg 0 .b2 false 1 9 0) = true := by decide +kernel
theorem witness_lRemote : lst.issuesSolo (.lLdx 0 .pair true 1 8 0) = true ∧ lst.issuesSolo (.lStx 0 .hi true 1 8 0) = true ∧
    (remote lst (addr lst 8 0 64)).isSome = true ∧ remote lst (addr lst 9 0 64) = none ∧ remote lst (addr lst 10 0 64) = none ∧
    (remote lst (addr lst 4 0 64)).isSome = true ∧ remote lst (addr lst 4 1 64) = none := by decide +kernel
theorem witness_lOrder : ([.lFence 0 .full .sys, .lDrain 0 .task, .lPf 0 true true 5 0, .lPf 0 false false 7 0] : List Instr).all (fun i => lst.issuesSolo i) = true ∧
    ([.lTlbp 0 1 5, .lTlbp 0 1 7, .lTlbp 0 1 9] : List Instr).all (fun i => (on { lcore with handler := true, pc := 640 }).issuesSolo i) = true ∧ lcore.tlbFind 0 0x4000 = some 579 ∧ lcore.tlbFind 0 (2 ^ 34) = none ∧ lcore.walkFault = none := by
  decide +kernel

/-! ## Witnesses: the V and F slots -/

def vcore : Core :=
  { withS core0 [(3, 5), (4, 64)] with
    regs := { (withS core0 [(3, 5), (4, 64)]).regs with
      v := [(1, BitVec.ofNat 1024 (0x7FC0FF8000013F80 * (2 ^ 64 + 1))), (2, BitVec.ofNat 1024 0x80017F80BF803F80)]
      w := [(1, 0x0F), (2, 0)] } }
def vst : State := on vcore
def r16 : VRange := ⟨0, 3, 1⟩
def r64 : VRange := ⟨1, 2, 0⟩
def r128 : VRange := ⟨2, 0, 2⟩
def vForms (t : Fmt) (r : VRange) : List Instr :=
  [.vAdd t 1 1 2 r, .vSub t 4 1 2 r, .vMul t 4 1 2 r, .vFma t 4 1 2 r, .vMin t 4 1 2 r, .vMax t 4 1 2 r, .vAbs t 4 1 r, .vNeg t 4 1 r, .vAnd t 4 1 2 r,
    .vOr t 4 1 2 r, .vXor t 4 1 2 r, .vMovVv t 4 1 r]
def vInts (t : Fmt) (r : VRange) : List Instr := [.vSadd t 4 1 2 r, .vShl t 4 1 2 r, .vShr t 4 1 2 r, .vSar t 4 1 2 r]
theorem witness_vElementwise : (vForms .bf16 r16 ++ vForms .s64 r64 ++ vForms .fp64 r128 ++ vInts .s8 r16 ++ vInts .z64 r128).all
    (fun i => (vElementwise i).isSome && i.wf && vst.issuesSolo i) = true := by decide +kernel
theorem witness_vMoving : ([.vPerm .z8 4 1 2 r16, .vRot .q4 4 1 3 r64, .vRmg .z8 4 1 3 r128, .vBc .fp32 4 3 r16, .vIns .s16 4 3 3 r64, .vIota .s32 4 3 r16,
    .vUnpk .bf16 .rne true 4 1 r64] : List Instr).all (fun i => (vMoving (fun x => vcore.regs.rv x.toNat) (fun x => vcore.regs.rs x.toNat) i).isSome &&
      (i.wf || i matches .vRot .. ) && vst.issuesSolo i) = true ∧ vst.issuesSolo (.vExt .s16 1 1 3 0 3) = true ∧ (Instr.vExt .s16 1 1 3 0 3).wf = true := by
  decide +kernel
theorem witness_vMasks : ([.vCmp .bf16 .un 1 1 2 r16, .vCmp .s64 .lt 3 1 2 r128, .vSel .q4 4 1 2 r64, .vSel .e5m2 4 1 2 r128, .vMovVw 3 1, .vMovWv 4 1] :
    List Instr).all (fun i => i.wf && vst.issuesSolo i) = true := by decide +kernel
theorem witness_vConversions : ([.vCvt .bf16 .fp32 .rto 4 1 1 0, .vCvt .s8 .fp64 .rtz 4 1 0 3, .vScl .bf16 .hyb true 4 1 r128, .vScl .s8 .uni false 4 1 r16,
    .vPack .fp32 .rne true 4 1 r64] : List Instr).all (fun i => i.wf && vst.issuesSolo i) = true := by decide +kernel
/-- With no element enabled (w2 is all zeros) and with some. -/
theorem witness_vReductions : ([.vRed .bf16 .add 4 1 r16, .vRed .s64 .xor 4 1 r64, .vRed .z8 .min 4 1 r128, .vRedx .fp32 true 4 1 r16, .vRedx .s8 false 4 1 r128] :
    List Instr).all (fun i => i.wf && vst.issuesSolo i) = true ∧
    ((List.range (count r128 8)).filter fun k => enables (vcore.regs.rw 2) r128 8 k) = [] ∧
    ((List.range (count r64 64)).filter fun k => enables (vcore.regs.rw 0) r64 64 k) ≠ [] := by decide +kernel
/-- A table of two FP32 nodes at offset 0 of the constant tables; none at 64. -/
def tabled : Core := { vcore with ctab := putLineBytes [] 0 [10, 0, 2, 0, 0, 0, 0, 0, 0, 0, 0, 0xC0] }
theorem witness_fUnit : ([.fRcp 0 .bf16 0 4 1, .fRsq 0 .fp16 3 4 1, .fExp2 0 .fp32 4 4 1, .fLog2 0 .bf16 5 4 1, .fEval 0 .fp32 6 true 4 1, .fTsel 0 false 3,
    .fTsel 0 true 1] : List Instr).all (fun i => (on tabled).issuesSolo i) = true ∧ tabGood tabled 0 = true ∧ tabGood tabled 64 = false := by decide +kernel
theorem witness_fSpecialValues : (1 : Nat) ≠ 0 ∧ (-60 : Int) ≤ 60 ∧ (-60 : Int) ≤ -60 := by decide
/-! ## Witnesses: the X slot -/

def desc (base space fmt form pls rstr : Nat) : Desc :=
  BitVec.ofNat 256 (base + space * 2 ^ 28 + fmt * 2 ^ 32 + form * 2 ^ 36 + pls * 2 ^ 40 + 2 ^ 64 * rstr)
/-- q1 a plane-form stream, q2 a stationary source of S8, q3 the same in the weight store, q4 a stationary source outside the partition, q5 a stream
outside it, q6 rows to store, q7 rows to store outside it. -/
def xcore : Core :=
  { withS core0 [(3, 5), (4, 0x1FF)] with
    regs := { (withS core0 [(3, 5), (4, 0x1FF)]).regs with
      q := [(1, desc 0 0 0 1 8 256), (2, desc 0 0 0 0 0 256), (3, desc 0 1 0 0 0 256), (4, desc 0x4000 0 0 0 0 256), (5, desc 0x4000 0 0 1 8 256),
        (6, desc 0 0 0 0 0 1024), (7, desc 0x3F00 0 0 0 0 1024)] } }
def xst : State := on xcore
def loadedPlane : LdwOp := ⟨{}, 0, 0, [], false, 0⟩
theorem witness_xLdw : ([.xLdw false .sw .sp16 2 1, .xLdw true .dwh .sp16 3 256, .xLdw false .dwl .sp16 4 1, .xLdw false .sw .sp16 1 1] : List Instr).all
    (fun i => xst.issuesSolo i) = true ∧ (xcore.arr false).ldw = none ∧ xcore.refresh = false ∧ xst.wsWriteHeld 0 = false ∧
    stationaryBad xcore 1 (parseDesc (xcore.regs.rq 1)) .sp16 = true ∧ stationaryBad xcore 2 (parseDesc (xcore.regs.rq 2)) .sp16 = false ∧
    stationaryBad xcore 3 (parseDesc (xcore.regs.rq 3)) .sp16 = false ∧ stationaryBad xcore 4 (parseDesc (xcore.regs.rq 4)) .sp16 = false ∧
    xcore.spFail (xcore.ldwRanges (parseDesc (xcore.regs.rq 2)) .sp16 0) = none ∧ (xcore.spFail (xcore.ldwRanges (parseDesc (xcore.regs.rq 4)) .sp16 0)).isSome = true ∧
    xst.wsFail 0 0 (xcore.ldwRanges (parseDesc (xcore.regs.rq 3)) .sp16 255) = none ∧
    (xst.wsFail 0 1 (xcore.ldwRanges (parseDesc (xcore.regs.rq 3)) .sp16 0)).isSome = true := by decide +kernel
theorem witness_xMul : xst.issuesSolo (.xMul 0 1 8 8 .sp16 false false) = true ∧ xst.issuesSolo (.xMul 7 1 16 8 .sp16 true true) = true ∧
    xcore.ringWaits 1 (parseDesc (xcore.regs.rq 1)) 1 = false ∧ (xcore.arr false).active.wid = .sw ∧ (xcore.arr false).active.sp = .sp16 ∧
    streamBad xcore 1 (parseDesc (xcore.regs.rq 1)) 8 = false ∧ streamBad xcore 1 (parseDesc (xcore.regs.rq 1)) 9 = true ∧
    xcore.spFail (xcore.passRanges (parseDesc (xcore.regs.rq 1)) 8 0) = none ∧
    (xcore.spFail (xcore.passRanges (parseDesc (xcore.regs.rq 5)) 8 0)).isSome = true ∧ streamBad xcore 5 (parseDesc (xcore.regs.rq 5)) 8 = false := by
  decide +kernel
/-- A double-width pass needs its two planes, and wrong tags are the other case. -/
theorem witness_xMul_tags : (xcore.arr true).active.wid ≠ .dwh ∧ (xcore.arr true).ldw = none ∧ xst.issuesSolo (.xAcc 0 1 8 8 false) = true := by decide +kernel
theorem witness_xTiles : ([.xZero 7, .xSwap false, .xCfg true .rdcur 4, .xCfg false .oscale 4, .xRd 0 .e5m2 .rto 31, .xRd 4 .fp64 .rne 1] : List Instr).all
    (fun i => xst.issuesSolo i) = true := by decide +kernel
theorem witness_xSwap_waits : (on (xcore.setArr false { xcore.arr false with ldw := some loadedPlane })).issuesSolo (.xSwap false) = true := by
  decide +kernel
theorem witness_xSt : ([.xSt 0 6 .s8 .rne true, .xSt 7 7 .s8 .rne false, .xSt 0 1 .s8 .rtz false] : List Instr).all (fun i => xst.issuesSolo i) = true ∧
    (xcore.arr false).st = none ∧ xcore.witHolds [(0, 1024)] = false ∧ (parseDesc (xcore.regs.rq 1)).form = true ∧
    (parseDesc (xcore.regs.rq 6)).form = false ∧ (parseDesc (xcore.regs.rq 6)).space = false ∧
    xcore.spFail ((List.range 16).map fun r => (r * 1024, 256)) = none ∧
    (xcore.spFail ((List.range 16).map fun r => (0x3F00 + r * 1024, 256))).isSome = true := by decide +kernel
theorem witness_xCompletes : ((xcore.setArr true { xcore.arr true with ldw := some loadedPlane, st := some ⟨0, .s8, .rne, 0, 0, [], [], 0, 0, 0⟩ }).arr true).ldw = some loadedPlane ∧
    xcore.opDue 0 = true ∧ (xcore.before 0).ownBlocked 0 ((⟨0, .s8, .rne, 0, 0, [], [], 0, 0, 0⟩ : StOp).writes.map fun w => w.off / 64) false true = false := by
  decide +kernel

/-! ## Witnesses: the witness forms and v.adjb -/

/-- The worked case of chapter 11, in shape: HS is h3 (16 rows, full), HR h4, HW h5 (free); s4 the handles word, s5 the shape word. -/
def wcore (hw sw : Nat) (hs hr : Nat) : Core :=
  { withS core0 [(4, hw), (5, sw), (6, 0x4000), (7, 0x4100), (8, 5)] with
    handles := [(3, ⟨1, 16, false, hs, false, false, 77, 0, 0, 0, none, none, 0⟩), (4, ⟨17, 16, false, hr, false, false, 0, 0, 0, 0, none, none, 0⟩),
      (5, ⟨33, 16, false, 0, false, false, 0, 0, 0, 0, none, none, 0⟩)] }
def handlesW : Nat := 3 + 4 * 2 ^ 8 + 5 * 2 ^ 16
/-- k contributors for each of n outputs, ksel selected, operator code opc (0 leaves it to the instruction). -/
def shapeW (k n ksel opc : Nat) : Nat := (k - 1) + n * 2 ^ 16 + (ksel - 1) * 2 ^ 36 + opc * 2 ^ 41
def wok : Core := wcore handlesW (shapeW 4 5 1 0) 2 0
theorem witness_witnessIssue : ([.vWmax .bf16 7 4 5, .vWmin .s8 7 4 5, .vWmed .fp32 7 4 5, .vWsum .s16 0 4 5, .vWtopk .z16 7 4 5] : List Instr).all (fun i =>
    i.wf && (on wok).issuesSolo i && (match witForm i with
      | some (opc, t, _, _, b) => (witFails wok opc t b (operandWords handlesW (shapeW 4 5 1 0))).isNone | none => false)) = true ∧ wok.wit = none := by
  decide +kernel
theorem witness_witnessClamp : (Instr.vWclamp .bf16 7 4 5).wf = true ∧ (on (wcore handlesW (shapeW 1 5 1 0) 2 0)).issuesSolo (.vWclamp .bf16 7 4 5) = true ∧
    witFails (wcore handlesW (shapeW 1 5 1 0) 2 0) 3 .bf16 5 (operandWords handlesW (shapeW 1 5 1 0)) = none := by decide +kernel
/-- Each check of R222, at a case that fails it. -/
theorem witness_witnessFails :
    witFails wok 1 .bf16 5 (operandWords (handlesW + 2 ^ 25) (shapeW 4 5 1 0)) = some (cWITNESS, 1) ∧
    witFails wok 1 .bf16 5 (operandWords (3 + 3 * 2 ^ 8 + 5 * 2 ^ 16) (shapeW 4 5 1 0)) = some (cHANDLE, 3) ∧
    witFails (wcore handlesW (shapeW 4 5 1 0) 1 0) 1 .bf16 5 (operandWords handlesW (shapeW 4 5 1 0)) = some (cHANDLE, 3) ∧
    witFails (wcore handlesW (shapeW 4 5 1 0) 2 1) 1 .bf16 5 (operandWords handlesW (shapeW 4 5 1 0)) = some (cHANDLE, 4) ∧
    witFails wok 1 .bf16 5 (operandWords handlesW (shapeW 4 129 1 0)) = some (cHANDLE, 3) ∧
    witFails wok 1 .bf16 5 (operandWords handlesW (shapeW 129 1 1 0)) = some (cWITNESS, 2) ∧
    witFails wok 6 .bf16 5 (operandWords handlesW (shapeW 2 1 3 0)) = some (cWITNESS, 3) ∧
    witFails (wcore handlesW 0 2 0) 3 .bf16 6 (operandWords handlesW (shapeW 1 1 1 0)) = some (cWITNESS, 4) ∧
    witFails wok 5 .s16 5 (operandWords (handlesW + 2 ^ 24) (shapeW 4 5 1 0)) = some (cWITNESS, 5) := by decide +kernel
def inFlight : WitOp := ⟨.vWmax .bf16 7 4 5, false, [(3, 2), (4, 2)], some 4, none, [⟨17, 1, false⟩, ⟨18, 2, true⟩], 7, 3, 0, 5, 0, 0, 0, 0, 0, 0⟩
theorem witness_witnessCompletes : ({ wok with wit := some inFlight } : Core).opDue inFlight.due = true ∧ (inFlight.writes.map RowWrite.row).Nodup ∧
    (inFlight.back.map Prod.fst).Nodup ∧ inFlight.free = none ∧ inFlight.writes ≠ [] ∧ (on { wok with wit := some inFlight }).issuesSolo (.vWmax .bf16 9 4 5) = true := by
  decide +kernel
theorem witness_witnessResults : (match exec (.vWmax .bf16 7 4 5) (on wok) with | .next u => ((u.core 0).wit).isSome | _ => false) = true := by decide +kernel

/-- A witness tile of v.wmax over 2 outputs of 4 contributors in h5, HG h4 full, HD h3. -/
def acore (opc st : Nat) (wb : Bool) : Core :=
  { withS core0 [(4, 4 + 3 * 2 ^ 8 + 5 * 2 ^ 16), (5, shapeW 4 2 1 opc)] with
    handles := [(3, ⟨1, 16, false, 0, false, false, 77, 0, 0, 0, none, none, 0⟩), (4, ⟨17, 16, false, 2, false, false, 0, 0, 0, 0, none, none, 0⟩),
      (5, ⟨33, 16, false, st, wb, false, 0, 0, 0, 0, none, none, 0⟩), (6, ⟨49, 16, false, 2, false, false, 9, 0, 0, 0, none, none, 0⟩)]
    sp := putLineBytes [] (33 * 64) ([opc, 8, 8, 1, 4, 0, 0, 0, 2, 0, 0, 0, 6, 0, 9, 0].map (BitVec.ofNat 8)) }
theorem witness_adjb : (Instr.vAdjb .bf16 .first false true 4 5).wf = true ∧ (on (acore 1 2 true)).issuesSolo (.vAdjb .bf16 .first false true 4 5) = true ∧
    (acore 1 2 true).wit = none ∧ (operandWords (4 + 3 * 2 ^ 8 + 5 * 2 ^ 16) (shapeW 4 2 1 1)).reserved = false ∧
    handlesBad (acore 1 2 true) (operandWords (4 + 3 * 2 ^ 8 + 5 * 2 ^ 16) (shapeW 4 2 1 1)) = none ∧
    (acore 1 2 true).spFail [(17 * 64, 1024), (64, 1024), (33 * 64, 1024)] = none ∧ (tileOf (acore 1 2 true) 5).nout = 2 ∧ (tileOf (acore 1 2 true) 5).k = 4 ∧
    (tileOf (acore 1 2 true) 5).opc = 1 ∧ (tileOf (acore 1 2 true) 5).ksel = 1 ∧ (tileOf (acore 1 2 true) 5).hs = 6 ∧ (tileOf (acore 1 2 true) 5).sgen = 9 ∧
    ((acore 1 2 true).handle 5).wb = true := by decide +kernel
theorem witness_adjb_fails : ((acore 1 2 false).handle 5).wb = false ∧ (tileOf (acore 3 2 true) 5).opc = 3 ∧ ((acore 1 2 true).handle 6).gen.toNat = 9 ∧
    (operandWords 0 (2 ^ 15)).reserved = true ∧ (operandWords (2 ^ 24) 0).ww = true ∧
    handlesBad (acore 1 2 true) (operandWords (4 + 4 * 2 ^ 8 + 5 * 2 ^ 16) (shapeW 4 2 1 1)) = some 4 := by decide +kernel
/-! ## Witnesses: the E slot -/

/-- h1 a full block of 16 rows, h2 a free block of 16 rows behind it, h3 a ring of four items with one filled, h5 free without a buffer; q1 and q2 raw bytes
of the buffers of h1 and h2. -/
def ecore : Core :=
  { withS core0 [(3, 0x100), (4, 0), (5, 1), (6, 0x4000), (7, 2 ^ 56 + 2 ^ 40 * 2 + 2 ^ 32 * 3), (8, 64 + 2 ^ 32 * 3), (10, 64), (11, 65536), (12, 65)] with
    regs := { (withS core0 [(3, 0x100), (4, 0), (5, 1), (6, 0x4000), (7, 2 ^ 56 + 2 ^ 40 * 2 + 2 ^ 32 * 3), (8, 64 + 2 ^ 32 * 3), (10, 64), (11, 65536),
        (12, 65)]).regs with
      q := [(1, desc 0 0 0 0 0 64), (2, desc 1024 0 0 0 0 64)] }
    handles := [(1, ⟨0, 16, false, 2, false, false, 0, 0, 0, 0, none, none, 0⟩), (2, ⟨16, 16, false, 0, false, false, 0, 0, 0, 0, none, none, 0⟩),
      (3, ⟨32, 4, true, 2, false, false, 0, 0, 1, 0, none, none, 0⟩)]
    ctab := putLineBytes [] 64 ([0, 0, 2, 0, 1, 0, 128, 0, 0, 0, 0, 0, 0, 0, 0, 0, 0, 0, 2, 0].map (BitVec.ofNat 8)) }
def est : State := on ecore
def lastRows (es : Reg) : Instr := .eLand 2 es 5
theorem witness_eHandles_ok : ([.eHset 2 false true 0 0 16, .eHset 4 true false 2 252 4, .eHfree 3, .eCbp 3 (.adv 3), .eCbp 3 (.bind 1), .eCbc 3 (.adv 1),
    .eCbc 3 .unb, .eLand 2 10 5] : List Instr).all (fun i => i.wf && est.issuesSolo i && (match tableIssue est i with
      | some (none, _) => true | _ => false)) = true := by decide +kernel
/-- At each boundary: a row too many, a ring of a part of an item, an item too many, a place outside the tables, a landing that breaks R260. -/
theorem witness_eHandles_traps : ([.eHset 2 false true 0 241 16, .eHset 2 false false 0 0 0, .eHset 4 true false 2 0 5, .eCbp 3 (.adv 4), .eCbc 3 (.adv 2),
    .eCbp 2 .unb, .eCbc 5 (.adv 0), .eLand 2 11 5, .eLand 2 12 5, .eLand 2 4 5, .eLand 1 10 5] : List Instr).all (fun i => i.wf && est.issuesSolo i &&
      (match tableIssue est i with | some (some _, _) => true | _ => false)) = true := by decide +kernel
theorem witness_eHandles_effect : ecore.cmds = [] ∧ ecore.wit = none := by decide +kernel

theorem witness_eReady_cpy : (Instr.eCpy 2 1 2 3 .none ⟨false, true, .clu⟩ 0).wf = true ∧ est.issuesSolo (.eCpy 2 1 2 3 .none ⟨false, true, .clu⟩ 0) = true ∧
    eReady est (.eCpy 2 1 2 3 .none ⟨false, true, .clu⟩ 0) (ecore.regs.rq 1) (ecore.regs.rq 2) 0 0 0 := by
  refine ⟨by decide +kernel, by decide +kernel, rfl, rfl, rfl, rfl, rfl, _, rfl, ?_⟩
  decide +kernel
theorem witness_eReady_wadd : est.issuesSolo (.eCpyWadd 2 1 2 3 ⟨false, false, .pkg⟩ 0 1023) = true ∧ (Instr.eCpyWadd 2 1 2 3 ⟨false, false, .pkg⟩ 0 1023).wf = true ∧
    (readWadd 2 (ecore.regs.rq 1) (ecore.regs.rq 2) 3 0 1023).isSome = true := by decide +kernel
theorem witness_eReady_gather : est.issuesSolo (.eGath 2 1 2 3 ⟨false, false, .pkg⟩ 4 0 false .s8) = true ∧
    est.issuesSolo (.eScat 2 1 2 3 .none ⟨false, false, .pkg⟩ 4 0 false .s8) = true ∧ (Instr.eGath 2 1 2 3 ⟨false, false, .pkg⟩ 4 0 false .s8).wf = true := by
  decide +kernel
theorem buffer1 : inBuffer est 1 0 64 := ⟨by decide +kernel, by decide +kernel⟩
theorem full1 : willBe est 1 2 := ⟨by decide +kernel, by decide +kernel⟩
theorem free2 : willBe est 2 0 := ⟨by decide +kernel, by decide +kernel⟩
theorem raw1 : rawBytes (parseDesc (ecore.regs.rq 1)) := ⟨by decide +kernel, by decide +kernel, by decide +kernel, by decide +kernel⟩
/-- Tile (3, 0) of package 2, and tile (3, 0) of the launch. -/
theorem tileFar : tileGood est (ecore.regs.rs 7) false false 1 := by
  refine ⟨by decide +kernel, by decide +kernel, ?_⟩
  rw [if_pos (by decide +kernel)]
  decide +kernel
theorem tileOwn : tileGood est (ecore.regs.rs 8) true true 1 := by
  refine ⟨by decide +kernel, by decide +kernel, ?_⟩
  rw [if_neg (by decide +kernel)]
  exact ⟨by decide +kernel, lau, by decide +kernel, by decide +kernel, by decide +kernel, by decide +kernel⟩
theorem witness_eReady_put : (Instr.ePut 1 1 1 .none ⟨false, false, .pkg⟩ 3 .gva false 0).wf = true ∧
    est.issuesSolo (.ePut 1 1 1 .none ⟨false, false, .pkg⟩ 3 .gva false 0) = true ∧
    eReady est (.ePut 1 1 1 .none ⟨false, false, .pkg⟩ 3 .gva false 0) (ecore.regs.rq 1) 0 0x100 0 1 := by
  refine ⟨by decide +kernel, by decide +kernel, rfl, rfl, rfl, rfl, rfl, by decide +kernel, raw1, full1, buffer1, by decide +kernel,
    fun h => absurd rfl h, by decide +kernel, by decide +kernel⟩
theorem witness_eReady_putLand : (Instr.ePutLand 1 1 1 ⟨false, false, .pkg⟩ 8 0).wf = true ∧ est.issuesSolo (.ePutLand 1 1 1 ⟨false, false, .pkg⟩ 8 0) = true ∧
    eReady est (.ePutLand 1 1 1 ⟨false, false, .pkg⟩ 8 0) (ecore.regs.rq 1) 0 (ecore.regs.rs 8) 0 0 := by
  refine ⟨by decide +kernel, by decide +kernel, rfl, rfl, rfl, rfl, rfl, by decide +kernel, raw1, full1, buffer1, ?_⟩
  exact ⟨tileOwn.1, tileOwn.2.1, by have h := tileOwn.2.2; rw [if_neg (by decide +kernel)] at h ⊢; exact ⟨h.1, lau, by decide +kernel, by decide +kernel, by decide +kernel, by decide +kernel⟩⟩
theorem witness_eReady_get : (Instr.eGet 2 2 1 ⟨false, false, .pkg⟩ 7 true).wf = true ∧ est.issuesSolo (.eGet 2 2 1 ⟨false, false, .pkg⟩ 7 true) = true ∧
    eReady est (.eGet 2 2 1 ⟨false, false, .pkg⟩ 7 true) 0 (ecore.regs.rq 2) (ecore.regs.rs 7) 0 0 := by
  refine ⟨by decide +kernel, by decide +kernel, rfl, rfl, rfl, rfl, rfl, by decide +kernel, ?_, free2, ?_, ?_⟩
  · exact ⟨by decide +kernel, by decide +kernel, by decide +kernel, by decide +kernel⟩
  · exact ⟨by decide +kernel, by decide +kernel⟩
  · rw [if_pos rfl]
    refine ⟨by decide +kernel, by decide +kernel, ?_⟩
    rw [if_pos (by decide +kernel)]
    decide +kernel
theorem witness_eReady_ratom : (Instr.eRatom 2 ⟨false, true, .fab⟩ 3 (.aop .add) true false).wf = true ∧
    est.issuesSolo (.eRatom 2 ⟨false, true, .fab⟩ 3 (.aop .add) true false) = true ∧
    eReady est (.eRatom 2 ⟨false, true, .fab⟩ 3 (.aop .add) true false) 0 0 0x100 0 0 := by
  refine ⟨by decide +kernel, by decide +kernel, rfl, rfl, rfl, rfl, rfl, by decide +kernel, by decide +kernel, free2, ?_⟩
  exact ⟨by decide +kernel, by decide +kernel⟩
theorem witness_eReady_coll : (Instr.eColl 1 64 .wadd ⟨false, false, .pkg⟩ 4 0).wf = true ∧ est.issuesSolo (.eColl 1 64 .wadd ⟨false, false, .pkg⟩ 4 0) = true ∧
    eReady est (.eColl 1 64 .wadd ⟨false, false, .pkg⟩ 4 0) 0 0 0 1 0 := by
  refine ⟨by decide +kernel, by decide +kernel, rfl, rfl, rfl, rfl, rfl, by decide +kernel, ?_⟩
  exact ⟨by decide +kernel, by decide +kernel, by decide +kernel, by decide +kernel, by decide +kernel, by decide +kernel, by decide +kernel,
    fun h => absurd h (by decide +kernel), full1, by decide +kernel, by decide +kernel⟩
theorem witness_eReady_mcast : (Instr.eMcast 1 1 1 ⟨false, false, .pkg⟩ 3 7).wf = true ∧ est.issuesSolo (.eMcast 1 1 1 ⟨false, false, .pkg⟩ 3 7) = true ∧
    eReady est (.eMcast 1 1 1 ⟨false, false, .pkg⟩ 3 7) (ecore.regs.rq 1) 0 0x100 0 0 := by
  refine ⟨by decide +kernel, by decide +kernel, rfl, rfl, rfl, rfl, rfl, by decide +kernel, by decide +kernel, by decide +kernel, raw1, full1, buffer1⟩
theorem witness_eReady_sig : (Instr.eSig ⟨false, true, .fab⟩ 3).wf = true ∧ est.issuesSolo (.eSig ⟨false, true, .fab⟩ 3) = true ∧
    eReady est (.eSig ⟨false, true, .fab⟩ 3) 0 0 0x100 0 0 := by
  refine ⟨by decide +kernel, by decide +kernel, rfl, rfl, rfl, rfl, rfl, by decide +kernel, by decide +kernel⟩
def eHand : State := on { ecore with handler := true, pc := 640 }
theorem witness_eReady_context : (Instr.eCtxSave 2 6 3 1).wf = true ∧ eHand.issuesSolo (.eCtxSave 2 6 3 1) = true ∧ eHand.issuesSolo (.eCtxRest 2 6 3 1) = true ∧
    eReady eHand (.eCtxSave 2 6 3 1) 0 0 0x4000 0 0 := by
  refine ⟨by decide +kernel, by decide +kernel, by decide +kernel, rfl, rfl, rfl, rfl, rfl, by decide +kernel, by decide +kernel, ?_⟩
  exact ⟨by decide +kernel, by decide +kernel⟩
/-- The same in a paired launch, where the commands to the fabric raise PRIV. -/
def pairedSt : State := { est with launches := [(1, some { lau with rcd := 2 ^ 24 })] }
theorem witness_paired : pairedSt.paired 0 = true ∧ noAsync pairedSt ∧ ([.eSig ⟨false, true, .fab⟩ 3, .cBwait 0 4, .lAop 0 .add true false true 1 5 2] : List Instr).all
    (fun i => isSlot i && i.wf && pairForbidden i) = true := ⟨by decide +kernel, .inr rfl, by decide +kernel⟩

/-- A copy that may start and one that runs. -/
def copy0 : Cmd :=
  { id := 0, i := .eCpy 2 1 2 0 .none ⟨false, false, .pkg⟩ 0, qs := ecore.regs.rq 1, qd := ecore.regs.rq 2, a := 0, b := 0, c := 0, handler := false,
    taken := [2], st := .queued, poison := false }
def copying (m : Cmd) : State := on { ecore with cmds := [m] }
theorem witness_copy : ((copying copy0).core 0).cmd 0 = some copy0 ∧ (copy0.cpy.map fun y => (y.ss == .sp, y.ds == .sp)) = some (true, true) ∧
    ((copying copy0).startsOn 0 copy0).isSome = true ∧ ((copying copy0).startsOn 0 { copy0 with st := .running 0 }) = none ∧
    ((copying { copy0 with st := .running 0 }).core 0).opDue 0 = true ∧ ((copying { copy0 with st := .running 0 }).core 0).relWaits { copy0 with st := .running 0 } = false ∧
    copy0.old = false ∧ ((copying copy0).core 0).run ≠ .waiting ∧
    (match copy0.cpy with
     | some y => y.dar == .none && !y.s.bound && !y.d.bound && !y.s.form && !y.d.form && y.s.fmt == y.d.fmt && y.s.fmt.isIF && decide (y.cols * y.s.fmt.bits / 8 ≤ y.d.rstr)
     | none => false) = true := by
  decide +kernel

/-! ## Witnesses: rows that arrive -/

/-- A landing of tag 9 on h2: two rows of two chunks of two rows each, with scales. -/
def land9 : Landing := ⟨9, 2, false, true, 2, 2, 128, 64, 512, 4, 2, [], []⟩
def landing : Core :=
  { core0 with handles := [(2, ⟨20, 30, false, 1, false, true, 0, 0, 0, 0, none, none, 0⟩)], lands := [land9] }
/-- The last row of chunk 3, and the scale chunk 4. -/
def chunk3 : TensorPkt := ⟨tensorHdr 1 0 1 0 0 9 3 3 0 0 1 0, [5], [], [], 0⟩
def chunk4 : TensorPkt := ⟨tensorHdr 1 0 0 0 0 9 4 3 0 0 0 0, [6], [], [], 0⟩
def arriving (p : TensorPkt) : State :=
  { cores := [(3, landing)], launches := [(1, some lau)], fab := { ({} : Fabric) with tens := [⟨.landing 3, p, .none, 1, false⟩] } }
theorem witness_landing (p : TensorPkt) (h : p = chunk3 ∨ p = chunk4) :
    (arriving p).fab.tens.find? (fun t => t.dest == .landing 3 && t.p == p) = some ⟨.landing 3, p, .none, 1, false⟩ ∧ (arriving p).lineOf 1 = false ∧
    ((arriving p).core 3).run ≠ .idle ∧ ((arriving p).core 3).spr.world.toNat = p.world ∧ landing.lands.find? (fun l => l.tag == p.tag) = some land9 ∧
    p.chunk < 2 * 2 + 2 ∧ p.ccnt + 1 = (if p.chunk < 4 then 2 else 1) ∧ p.rows.length = p.nrow + 1 ∧ p.lrow + p.nrow + 1 ≤ (if p.chunk < 4 then 2 else 1) ∧
    SMap.get false land9.present p.chunk = false := by
  rcases h with rfl | rfl <;> decide +kernel
/-- An e.put of one row of h1 of core 0 to row 1 of core 3, its packet at core 3's router, and one that is under way. -/
def put0 : Cmd :=
  { id := 0, i := .ePut 1 1 1 .none ⟨false, false, .pkg⟩ 8 .rsp false 0, qs := ecore.regs.rq 1, qd := 0, a := ecore.regs.rs 8, b := 0, c := 0, handler := false,
    taken := [1], st := .queued, poison := false, lid := 1 }
def putting : State :=
  { cores := [(0, { ecore with cmds := [put0] }), (3, core0)], launches := [(1, some lau)]
    pkts := [(7, some { hdr := 3, at_ := 3, core := 3, body := .engine 0 0 0 }), (8, some { hdr := 3, at_ := 2, core := 3, body := .engine 0 0 0 })] }
theorem witness_put : (putting.pkt 7).map (fun p => (p.at_ == p.dst, p.core, p.body == .engine 0 0 0)) = some (true, 3, true) ∧
    (putting.pkt 8).map (fun p => p.at_ == p.dst) = some false ∧ (putting.core 0).cmd 0 = some put0 ∧
    (put0.putRows.map fun y => (y.dar, (putting.core 3).owns (putOff put0 y 0))) = some (.none, true) ∧
    (putting.core 3).spr.world.toNat = putting.worldOf put0.lid := by decide +kernel
/-! ## Witnesses: the words of a communication core -/

/-- LM: an arm descriptor at 0, steps at 64, 96, 128 (two rows) and 160 (no row), a rank table at 512; k3 and k4 the operands. -/
def kslot (a b : Nat) : MSlot :=
  { run := .running, lid := 1, k := [(3, BitVec.ofNat 64 a), (4, BitVec.ofNat 64 b), (5, 1), (8, 2), (9, 1)], pc := 10, rank := 1, nr := 3, rtab := 512
    lm := [(0, 1 + 2 ^ 48), (1, 2 * 2 ^ 16), (2, 3), (3, 1), (8, 0x4000), (10, 1), (12, 0x8000), (14, 1), (16, 0x4000), (18, 2), (20, 0x4000),
      (64, 0 + 1 * 2 ^ 16 + 2 * 2 ^ 32)] }
def kst (x : MSlot) : State := { on core0 with curM := 2, curSlot := 1, martens := [(9, x)] }
/-- Where the program of a slot with LID 1 issues, so does the word: its launch has not ended. -/
theorem kst_issues (x : MSlot) (r w : List KReg) (h : x.issues r w = true) (hl : x.lid = 1) : (kst x).kIssues r w = true := by
  have hx : (kst x).curSlotState = x := by
    simp [kst, State.curSlotState, State.marten, SMap.get]
  have ho : (kst x).programOver x = false := by
    simp [State.programOver, hl, kst, on, State.launch, SMap.get, Launch.over, lau]
  simp [State.kIssues, hx, h, ho]
def kRegs (d : KReg) : List Instr :=
  [.kAdd d 3 4, .kSub d 3 4, .kAnd d 3 4, .kOr d 3 4, .kXor d 3 4, .kShl d 3 4, .kShr d 3 4, .kAddi d 3 1, .kAndi d 3 1, .kOri d 3 1, .kShli d 3 63,
    .kShri d 3 63, .kLi d 1, .kLih d 1, .kMfs d 0, .kMfs d 7, .kMfs d 8, .kMfs d 16, .kPeer d 3 1, .kRpkg d 3]
theorem witness_kRegisters : (kRegs 0 ++ kRegs 6).all (fun i => match kValue (kst (kslot 1 2)) (kslot 1 2) i with
    | some (r, d, _) => (kslot 1 2).issues r [d] | none => false) = true ∧ (kst (kslot 1 2)).curSlotState = kslot 1 2 ∧ (kslot 1 2).issues [] [] = true := by
  decide +kernel
theorem witness_kRegisters_stops : ({ kslot 1 2 with run := .stopped } : MSlot).runs = false ∧ ({ kslot 1 2 with waits := [3] } : MSlot).waits.contains 3 = true ∧
    SMap.get false ({ kslot 1 2 with kPoison := [(3, true)] } : MSlot).kPoison 3 = true ∧ 17 ≤ (17 : BitVec 5).toNat ∧
    ({ kslot 1 2 with nr := 0 } : MSlot).issues [3] [6] = true := by decide +kernel
/-- The last word of LM, the first address past it, an address out of place. -/
theorem witness_kMemory : (kslot 16376 0).issues [3] [6] = true ∧ (kReg (kslot 16376 0) 3).toNat % 8 = 0 ∧ (kReg (kslot 16376 0) 3).toNat < 16384 ∧
    16384 ≤ (kReg (kslot 16384 0) 3).toNat ∧ (kReg (kslot 4 0) 3).toNat % 8 ≠ 0 ∧ (kslot 0 0).issues [3, 6] [] = true := by decide +kernel
theorem witness_kLdg : (match (paged (kst (kslot 0x4000 0)) 579).translateFor 1 0x4000 false with | .ok l => l == 579 | .error _ => false) = true ∧ (paged (kst (kslot 0x4000 0)) 579).leafLoc 579 0x4000 = .mem 0x4000 false ∧
    ((paged (kst (kslot 0x4000 0)) 579).homeLoad 0x100 0).linePoison 0x100 = false ∧ 
    (match (kst (kslot 0x4000 0)).translateFor 1 0x4000 false with | .ok _ => false | .error k => k == cXLATE) = true ∧
    (paged (kst (kslot 0x4000 0)) (579 + 2 ^ 51)).leafLoc (BitVec.ofNat 64 (579 + 2 ^ 51)) 0x4000 = .fab 1 0x4000 ∧ isDevice (2 ^ 48 + 0x10000) = true ∧
    (kst (kslot 0x4000 0)).leafLoc (BitVec.ofNat 64 (579 + 2 ^ 50)) 0x10008 = .dev (2 ^ 48 + 0x10008) ∧
    (kst (kslot 0x4000 0)).leafLoc (BitVec.ofNat 64 (579 + 2 ^ 50)) 0x2FFF8 = .dev (2 ^ 48 + 0x2FFF8) ∧
    (kst (kslot 0x4000 0)).leafLoc (BitVec.ofNat 64 (579 + 2 ^ 50)) 0x30000 = .dev (2 ^ 48 + 0x30000) := by decide +kernel
theorem witness_kTransfers : (kslot 1 1).issues [3, 4] [] = true ∧ kReg (kslot 1 1) 3 = kReg (kslot 1 1) 4 ∧ kReg (kslot 1 2) 3 ≠ kReg (kslot 1 2) 4 ∧
    (kReg (kslot 1 2) 3).toInt < (kReg (kslot 1 2) 4).toInt ∧ (kslot 4095 0).issues [3] [] = true ∧ (kReg (kslot 4095 0) 3).toNat < 4096 ∧
    ¬ (kReg (kslot 4096 0) 3).toNat < 4096 ∧ (kReg (kslot (2 ^ 32) 0) 3).toNat % 2 ^ 32 = 0 := by decide +kernel
/-- Every branch, k.jmp, k.call, k.ret, k.loop and k.end issues, k0 and k15 among the registers. -/
theorem witness_kTransfers_issue : (kst (kslot 1 2)).kIssues [3, 4] [] = true ∧ (kst (kslot 1 2)).kIssues [0, 15] [] = true ∧ (kst (kslot 1 2)).kIssues [] [] = true ∧
    (kst (kslot 1 2)).kIssues [] [3] = true ∧ (kst (kslot 1 2)).kIssues [] [0] = true ∧ (kst (kslot 1 2)).kIssues [3] [] = true := by
  refine ⟨?_, ?_, ?_, ?_, ?_, ?_⟩ <;> exact kst_issues _ _ _ (by decide +kernel) rfl
/-- A launch that has ended, and its program, which issues no more. -/
def kOver : State := { kst (kslot 1 2) with launches := [(1, some { lau with finished := true })] }
theorem witness_kOver : kOver.curSlotState.runs = true ∧ kOver.programOver kOver.curSlotState = true ∧ (kst (kslot 1 2)).curSlotState.runs = true ∧
    (kst (kslot 1 2)).programOver (kst (kslot 1 2)).curSlotState = false := by decide +kernel
theorem witness_kLoops : ({ kslot 1 1 with loops := [⟨2, 8, 10⟩] } : MSlot).pc = 10 ∧ (⟨2, 8, 10⟩ : Loop).first ≠ 11 ∧ 1 < (⟨2, 8, 10⟩ : Loop).lc ∧ (⟨1, 8, 10⟩ : Loop).lc ≤ 1 ∧
    (kslot 1 1).pc ≠ (⟨2, 8, 12⟩ : Loop).last ∧ 2 ≤ ([⟨2, 8, 12⟩, ⟨2, 8, 20⟩] : List Loop).length := by decide +kernel

def event3 : Ev := ⟨3, 2, 0x105, 5, 1⟩
theorem witness_kEvents : (kslot 0 0).issues [] [4, 5] = true ∧ (kslot 0 0).queue = [] ∧ ({ kslot 0 0 with queue := [event3] } : MSlot).queue = event3 :: [] ∧
    (kslot 0 0).held = [] ∧ 1 ≤ event3.type ∧ event3.type ≤ 5 ∧ (kslot event3.e0.toNat 0).issues [3] [] = true ∧ event3.e0 = kReg (kslot event3.e0.toNat 0) 3 ∧
    (kslot 0 0).locks = [] := by decide +kernel
theorem witness_kEmask : (kReg (kslot 254 0) 3).toNat < 256 ∧ (kReg (kslot 254 0) 3).toNat % 2 = 0 ∧ ¬ (kReg (kslot 256 0) 3).toNat < 256 ∧
    (kReg (kslot 1 0) 3).toNat % 2 ≠ 0 ∧ (kslot 1 0).issues [3, 4] [] = true := by decide +kernel
theorem witness_timer : ((kst { kslot 0 0 with timers := [(15, 1)] }).marten 2 1).runs = true ∧ SMap.get 0 ((kst { kslot 0 0 with timers := [(15, 1)] }).marten 2 1).timers 15 = 1 := by
  decide +kernel
/-- Connection 4 of world 0 to package 1 with packet 7 outstanding, connection 5 a hop connection of another world. -/
def conn4 : Conn := { world := 0, peer := 1, hop := false, psn := 8, cum := 6, out := [⟨7, 0, 1, .cts ⟨0, 0, 0, 0, 0⟩ 1⟩] }
def conned (x : MSlot) : State :=
  { kst x with fab := { ({} : Fabric) with conns := [(4, some conn4), (5, some { conn4 with hop := true, world := 3 }), (6, some { conn4 with world := 3 })] } }
theorem witness_kConnections : (kslot 1 0).issues [3] [6] = true ∧ (kReg (kslot 1 0) 3).toNat % 8192 ≠ (conned (kslot 1 0)).pkg ∧ 1 < (conned (kslot 1 0)).npkg ∧
    (conned (kslot 3 0)).npkg ≤ (kReg (kslot 3 0) 3).toNat % 8192 ∧ kConn (conned (kslot 4 7)) (kslot 4 7) 3 = some conn4 ∧ kConn (conned (kslot 6 7)) (kslot 6 7) 3 = none ∧
    kConn (conned (kslot 5 7)) (kslot 5 7) 3 = some { conn4 with hop := true, world := 3 } ∧ (kslot 4 7).issues [3, 4, 5] [6] = true ∧ (conned (kslot 5 7)).curSlot ≠ 0 := by
  decide +kernel

theorem witness_kArm : (kslot 0 0).issues [3] [6] = true ∧ armBad (kslot 0 0) 0 = false ∧ armBad (kslot 64 0) 64 = true ∧
    (kst (kslot 0 0)).slotOf 0 1 0 = none ∧ (kst (kslot 0 0)).freeRSlotNo = some 0 ∧
    SMap.get none (kst (kslot 0 0)).fab.epochs (epochKey 0 1 0) = none ∧ (16352 : Nat) % 32 = 0 := by decide +kernel
theorem witness_kMgrp : (kslot 1023 512).issues [3, 4] [] = true ∧ (512 : Nat) % 8 = 0 ∧ 512 ≤ 16344 ∧ 1023 < 1024 * (1 - 1) + 1024 ∧ (kslot 1023 512).lmNat (512 + 6) 2 = 0 ∧
    (kslot 1024 512).lmNat (0 + 6) 2 ≠ 0 ∧ (kst (kslot 0 0)).launch 1 = some lau ∧ (lau.clusters.headD [])[(256 : Nat) / 256]? = some 1 ∧
    (lau.clusters.headD [])[(512 : Nat) / 256]? = none ∧ ((kst (kslot 0 0)).cluster 1).out = false := by decide +kernel
theorem witness_kRset : (kslot 3 512).issues [5, 3, 4] [] = true ∧ ¬ (3 = 0 ∨ 3 ≤ 1 ∨ 512 % 2 ≠ 0 ∨ 16384 < 512 + 2 * 3) ∧ 16384 < 16380 + 2 * 3 := by decide +kernel
theorem witness_kSteps : (kslot 64 2).issues [3, 4] [] = true ∧ (kslot 64 2).steps.length < 16 ∧ (kslot 64 2).waits = [] ∧ stepFault (kst (kslot 64 2)) (kslot 64 2) 64 false = none ∧
    stepFault (kst (kslot 64 2)) (kslot 64 2) 96 false = none ∧ stepFault (kst (kslot 160 2)) (kslot 160 2) 160 false = some cSTREAM ∧
    stepFault (kst (kslot 16384 2)) (kslot 16384 2) 16384 false = some cBANK ∧ (kslot 64 2).nr = 3 ∧ (kslot 64 2).lmNat 112 4 = (kslot 64 2).lmNat 80 4 ∧
    (kslot 64 2).lmNat 144 4 ≠ (kslot 64 2).lmNat 80 4 := by decide +kernel
theorem witness_kRrs : (kslot 64 2).issues [3, 8, 8 + 1] [] = true ∧ stepFault (kst (kslot 64 2)) (kslot 64 2) 64 true = none ∧ (kReg (kslot 64 2) 8).toNat < 3 ∧
    (kReg (kslot 64 2) (8 + 1)).toNat < 3 ∧ (8 : KReg) ≠ 15 ∧ (16 : BitVec 18).toNat ≤ 16 := by decide +kernel
def step0 : StepOp := stepOf (kslot 64 2) 64 0 5 none (some 2) 0 false
theorem witness_posted : step0.kind < 3 ∧ step0.pto < (kst (kslot 64 2)).npkg ∧ (kst (kslot 64 2)).npkg ≤ { step0 with pto := 3 }.pto := by decide +kernel
/-! ## Events -/

theorem witness_nopGroup : ((on core0).core (on core0).cur).async = [] ∧ ((on core0).core (on core0).cur).tlbiWait = false ∧ ((on core0).core (on core0).cur).drainWaits = false ∧
    ({ core0 with tlbiWait := true } : Core).tlbiWait = true := by decide +kernel
def core7 : Core := { core0 with async := [⟨16, 7, 5⟩], walk := some 0x4000 }
/-- The same task with its page tables in host memory, of which nothing is granted. -/
def hostRooted : State := { on core7 with launches := [(1, some { lau with root := 2 ^ 47 })] }
theorem witness_async : core7.run = .running ∧ core7.handler = false ∧ core7.async = ⟨16, 7, 5⟩ :: [] ∧ core0.async = [] ∧ core0.walk = none ∧
    core7.walk = some 0x4000 ∧ ((on core7).walkFrom 0 0x4000 ((on core7).rootOf 0) 4).1 = none ∧
    ((paged (on core7) 579).walkFrom 0 0x4000 ((paged (on core7) 579).rootOf 0) 4).1 = some 579 ∧
    ((paged (on core7) 579).walkFrom 0 0x4000 ((paged (on core7) 579).rootOf 0) 4).2.all (fun a => !(paged (on core7) 579).lacksGrant (a / 64) false) = true ∧
    (hostRooted.walkFrom 0 0x4000 (hostRooted.rootOf 0) 4).2.any (fun a => hostRooted.lacksGrant (a / 64) false) = true ∧
    szBits (leafSz 579) = some 30 := by decide +kernel
/-- The launch with its halt line raised, ended, and with cluster 0 on its way out. -/
def halted (l : Launch) : State := { on core0 with launches := [(1, some l)], martens := [(9, { run := .running, lid := 1 })] }
theorem witness_coreHalt : (halted { lau with line := true }).launch core0.lid = some { lau with line := true } ∧ core0.stopCause = 0 ∧ core0.run = .running ∧
    core0.run ≠ .idle ∧ core0.handler = false ∧ ({ lau with line := true, leaving := [0] } : Launch).leaving.contains (32 * core0.run_ + core0.relCluster 4) = true ∧
    lau.finished = false ∧ ({ lau with finished := true } : Launch).finished = true ∧ ({ cores := [(0, core0)] } : State).launch core0.lid = none ∧
    ((halted { lau with line := true }).launch ((halted { lau with line := true }).core (clusterCore 0 0)).lid).isSome = true ∧
    ((halted { lau with line := true }).marten 2 1).runs = true ∧ (halted { lau with line := true }).launch ((halted { lau with line := true }).marten 2 1).lid = some { lau with line := true } := by
  decide +kernel

/-- Core 0 with a copy that an engine has begun, the line up; the same with the engine's record written; and a copy with arithmetic in its apply. -/
def engHalt (recs : List Nat) : State :=
  { on { ecore with cmds := [{ copy0 with st := .running 9, lid := 1 }] } with launches := [(1, some { lau with line := true, engRec := recs })] }
def applying : Cmd := { copy0 with i := .eCpy 2 1 2 0 .add ⟨false, false, .pkg⟩ 0, st := .running 0, lid := 1 }
theorem witness_engineHalt : let l := { lau with line := true, engRec := [] }
    let s := engHalt []
    let m := { copy0 with st := .running 9, lid := 1 }
    s.launch (s.core (clusterCore 0 0)).lid = some l ∧ l.engRec.contains (l.engineSlot ((s.core (clusterCore 0 0)).relCluster l.w) 0) = false ∧
    (∀ i, i < 8 → ((s.core (clusterCore 0 i)).cmds.map Cmd.id).Nodup) ∧ (s.core 0).cmds = [m] ∧ m.onEngine = true ∧ m.eng = 0 ∧ m.lid = l.lid ∧ m.handler = false ∧
    (∀ i, i < 8 → ∀ m ∈ (s.core (clusterCore 0 i)).cmds, (s.core (clusterCore 0 i)).inApply m = false) ∧
    (let l := { lau with line := true, engRec := [lau.engineSlot 0 2] }
     l.engRec.contains (l.engineSlot (((engHalt [lau.engineSlot 0 2]).core (clusterCore 0 0)).relCluster l.w) 2) = true) ∧
    ((on { ecore with cmds := [applying] }).core 0).inApply applying = true ∧ applying.cpy.isSome = true := by decide +kernel

def acc (o : AccOp) (l : Loc) (d : LDst) : Acc :=
  { id := 5, op := o, loc := l, dst := d, e := 77, acq := false, rel := false, ofl := false, scope := .clu, ownL1 := true, handler := false, sent := true, vaLine := 0 }
/-- Core 0 with one access. -/
def doing (a : Acc) : State := on { core0 with accs := [a] }
def arrives (o : AccOp) (d : LDst) (sb : Bool) : Bool :=
  let a := acc o (.mem 0x100 sb) d
  let s := doing a
  (a.reply.isNone && !s.accWaits 0 a 0x100 sb && !(s.core 0).blocked a) && (s.core 0).accs.find? (fun a => a.id == 5) == some a
theorem witness_loads : arrives (.load 8) (.s 4) true = true ∧ arrives (.load 128) (.pair 4) false = true ∧ (acc (.load 8) (.mem 0x100 false) (.s 4)).countsOCL = true ∧
    arrives (.aop .min 4 false 5) (.s 4) false = true ∧ (acc (.aop .min 4 false 5) (.mem 0x100 false) (.s 4)).countsOCL = true ∧
    arrives (.cas 16 0 1) (.s2 4) false = true ∧ (acc (.cas 16 0 1) (.mem 0x100 false) (.s2 4)).countsOCL = true := by decide +kernel
theorem witness_stores : arrives (.store 64 5) .none false = true ∧ (acc (.store 64 5) (.mem 0x100 false) .none).acked = true ∧
    arrives .czero .none false = true ∧ (acc .czero (.mem 0x100 false) .none).acked = true ∧ (∀ a ∈ core0.accs, a.id ≠ 5) ∧
    { acc (.load 8) (.mem 0x100 false) (.s 4) with reply := some ⟨9, 1, some 17⟩ }.reply = some ⟨9, 1, some 17⟩ ∧
    ({ core0 with accs := [{ acc (.load 8) (.mem 512 true) (.s 6) with id := 3, acq := true }, acc (.load 8) (.mem 0x100 true) (.s 4)] } : Core).blocked
      (acc (.load 8) (.mem 0x100 true) (.s 4)) = true := by decide +kernel
/-- A load of host memory that is not granted. -/
theorem witness_accessWaits : let a := acc (.load 8) (.mem (2 ^ 47) false) (.s 4)
    a.reply = none ∧ ((doing a).core 0).blocked a = false ∧ (doing a).accWaits 0 a (2 ^ 47) false = true := by decide +kernel
/-- An ordered flag of core 0 in packet 4, at router 5 where core 1 stands or before it; 2 stores of core 0 on path 0 have performed there. -/
def oflag : Acc := { acc (.store 64 7) (.core 1 128) .none with ofl := true }
def pkt4 (at_ cnt : Nat) : Pkt := { hdr := BitVec.ofNat 128 (2 ^ 64 * cnt + 3 * 2 ^ 18 + 5), at_ := at_, core := 1, body := .access 0 5 }
def flag7 (held : List HeldFlag) (at_ cnt : Nat) : State :=
  { on { core0 with accs := [oflag] } with
    cores := [(0, { core0 with accs := [oflag] }), (1, { core0 with held := held, performed := [(0, 2)] })]
    pkts := [(4, some (pkt4 at_ cnt))] }
def flagGo (cnt : Nat) : Bool := (List.range 4).all fun i => (SMap.get 0 ((flag7 [⟨0, 4, [cnt, 0, 0, 0]⟩] 5 cnt).core 1).performed (4 * 0 + i) + 65536 -
  ([cnt, 0, 0, 0] : List Nat).getD i 0) % 65536 < 32768
/-- The count reached exactly, one store too few, a place taken of 16, all of them. -/
theorem witness_orderedFlag : (flag7 [] 5 2).pkt 4 = some (pkt4 5 2) ∧ (flag7 [] 5 2).pktAcc (pkt4 5 2) = some (0, oflag, 128) ∧ (pkt4 5 2).at_ = (pkt4 5 2).dst ∧
    (pkt4 4 2).at_ ≠ (pkt4 4 2).dst ∧ (pkt4 5 2).kind = 3 ∧ (pkt4 5 2).counts = [2, 0, 0, 0] ∧ ((flag7 [] 5 2).core 1).held.length < 16 ∧
    ((flag7 [⟨0, 4, [2, 0, 0, 0]⟩] 5 2).core 1).held.find? (fun h => h.acc == 4) = some ⟨0, 4, [2, 0, 0, 0]⟩ ∧ flagGo 2 = true ∧ flagGo 3 = false ∧
    ((flag7 [] 5 2).core 1).owns 128 = true ∧ ({ core0 with owner := [] } : Core).owns 128 = false ∧ (flag7 [] 5 2).nextPkt ≠ 4 ∧ oflag.op = .store 64 7 ∧ 16 ≤ ((flag7 (List.replicate 16 ⟨0, 9, []⟩) 5 2).core 1).held.length ∧
    (pkt4 5 2).hdr.getLsbD 28 = false := by decide +kernel
/-- One that came by the burrow lane has a seventeenth place. -/
theorem witness_laneFlag : let p := { pkt4 5 2 with hdr := (pkt4 5 2).hdr ||| BitVec.ofNat 128 (2 ^ 28) }
    let s := { flag7 (List.replicate 16 ⟨0, 9, []⟩) 5 2 with pkts := [(4, some p)] }
    s.pktAcc p = some (0, oflag, 128) ∧ p.at_ = p.dst ∧ p.kind = 3 ∧ p.hdr.getLsbD 28 = true ∧ (∀ h ∈ (s.core p.core).held, h.acc ≠ 4) ∧ (s.core p.core).held.length < 17 ∧
    17 ≤ ((flag7 (List.replicate 17 ⟨0, 9, []⟩) 5 2).core 1).held.length := by decide +kernel

/-- Cluster 0 with flag 7 at 2^32 - 2, an increment of 3 on its way, entries that fire and that do not. -/
def clu (out : Bool) : Cluster :=
  { flags := [(7, 2 ^ 32 - 2)], out := out, arrived := [⟨7, 3, none⟩]
    arms := [(0, some ⟨7, 2 ^ 32 - 1, 1, 3, 0, 0⟩), (1, some ⟨7, 2 ^ 32 - 2, 1, 1, 1, 0⟩), (2, some ⟨6, 1, 1, 1, 2, 0⟩)] }
def cst (out : Bool) : State := { on core0 with clusters := [(0, clu out)] }
theorem witness_flagEvents : ((cst false).cluster 0).arrived.find? (fun i => i.flag == 7) = some ⟨7, 3, none⟩ ∧ ((cst false).cluster 0).out = false ∧
    ((cst true).cluster 0).out = true ∧ (∀ i ∈ ((cst false).cluster 0).arrived, i.flag ≠ 6) ∧ min (2 ^ 32 - 2 + 3) (2 ^ 32 - 1) = 2 ^ 32 - 1 ∧
    (((on core0).core 0).handle 3).ring = false ∧ (on core0).launchCluster 0 0 = some 0 ∧ (on core0).launchCluster 0 1 = some 1 := by decide +kernel
/-- Barrier 9 with all tiles but one there, bytes to come. -/
def bar7 (pend : Nat) (l : Launch) (a : Acc) : State :=
  { doing a with launches := [(1, some l)], barriers := [(9, { bound := true, lidb := 1, pend := pend, arrived := List.range 7, gen := 65535, subg := 0x4020, bscope := 3 })]
                 barIn := [(9, 40, 1)] }
theorem witness_barrierEvents : (∀ o ∈ [AccOp.post 4095, .arrive], let a := acc o (.barrier 9) .none
      ((bar7 40 lau a).core 0).accs.find? (fun a => a.id == 5) = some a ∧ ((bar7 40 lau a).core 0).blocked a = false) ∧
    let s := bar7 40 lau (acc .arrive (.barrier 9) .none)
    s.launch (s.barrier 9).lidb = some lau ∧ s.barIn.find? (fun e => e.1 == 9 && e.2.1 == 40) = some (9, 40, 1) ∧ (∀ e ∈ s.barIn, e.1 ≠ 9 ∨ e.2.1 ≠ 41) ∧
    s.lineOf 1 = false ∧ ¬ 40 < 40 ∧ (s.barrier 9).pend = 40 ∧ (s.core 0).cmds = [] ∧
    (let c : Core := { core0 with cmds := [{ copy0 with id := 3 }], accs := [acc .arrive (.barrier 9) .none] }
     ∃ m ∈ c.cmds, m.id < (acc .arrive (.barrier 9) .none).id ∧ m.old = false) ∧
    (bar7 39 lau (acc .arrive (.barrier 9) .none)).barIn = [(9, 40, 1)] ∧ (bar7 39 { lau with line := true } (acc .arrive (.barrier 9) .none)).lineOf 1 = true ∧
    (subgroupTiles 4 2 0x3FFF).isSome = true := by decide +kernel

/-- An invalidation core 0 has begun: core 3 has still to hear, core 1 has. -/
def inval (out : Nat) : State :=
  { on core0 with tlbis := [{ core := 0, world := 0, page := some (4, 1), left := [(1, some 0), (3, none)], outside := 0, id := 0 }, { core := 2, world := 0, page := none, left := [(1, some 0)], outside := out, id := 0 }] }
/-- With a store of core 0 before both. -/
def later9 (out : Nat) : State :=
  { inval out with
    cores := [(0, { core0 with accs := [acc (.store 8 1) (.mem 64 false) .none] })]
    tlbis := (inval out).tlbis.map fun (t : Tlbi) => { t with id := 9 } }
theorem witness_tlbi : (inval 0).tlbis.find? (fun t => t.left.any fun e => e.1 == 3 && e.2.isNone) = (inval 0).tlbis[0]? ∧ (inval 0).tlbis[0]?.map (inval 0).tlbiReady = some true ∧
    (inval 0).tlbis.all (fun t => t.left.all fun e => e.1 != 1 || e.2.isSome) = true ∧ (inval 0).tlbis.find? (fun t => t.core == 2) = (inval 0).tlbis[1]? ∧
    (inval 0).tlbiReported (1, some 0) = true ∧ (inval 0).tlbiReported (3, none) = false ∧
    (later9 0).tlbis.map (later9 0).tlbiReady = [false, true] := by decide +kernel

/-- Line 5 as no core, core 0, cores 0 and 1 hold it. -/
def dir (k : Nat) : State := match k with | 0 => on core0 | 1 => (on core0).l1Load 0 5 0 | _ => ((on core0).l1Load 0 5 0).l1Load 1 5 0
def dst5 (s : State) : Nat := match (s.fillL2 5 0).l2Line 5 with | some y => y.dst | none => 9
theorem witness_directory : lineOk 5 = true ∧ ((dir 0).core 0).l1State 5 = .i ∧ (dir 0).waitsHost 0 5 false = false ∧ (dir 0).waitsHost 0 5 true = false ∧ dst5 (dir 0) = 0 ∧
    dst5 (dir 1) = 2 ∧ dst5 (dir 2) = 1 ∧ ((dir 1).core 9).l1State 5 = .i ∧ ((dir 2).core 9).l1State 5 = .i ∧ ((dir 2).core 0).l1State 5 = .s ∧
    (dir 2).waitsHost 0 5 true = false ∧ ((dir 1).core 0).l1State 5 ≠ .i ∧ lineOk (2 ^ 60) = false ∧
    (match (dir 1).l2Line 5 with | some y => y.dst == 2 && y.own == 0 | none => false) = true := by decide +kernel
def host0 : Nat := 2 ^ 41
/-- A line of host memory granted in S. -/
def granted : State := { on core0 with cxl := [(host0, .s)] }
theorem witness_host : isHost (64 * host0) = true ∧ isHost (64 * 5) = false ∧ populated (64 * 5) = true ∧ populated (64 * 2 ^ 36) = false ∧
    (5 ∈ ({ on core0 with binv := [5] } : State).binv) ∧ 5 ∉ (on core0).binv ∧ SMap.get .i (on core0).cxl host0 = .i ∧
    SMap.get .i ((on core0).fillL2 host0 0).cxl host0 = .e ∧ SMap.get .i granted.cxl host0 = .s ∧ lineOk host0 = true ∧
    granted.waitsHost 0 host0 false = false ∧ granted.waitsHost 0 host0 true = true ∧ (granted.fillL2 host0 0).lacksGrant host0 true = true ∧
    (((granted.fillL2 host0 0).l2Line host0).map L2Line.dst) = some 0 ∧ populated (512 * 7) = true ∧ populated (512 * 2 ^ 33) = false := by decide +kernel
def blk : State := { (on core0).setL2 7 { dirty := true, world := 2 } with
  blocks := [(3, some { world := 2, bad := true })], sweeps := [(1, { base := 0, end_ := 4 }), (2, { go := true, ptr := 3, end_ := 4 }), (3, { go := true, pause := true, end_ := 4 })] }
theorem witness_blockRead : l2Room blk (8 * 0) 8 := by
  unfold l2Room
  decide +kernel
theorem witness_blocks : blk.l2Line (8 * 0 + 7) = some { dirty := true, world := 2 } ∧ (blk.sweep 1).go = false ∧ (blk.sweep 1).base < (blk.sweep 1).end_ ∧ (blk.sweep 2).go = true ∧
    (blk.sweep 2).pause = false ∧ (blk.sweep 3).pause = true ∧ (blk.sweep 2).ptr + 1 = (blk.sweep 2).end_ ∧ (blk.sweep 3).ptr + 1 ≠ (blk.sweep 3).end_ ∧
    (∀ i, i < 8 → ∀ l, blk.l2Line (8 * 0 + i) = some l → l.world = 2) ∧ populated (512 * 0) = true ∧ (0x80 : BitVec 8) = BitVec.ofNat 8 (2 ^ 7) := by
  refine ⟨by decide +kernel, by decide +kernel, by decide +kernel, by decide +kernel, by decide +kernel, by decide +kernel, by decide +kernel, by decide +kernel, ?_,
    by decide +kernel, by decide +kernel⟩
  intro i hi l h
  have : ∀ i, i < 8 → (blk.l2Line (8 * 0 + i)).all (fun l => l.world == 2) = true := by decide +kernel
  have := this i hi
  rw [h] at this
  simpa using this
/-- A refresh window at cycle 100, reached and not yet over; a load that reads the store of die 0. -/
def wref (r : Bool) (w : Nat) : State := on { core0 with refresh := r, spr := { core0.spr with wref := BitVec.ofNat 64 w } }
def reading7 : State := on { core0 with arr0 := { ({} : Arr) with ldw := some ⟨{}, 0, 20, [], true, 0⟩ } }
theorem witness_weightStore : ((wref false 100).core 0).refresh = false ∧ 100 % 2 ^ 48 ≤ ((wref false 100).core 0).spr.cyc.toNat ∧ ((wref true 4180).core 0).refresh = true ∧
    ((wref true 4180).core 0).spr.wref.toNat % 2 ^ 48 + 16 ≤ ((wref true 4180).core 0).spr.cyc.toNat + 4096 ∧ (wref false 0).wsReads 0 = false ∧ (wref false 0).wsReads 3 = false ∧
    (wref false 0).wsWriteHeld 3 = false ∧ reading7.wsReads 0 = true := by decide +kernel
/-- A write of the store of die 0 that was held while a load read it. -/
def heldWrite : Cmd := { copy0 with qd := desc 0 1 0 0 0 64, st := .held }
theorem witness_heldWrite : (copying heldWrite).wsReads 0 = false ∧ (heldWrite.cpy.map fun y => (y.ss == .sp, y.ds == .ws)) = some (true, true) ∧
    ((copying heldWrite).core 0).cmds = [heldWrite] ∧ (([heldWrite] : List Cmd).map Cmd.id).Nodup := by decide +kernel

/-- A packet at router 0 for router 24 (two rows on) and one late; the link of port 3 up and down. -/
def pktN (at_ k : Nat) (late : Bool) : Pkt := { hdr := BitVec.ofNat 128 (24 + 2 ^ 18 * k + 2 ^ 22 * 4), at_ := at_, core := 2, body := .access 0 5, late := late, nonmin := 7 }
def net (p : Pkt) (dead : Bool) (peg : Option Nat) : State :=
  { on core0 with pkts := [(4, some p)], pegPkt := peg, links := if dead then [(3, { retired := true })] else [(9, { fails := 3, bucket := 6 }), (10, { fails := 2, exchange := true }), (16391, { training := true })] }
theorem witness_network : (net (pktN 0 9 false) false none).hopOk (pktN 0 9 false) 12 = some false ∧ (net (pktN 0 9 false) false none).hopOk (pktN 0 9 false) 1 = none ∧
    (net (pktN 0 9 true) false none).hopOk (pktN 0 9 true) 1 = some true ∧ (net (pktN 0 9 true) false none).hopOk { pktN 0 9 true with nonmin := 8 } 1 = none ∧ meshPort 0 12 = some 3 ∧
    (net (pktN 0 9 false) true none).linkUp 3 = false ∧ (pktN 0 9 false).at_ ≠ (pktN 0 9 false).dst ∧ (pktN 24 9 false).at_ = (pktN 24 9 false).dst ∧
    ((pktN 0 9 true).hdr.extractLsb' 18 4).toNat < 10 ∧ 10 ≤ ((pktN 0 10 true).hdr.extractLsb' 18 4).toNat ∧ ((pktN 0 9 true).hdr.extractLsb' 22 3).toNat ≤ 4 ∧
    (net (pktN 0 9 true) false none).pkt 4 = some (pktN 0 9 true) ∧ (net (pktN 0 9 true) false none).pkt 5 = none ∧
    (let w := { pktN 0 9 true with wantsPeg := true }
     (net w false none).pkts.find? (fun e => match e.2 with | some p => p.wantsPeg && p.at_ == 0 | none => false) = some (4, some w)) ∧
    (net (pktN 0 9 true) false (some 4)).pegPkt = some 4 := by decide +kernel
/-- Long enough at a router for a non-minimal hop and for the peg; the peg on its way to the router of a packet that asks for it, and lost. -/
def waitingAt (r clock : Nat) : State := { net { pktN r 9 false with wantsPeg := decide (r ≠ 0) } false none with clock := clock }
theorem witness_peg : (pktN 0 9 false).since + 32 ≤ (waitingAt 0 32).clock ∧ (waitingAt 0 31).clock < (pktN 0 9 false).since + 32 ∧
    (pktN 0 9 false).since + (waitingAt 0 1024).sec.conf.pegTimeout ≤ (waitingAt 0 1024).clock ∧ (pktN 0 9 false).wantsPeg = false ∧
    (waitingAt (pegNext 0) 0).pegPkt = none ∧ (waitingAt (pegNext 0) 0).pegHeld = false ∧ (waitingAt (pegNext 0) 0).peg = 0 ∧
    (waitingAt (pegNext 0) 0).pkts.find? (fun e => match e.2 with | some p => p.wantsPeg && p.at_ == pegNext 0 | none => false) =
      some (4, some { pktN (pegNext 0) 9 false with wantsPeg := true }) ∧
    (waitingAt 0 0).pkts.all (fun e => match e.2 with | some p => !p.wantsPeg || p.at_ != pegNext 0 | none => true) = true ∧
    (waitingAt 0 608).pegSeen + 608 ≤ (waitingAt 0 608).clock ∧ (pktN 0 9 false).circ = false ∧ (pktN 0 9 false).at_ / 128 = (pktN 0 9 false).dst / 128 ∧
    (pktN 128 9 false).at_ / 128 ≠ (pktN 128 9 false).dst / 128 ∧ meshPort 128 140 = some 3 ∧ (waitingAt 0 0).linkUp (8 * 0 + 3) = true := by decide +kernel
/-- A mesh link and a fabric port whose exchange is over, with a packet in the burrow lane and without; ports 0 and 1 joined. -/
def exchanged (k : Nat) (peg : Option Nat) : State :=
  { on core0 with
    links := [(k, { retired := true, recompute := true })]
    pegPkt := peg
    sec := { ({} : Sec) with conf := { ({} : Conf) with joined := 1 } } }
theorem witness_recompute : ((exchanged 9 none).link 9).recompute = true ∧ ((exchanged 9 none).link 9).training = false ∧ ((exchanged 9 none).link 9).exchange = false ∧
    (exchanged 9 (some 4)).pegPkt ≠ none ∧ ((exchanged 16391 none).link 16391).recompute = true ∧ (exchanged 9 none).sec.conf.joined.getLsbD (1 / 2) = true ∧
    (exchanged 9 none).sec.conf.joined.getLsbD ((16391 - 16384) / 2) = false := by decide +kernel
/-- A step north of a packet alone; a packet of two data flits on a circuit, whose slot keeps the output from another; a chunk at its destination. -/
def circPkt (gone : Nat) : Pkt := { hdr := BitVec.ofNat 128 (24 + 2 ^ 18 * 1 + 2 ^ 22 * 2 + 2 ^ 27 + 2 ^ 32 * 5), at_ := 0, core := 2, body := .access 0 5, gone := gone }
def circNet (gone : Nat) : State :=
  { on core0 with pkts := [(4, some (circPkt gone))], slotTab := [(0, BitVec.ofNat 32 (0xFFFFF8 + 3))] }
theorem witness_receive : portTo 0 12 = some 3 ∧ (net (pktN 0 9 false) false none).pkts = [(4, some (pktN 0 9 false))] ∧ (net (pktN 0 9 false) false none).pegPkt ≠ some 4 ∧
    (net (pktN 0 9 false) false none).hopOk (pktN 0 9 false) 12 = some false ∧ (net (pktN 0 9 false) false none).onCircuit (pktN 0 9 false) 3 = false ∧
    (12 : Nat) ≠ (pktN 0 9 false).dst ∧ portTo 0 128 = some 6 ∧ (circNet 0).onCircuit (circPkt 0) 3 = true ∧ (circPkt 0).gone < (circPkt 0).nfl ∧ ¬ (circPkt 2).gone < (circPkt 2).nfl ∧
    (circNet 0).hopOk (circPkt 0) 12 = some false ∧ (circNet 0).slotKept (pktN 0 9 false) 3 = true ∧ (circNet 0).slotKept (pktN 0 9 false) 1 = false ∧
    (net (pktN 0 9 false) false none).slotKept (pktN 0 9 false) 3 = false := by decide +kernel
theorem witness_stays : staysInPkts (pktN 0 9 false) := ⟨nofun, nofun⟩
theorem witness_links : let s := net (pktN 0 9 false) false none
    3 ≤ (s.link 9).fails ∧ (s.link 9).retired = false ∧ (s.link 9).training = false ∧ (s.link 9).bucket + 1 < s.sec.conf.budget ∧ (s.link 10).fails < 3 ∧ (s.link 10).exchange = true ∧
    (s.link 16391).training = true ∧ (s.link 9).exchange = false ∧ ¬ 7 + 1 < s.sec.conf.budget ∧ (16384 : Nat) ≤ 16391 := by decide +kernel
/-! ## Fabric, launches, device -/

def connOf (w : Nat) (x : Conn) : Conn := { x with world := w, peer := 3 }
def sentOf (p : Nat) : Sent := ⟨p, 1, 1, .reply p true false []⟩
/-- Connection 2 to package 3 of a world, whose fabric key is in place for world 2: 5 expected next, 7 had. -/
def fabd (x : Conn) : State :=
  { ({ on core0 with npkg := 8, pkg := 1, sec := { ({} : Sec) with worlds := [(2, { fabric := some 5 })] } } : State).setConn 2 x with launches := [(1, some lau)] }
def connA : Conn := { world := 0, peer := 3, hop := true, rx := 5, rxMap := 4, out := [sentOf 6, sentOf 8], gaps := [(6, 2)], lossEnt := 1, losses := 2 }
def slotOfRid (w : Nat) : RSlot :=
  { world := w, rid := 9, chunk := 0, epoch := 1, op := 0, rnd := 0, ofmt := 0, b := 0, ncon := 2, expect := 3, seen := 1, count := 1, root := true, ncin := 0, ndst := 0, lid := 1, els := [] }
theorem witness_transport : (fabd connA).conn 2 = some connA ∧ connA.ordered = false ∧ (fabd connA).conn 5 = none ∧ ((fabd connA).worldRec 2).fabric ≠ none ∧ ((fabd connA).worldRec 3).fabric = none ∧
    2 ^ 31 ≤ (4 + 2 ^ 32 - connA.rx) % 2 ^ 32 ∧ connA.rxMap.getLsbD ((7 + 2 ^ 32 - connA.rx) % 2 ^ 32) = true ∧ 64 ≤ (69 + 2 ^ 32 - connA.rx) % 2 ^ 32 ∧
    (68 + 2 ^ 32 - connA.rx) % 2 ^ 32 < 64 ∧ connA.rxMap.getLsbD 63 = false ∧ (fabd connA).refusesContribution connA (.cts ⟨0, 0, 0, 0, 0⟩ 1) = false ∧
    (fabd connA).peerConn 5 (.reply 1 true false []) = none ∧ (connA.receive 0).rx = 6 := by decide +kernel
theorem witness_setup : carries (.reply 1 true false []) = true ∧ (fabd connA).conn 5 = none ∧ 3 < (fabd connA).npkg ∧ (3 : Nat) ≠ (fabd connA).pkg ∧ (4 : Nat) ≠ (fabd connA).pkg ∧
    ((fabd connA).worldRec 2).fabric ≠ none ∧ ((fabd connA).peerConn 5 (.request ⟨3, 0, 0, .read, 64, 8, [], 0, 0⟩)).isSome = true ∧
    (fabd connA).refusesContribution connA (.tensor ⟨tensorHdr 2 0 0 0 1 0 0 0 9 1 0 0, [], [noEl], [], 1⟩) = true := by decide +kernel
/-- PSN 6 is a hole where 7 and 8 are acknowledged, none where all up to 8 are; the third in a row. -/
theorem witness_acks : connA.queue = [] ∧ connA.out = sentOf 6 :: [sentOf 8] ∧ ({ connA with out := [] } : Conn).out = [] ∧ SMap.get 0 connA.gaps (sentOf 6).psn + 1 = 3 ∧ SMap.get 0 connA.gaps (sentOf 8).psn + 1 ≠ 3 ∧
    ((4 : BitVec 64) >>> ((6 + 2 ^ 32 - 5 - 1) % 2 ^ 32) != 0#64) = true ∧ (8 + 2 ^ 32 - (sentOf 8).psn) % 2 ^ 32 < 2 ^ 31 ∧ connA.losses + 1 = 3 ∧ connA.lossEnt = (sentOf 6).ent := by
  decide +kernel
def fw (t : Nat) : State := (fabd connA).setMarten 3 0 { run := .running, queue := [⟨t, 2, 6, 1, 1⟩] }
theorem witness_firmware : (∀ t ∈ [1, 2, 3, 5, 7], ((fw t).marten 3 0).queue = ⟨t, 2, 6, 1, 1⟩ :: []) ∧ (fw 1).conn 2 = some connA ∧ (fw 7).launch 1 = some lau ∧
    ((fabd connA).marten 3 0).queue = [] := by decide +kernel
def req (k : FabKind) (w addr : Nat) : FabReq := { src := 3, tagId := 4, world := w, kind := k, addr := addr, rows := 8, data := [1, 2, 3, 4, 5, 6, 7, 8], operand := 5, compare := 0 }
def serving (l : List (Nat × FabReq)) : State :=
  { fabd connA with fab := { (fabd connA).fab with serve := l, grants := [(63, BitVec.ofNat 128 (1 + 2 + 4 * 1 + 2 ^ 76 * 16))] }, blocks := [(0, some { world := 1 })] }
def adds : FabKind := .atomic (.aop .add) 8 false false
theorem witness_requests : (∀ r ∈ [req .read 0 64, req .write 1 64, req adds 1 64], (serving [(2, r)]).fab.serve.find? (fun e => e.2 == r) = some (2, r) ∧ populated r.addr = true) ∧
    SMap.get none (serving []).fab.combined (2 ^ 32 * 2 + 4) = none ∧ grantOk ((serving []).grant 63) 1 64 true = true ∧ grantOk ((serving []).grant 63) 2 64 false = false ∧
    (serving []).recorded 1 = 1 ∧ (serving []).recorded (2 ^ 20) = 0 ∧ ((serving []).homeLoad 1 1).linePoison 1 = false ∧ populated (2 ^ 50) = false ∧
    (∀ e ∈ (serving []).fab.serve, e.2 ≠ req adds 1 64) := by decide +kernel
theorem witness_combine : let l := [(2, req adds 1 64), (7, { req adds 1 64 with tagId := 9 })]
    (serving l).fab.serve[0]? = some (2, req adds 1 64) ∧ (serving l).fab.serve[1]? = some (7, { req adds 1 64 with tagId := 9 }) := by decide +kernel

/-- Chunk 0 of reduction 9, epoch 1, one of two contributors heard, and a contribution of it. -/
def contrib (epoch cin : Nat) : TensorPkt := ⟨tensorHdr 2 0 0 0 epoch 0 0 0 9 cin 0 0, [], List.replicate 4 noEl, [], 1⟩
def red (d : TDest) (p : TensorPkt) (r : Option RSlot) (c : Core) : State :=
  { on c with fab := { ({} : Fabric) with slots := [(0, r)], tens := [⟨d, p, .none, 1, false⟩] } }
theorem witness_reductions : let p := contrib 1 1
    let s := red (.contribution none) p (some (slotOfRid 0)) core0
    s.fab.tens.find? (fun t => t.dest == .contribution none && t.p == p) = some ⟨.contribution none, p, .none, 1, false⟩ ∧ s.epochOf p.world p.rid p.chunk ≤ p.epoch ∧
    s.slotOf p.world p.rid p.chunk = some (0, slotOfRid 0) ∧ p.epoch = (slotOfRid 0).epoch ∧ (slotOfRid 0).seen.getLsbD p.cin = false ∧ (slotOfRid 0).seen.getLsbD (contrib 1 0).cin = true ∧
    (slotOfRid 0).seen ||| 2 = (slotOfRid 0).expect ∧ ¬ SMap.get 0 (slotOfRid 0).got p.cin + (p.els.length + 3) / 4 < p.total ∧
    SMap.get 0 (slotOfRid 0).got p.cin + (p.els.length + 3) / 4 < { p with total := 2 }.total ∧ ({ s with fab := { s.fab with slots := [] } } : State).slotOf p.world p.rid p.chunk = none ∧ (red (.contribution none) p none core0).slotOf 0 9 0 = none ∧ SMap.get none s.fab.slots 0 = some (slotOfRid 0) ∧
    SMap.get none s.fab.slots 1 = none ∧ (∀ t ∈ s.fab.tens, t.dest ≠ .contribution (some 1) ∨ t.p ≠ p) := by decide +kernel
theorem witness_lost : let p := contrib 0 0
    let s := red (.result 0) p none core0
    s.fab.tens.find? (fun t => t.dest == .result 0 && t.p == p) = some ⟨.result 0, p, .none, 1, false⟩ ∧ s.lineOf (s.core 0).lid = false ∧ (s.core 0).spr.world.toNat = p.world ∧
    (s.core 0).resultFor p = none ∧ ({ s with launches := [(1, some { lau with line := true })] } : State).lineOf 1 = true ∧
    (red (.mcast (4096 * 2 + 5)) p none core0).fab.tens.find? (fun t => t.dest == .mcast (4096 * 2 + 5) && t.p == p) = some ⟨.mcast (4096 * 2 + 5), p, .none, 1, false⟩ ∧
    p.epoch < ({ s with fab := { s.fab with epochs := [(epochKey 0 9 0, some (1, 1))] } } : State).epochOf 0 9 0 := by decide +kernel
/-- An e.coll of core 0 for 64 elements of reduction 9 that waits for its result. -/
def collCmd : Cmd :=
  { id := 1, i := .eColl 1 64 .none ⟨false, false, .pkg⟩ 0 0, qs := 0, qd := 0, a := 9, b := 0, c := 0, handler := false, taken := [1], st := .fabric 1, poison := false, lid := 1 }
theorem witness_result : let c := { core0 with cmds := [collCmd], handles := [(1, { rows := 4, st := 3 })] }
    let p : TensorPkt := ⟨tensorHdr 5 0 0 3 0 0 0 0 (collOf 9 0 .none).rid 0 0 0, [], [], [], 1⟩
    (c.resultFor p).isSome = true ∧ p.tck ≠ 6 ∧ (red (.result 0) p none c).lineHolds collCmd = false ∧
    ({ red (.result 0) p none c with launches := [(1, some { lau with line := true })] } : State).lineHolds collCmd = true ∧ c.spr.world.toNat = p.world ∧
    (red (.result 0) p none c).fab.tens.find? (fun t => t.dest == .result 0 && t.p == p) = some ⟨.result 0, p, .none, 1, false⟩ := by decide +kernel

/-- A step of slot 1 of unit 2: kind, its rows, its partners' announcements. -/
def stepK (kind : Nat) (cts peer : Option Nat) (got acked : List Nat) : StepOp :=
  { step0 with kind := kind, id := 0, rid := 9, step := 5, rows := 2, from_ := 0, to_ := 2, cts := cts, peer := peer, got := got, acked := acked, dar := .none }
def steppingAs (run : MRun) (t : StepOp) : State :=
  let x := { kslot 64 2 with run := run, steps := [t] }
  { kst x with fab := { ({} : Fabric) with ctsIn := [(t.sendKey x, 2), (t.recvKey x, 65536 + 2)], rowsIn := [(t.recvKey x, 1, false, 7), (t.recvKey x, 2, false, 7)] } }
def slotX (run : MRun) (t : StepOp) : MSlot := { kslot 64 2 with run := run, steps := [t] }
def found (t : StepOp) (r : Bool) : Bool :=
  let x := slotX .running t
  let s := steppingAs .running t
  (if r then s.findStep (fun y u => u.receives && u.recvKey y == t.recvKey x && u.peer.isNone) else s.findStep (fun y u => u.sends && u.sendKey y == t.sendKey x && u.cts.isNone)) == some (2, 1, t)
theorem witness_steps : found (stepK 0 none none [] []) false = true ∧ found (stepK 1 none none [] []) true = true ∧ found (stepK 2 none none [] []) true = true ∧
    (steppingAs .running (stepK 1 none none [] [])).marten 2 1 = slotX .running (stepK 1 none none [] []) ∧
    ((stepK 1 none none [] []).recvKey (slotX .running (stepK 1 none none [] [])), 1, false, 7) ∈ (steppingAs .running (stepK 1 none none [] [])).fab.rowsIn ∧
    (2 : Nat) ≤ 2 ∧ 1 < (stepK 1 none none [] []).rows ∧ (stepK 2 none none [] []).cts = none ∧ (stepK 2 (some 2) none [] []).dar = .none ∧ 1 ∈ (stepK 1 none none [1] []).got ∧
    (slotX .running (stepK 1 none none [] [])).step 0 = some (stepK 1 none none [] []) ∧ (slotX .running (stepK 1 none none [] [])).lid = 1 ∧
    (steppingAs .running (stepK 1 none none [] [])).lineOf 1 = false ∧ (stepK 1 none none [] []).late = [] ∧
    ({ steppingAs .running (stepK 1 none none [] []) with launches := [(1, some { lau with line := true })] } : State).lineOf 1 = true := by decide +kernel
theorem witness_stepDone : let s := steppingAs .running (stepK 1 none (some 2) [0, 1] [0, 1])
    s.stepDone (slotX .running (stepK 1 none (some 2) [0, 1] [0, 1])) (stepK 1 none (some 2) [0, 1] [0, 1]) = some none ∧
    s.stepDone (slotX .running (stepK 1 none none [] [])) (stepK 1 none none [] []) = none ∧
    s.stepDone (slotX .running { stepK 1 none none [] [] with err := some 3 }) { stepK 1 none none [] [] with err := some 3 } = some (some 3) := by decide +kernel

/-- Image 1 with one empty task, for world 0; a record of a launch of 4 x 2 tiles: partition, priority, waits. -/
def image1 : Image := { tasks := [{}], mcore := [], hasMcore := false, world := 0, digest := 0 }
def rcdOf (sp prio w1 q1 : Nat) : BitVec 1024 := BitVec.ofNat 1024 (1 + 2 ^ 48 * prio + 2 ^ 64 * sp + 2 ^ 88 * 0x10 + 2 ^ 256 * w1 + 2 ^ 320 * q1)
def sched0 (q : List (Nat × Queue)) (l : List (Nat × Option Launch)) : State :=
  { paged {} 579 with sec := { ({} : Sec) with images := [(1, some image1)] }, queues := q, launches := l }
def recBytes (r : BitVec 1024) : List Byte := leBytes 128 r.toNat
/-- A record taken, one with a partition too large, one of another world, one whose block cannot be written (no page). -/
theorem witness_records : (recBytes (rcdOf 360448 4 0 0)).length = 128 ∧ (BitVec.ofNat 1024 (leNat (recBytes (rcdOf 5 4 64 9)))) = rcdOf 5 4 64 9 ∧
    let s := sched0 [(0, { qen := true })] []
    (s.queue 0).qen = true ∧ (s.queue 1).qen = false ∧ (s.queue 0).items.length < 64 ∧ s.takeLid.refusal (parseRcd (rcdOf 360448 4 0 0)) false = none ∧
    s.takeLid.refusal (parseRcd (rcdOf 360449 4 0 0)) false = some 1 ∧ (parseRcd (rcdOf 5 4 64 9)).fieldsOk = true ∧ (s.takeLid.taskOf 1 0).isSome = true ∧
    (parseRcd (rcdOf 5 4 0 0)).done % 64 = 0 ∧ s.takeLid.blockOk (parseRcd (rcdOf 5 4 0 0)) = true ∧ ({} : State).blockOk (parseRcd (rcdOf 5 4 0 0)) = false ∧
    (parseRcd (rcdOf 5 4 0 0)).taskFits { ({} : TaskImage) with circuits := [⟨0, 0, 0, 15, 0, 1⟩] } = false ∧
    (parseRcd (rcdOf 5 4 64 9 + BitVec.ofNat 1024 (2 ^ 56 * 15))).world ≠ (s.queue 0).qworld ∧ 64 ≤ (List.replicate 64 ()).length := by decide +kernel
def item (prio w1 q1 pass : Nat) : QItem := { rcd := rcdOf 5 prio w1 q1, lid := 7, ep := prio, met0 := true, met1 := w1 == 0, pass := pass }
/-- Queues 0 and 31 have ready heads, one passed over 63 times; a head that waits for the word at 64. -/
def sched2 : State := sched0 [(0, { qen := true, items := [item 4 0 0 0] }), (31, { qen := true, items := [item 3 0 0 63] })] []
theorem witness_dispatch : sched2.readyQueues = 0 :: [31] ∧ (sched2.queue 0).items = item 4 0 0 0 :: [] ∧ (item 4 0 0 0).resume = false ∧
    sched2.refusal (parseRcd (item 4 0 0 0).rcd) false = none ∧ ((parseRcd (item 4 0 0 0).rcd).places sched2.clusterFree).isSome = true ∧ sched2.wantsMartens 1 = false ∧
    (item 4 64 9 0).ready = false ∧ (item 4 64 9 0).met0 = true ∧ (sched0 [(0, { items := [item 4 64 9 0] })] []).readyQueues = [] ∧
    (sched0 [] []).schedLoc 0 0x10000 64 false = some (.mem 64 false) ∧ sched2.launches = [] ∧
    (let s := sched0 [(0, { items := [item 4 64 9 0] })] []
     let r := parseRcd (item 4 64 9 0).rcd
     (s.walkReads r.world r.root [r.w1]).schedLoc r.world r.root r.w1 false = some (.mem 64 false)) ∧ sched2.endedPrograms = [] ∧ sched2.retryStarts = sched2 := by decide +kernel
/-- A third run due before a head of its priority, and with no head ready; a pre-empted launch at the head, its cluster switched out, that has places to come back to. -/
def thirdDue (q : List (Nat × Queue)) : State := sched0 q [(1, some { lau with third := true, ep := 7, rcd := rcdOf 5 4 0 0, finished := true })]
def backAgain : State :=
  sched0 [(0, { qen := true, items := [{ item 4 0 0 0 with resume := true }] })] [(7, some { lau with lid := 7, clusters := [[32, 33]], preempted := true })]
theorem witness_thirds : ((thirdDue [(0, { qen := true, items := [item 4 0 0 0] })]).thirds 4).findSome? (thirdDue [(0, { qen := true, items := [item 4 0 0 0] })]).thirdRun ≠ none ∧
    (thirdDue [(0, { qen := true, items := [item 4 0 0 0] })]).readyQueues = 0 :: [] ∧ (thirdDue []).readyQueues = [] ∧ (thirdDue []).retryStarts = thirdDue [] ∧
    (thirdDue []).endedPrograms = [] ∧ (thirdDue [(0, { qen := true, items := [item 4 0 0 0] })]).retryStarts = thirdDue [(0, { qen := true, items := [item 4 0 0 0] })] ∧
    (thirdDue [(0, { qen := true, items := [item 4 0 0 0] })]).endedPrograms = [] := by decide +kernel
theorem witness_resume : backAgain.readyQueues = 0 :: [] ∧ ((backAgain.popHead 0).resumeLaunch 7 4).isSome = true ∧ backAgain.endedPrograms = [] ∧ backAgain.retryStarts = backAgain ∧
    backAgain.launches.all (fun e => match e.2 with | some v => v.leaving.isEmpty && !v.third | none => true) = true := by decide +kernel
/-- Every cluster taken by launches of priority 0; a head of priority 4 of a queue with a pool. -/
def full : State :=
  sched0 [(0, { qen := true, qsave := 4096, items := [item 4 0 0 0] })]
    ((List.range 32).map fun k => (k + 1, some { lau with lid := k + 1, w := 4, h := 2, clusters := [[k]], ep := 0, order := k }))
theorem witness_preempt : full.readyQueues = 0 :: [] ∧ (parseRcd (item 4 0 0 0).rcd).places full.clusterFree = none ∧ (full.queue 0).qsave ≠ 0 ∧
    (match full.preemptPlan (full.needsPlaces (parseRcd (item 4 0 0 0).rcd)) (full.victims 4) with
     | some (cs, vs) => full.poolRoom 4096 cs.length && vs.length == 1 | none => false) = true ∧ full.refusal (parseRcd (item 4 0 0 0).rcd) false = none ∧
    full.preempting 7 = false ∧ full.endedPrograms = [] ∧ full.retryStarts = full ∧ full.wantsMartens 1 = false ∧
    full.launches.all (fun e => match e.2 with | some v => v.leaving.isEmpty && !v.third | none => true) = true := by decide +kernel
theorem witness_dispatch_refused : let s := sched0 [(0, { qen := true, qworld := 1, items := [item 4 0 0 0] })] []
    s.readyQueues = 0 :: [] ∧ s.refusal (parseRcd (item 4 0 0 0).rcd) false = some 4 := by decide +kernel

/-- A launch whose tasks have all ended, alone or paired. -/
def lauOver (rel : Bool) (pair : Bool) : Launch :=
  { lau with clusters := if pair then [[0], [1]] else [[0]], ended := (List.range 8) ++ (if pair then (List.range 8).map (· + 256) else []), finished := true, released := rel
             rcd := if pair then BitVec.ofNat 1024 (2 ^ 24) else 0 }
def ending (l : Launch) : State := { launches := [(1, some l)] }
theorem witness_release : (ending (lauOver false false)).launch 1 = some (lauOver false false) ∧ (ending lau).launch 2 = none ∧ (ending (lauOver false false)).allEnded (lauOver false false) = true ∧
    (ending (lauOver false false)).remoteDone (lauOver false false) = true ∧ (lauOver false false).rcd.getLsbD 24 = false ∧ (lauOver false true).rcd.getLsbD 24 = true ∧
    (ending (lauOver false true)).allEnded (lauOver false true) = true ∧ ((ending (lauOver false true)).keepSigs (lauOver false true)).outcome = some 0 ∧
    (ending lau).allEnded lau = false ∧ (lauOver true false).released = true ∧ (lauOver true false).finished = true ∧ (ending (lauOver true false)).workDone 1 = true ∧ lau.released = false ∧
    lau.third = false ∧ lau.endc = 0 ∧ (lauOver false true).clusters.length = 2 := by decide +kernel
theorem witness_defect : (ending lau).clusterOff 31 = false ∧ (ending lau).holderOf 0 = some lau ∧ (ending lau).holderOf 31 = none ∧ ((ending lau).sister 3).spare ≠ 15 ∧
    ({ ending lau with sisters := [(0, { spare := 15, off := 1, phys := [15, 1, 2, 3, 4, 5, 6, 7] })] } : State).clusterOff 0 = true ∧
    ({ ending lau with sisters := [(0, { spare := 15 })] } : State).holderOf 0 = some lau ∧ lau.finished = false ∧
    (let l := { lau with line := true, defect := some 0 }
     let s : State := { on core0 with launches := [(1, some l)], defects := [0] }
     s.canLeave 1 0 = false ∧ (ending l).canLeave 1 0 = true) := by decide +kernel

/-! ### A signature that verifies: any one of the right types does under the key it leads to (RFC 8554) -/

def lmsPart : List Byte := beBytes 4 0 ++ beBytes 4 3 ++ List.replicate 2176 0 ++ beBytes 4 6 ++ List.replicate 320 0
def lmsId : List Byte := List.replicate 16 0
def lmsRootOf (msg : List Byte) : List Byte :=
  lmsRoot lmsId 1024 (lmsPart.drop 2188) (sha256Bytes (lmsId ++ beBytes 4 1024 ++ beBytes 2 0x8282 ++ (lmotsKey lmsId 0 ((lmsPart.drop 4).take 2180) msg).getD []))
def lmsKeyOf (msg : List Byte) : List Byte := beBytes 4 6 ++ (beBytes 4 3 ++ (lmsId ++ lmsRootOf msg))

theorem shaTurn_length (k : BitVec 32) (v : List (BitVec 32)) (h : v.length = 8) : (shaTurn k v).length = 8 := by simp [shaTurn, h]
theorem shaRounds_length (ks w v : List (BitVec 32)) (h : v.length = 8) : (shaRounds ks w v).length = 8 := by
  induction ks generalizing w v with
  | nil => exact h
  | cons k ks ih => exact ih _ _ (shaTurn_length _ _ h)
theorem shaBlocks_length (n : Nat) (b : List Byte) (v : List (BitVec 32)) (h : v.length = 8) : (shaBlocks n b v).length = 8 := by
  induction n generalizing b v with
  | zero => exact h
  | succ n ih => exact ih _ _ (by simp [shaBlock, shaRounds_length _ _ _ h, h])
theorem sha_length (m : List Byte) : (sha256Bytes m).length = 32 := by
  simp only [sha256Bytes, beBytes, List.length_flatMap, List.length_map, List.length_range, List.map_const', List.sum_replicate_nat,
    shaBlocks_length _ _ _ (show shaSquare.length = 8 by decide +kernel)]
theorem root_length (msg : List Byte) : (lmsRootOf msg).length = 32 := by
  have h : ∀ (l : List Nat) (up : Nat → List Byte) (part : Nat → List Byte) (acc : Nat × List Byte), acc.2.length = 32 →
      ((l.foldl (fun (acc : Nat × List Byte) i =>
        (acc.1 / 2, sha256Bytes (if acc.1 % 2 = 1 then up acc.1 ++ part i ++ acc.2 else up acc.1 ++ acc.2 ++ part i))) acc).2).length = 32 := by
    intro l up part
    induction l with
    | nil => exact fun acc h => h
    | cons i l ih => exact fun acc _ => ih _ (sha_length _)
  exact h (List.range 10) (fun k => lmsId ++ beBytes 4 (k / 2) ++ beBytes 2 0x8383) (fun i => ((lmsPart.drop 2188).drop (32 * i)).take 32) _ (sha_length _)

theorem bytes_length (n k : Nat) : (beBytes n k).length = n := by simp [beBytes]
theorem ots_some (id msg : List Byte) (q : Nat) : ∃ k, lmotsKey id q ((lmsPart.drop 4).take 2180) msg = some k := by
  unfold lmotsKey
  rw [if_neg (by decide +kernel)]
  exact ⟨_, rfl⟩
theorem part_leaf : beNat (lmsPart.take 4) = 0 := by decide +kernel
theorem part_type : beNat ((lmsPart.drop 2184).take 4) = 6 := by decide +kernel
theorem key_id (msg : List Byte) : ((lmsKeyOf msg).drop 8).take 16 = lmsId := by
  simp [lmsKeyOf, List.drop_append, List.take_append, bytes_length, lmsId]
theorem key_type (msg : List Byte) : (lmsKeyOf msg).take 4 = beBytes 4 6 := by simp [lmsKeyOf, List.take_append, bytes_length]
theorem key_ots_type (msg : List Byte) : ((lmsKeyOf msg).drop 4).take 4 = beBytes 4 3 := by simp [lmsKeyOf, List.drop_append, List.take_append, bytes_length]
theorem key_root (msg : List Byte) : (lmsKeyOf msg).drop 24 = lmsRootOf msg := by
  unfold lmsKeyOf
  rw [← List.append_assoc, ← List.append_assoc]
  exact List.drop_left' (by decide +kernel)
theorem root_of_ots (msg k : List Byte) (hk : lmotsKey lmsId 0 ((lmsPart.drop 4).take 2180) msg = some k) : lmsRoot lmsId 1024 (lmsPart.drop 2188) (sha256Bytes (lmsId ++ beBytes 4 1024 ++ beBytes 2 0x8282 ++ k)) = lmsRootOf msg := by
    rw [lmsRootOf, hk, Option.getD_some]
theorem lms_verifies (msg : List Byte) : lmsVerify (lmsKeyOf msg) msg lmsPart = true := by
  obtain ⟨k, hk⟩ := ots_some lmsId msg 0
  have h8 : beNat (beBytes 4 6) = 6 := by decide +kernel
  have h9 : beNat (beBytes 4 3) = 3 := by decide +kernel
  simp only [lmsVerify, key_id, key_type, key_ots_type, key_root, part_leaf, part_type, hk, h8, h9, root_of_ots msg k hk, Nat.add_zero, lmsType, lmotsType, beq_self_eq_true, Bool.and_self, decide_true,
    Nat.zero_lt_succ]

def sigOver (msg : List Byte) : List Byte := beBytes 4 1 ++ (lmsPart ++ (lmsKeyOf msg ++ lmsPart))
def ownerOver (msg : List Byte) : List Byte := beBytes 4 2 ++ lmsKeyOf (lmsKeyOf msg)
theorem key_length (msg : List Byte) : (lmsKeyOf msg).length = 56 := by simp [lmsKeyOf, beBytes, lmsId, root_length]
theorem part_length : lmsPart.length = 2508 := by decide +kernel
theorem hss_verifies (msg : List Byte) : hssVerify (ownerOver msg) msg (sigOver msg) = true ∧ (sigOver msg).length = 5076 ∧ hssIndex (sigOver msg) = 0 := by
  have hl : ∀ n k, (beBytes n k).length = n := fun n k => by simp [beBytes]
  have h1 : ((sigOver msg).drop 4).take 2508 = lmsPart := by
    simp [sigOver, List.drop_append, List.take_append, hl, part_length, key_length]
  have h2 : ((sigOver msg).drop 2512).take 56 = lmsKeyOf msg := by
    simp [sigOver, List.drop_append, List.take_append, hl, part_length, key_length]
  have h3 : (sigOver msg).drop 2568 = lmsPart := by
    simp [sigOver, List.drop_append, List.drop_of_length_le, hl, part_length, key_length]
  have h4 : (ownerOver msg).drop 4 = lmsKeyOf (lmsKeyOf msg) := by simp [ownerOver, List.drop_append, List.drop_of_length_le, hl]
  have h5 : (sigOver msg).length = 5076 := by simp [sigOver, hl, part_length, key_length]
  have h6 : (ownerOver msg).take 4 = beBytes 4 2 := by simp [ownerOver, List.take_append, hl]
  have h7 : (sigOver msg).take 4 = beBytes 4 1 := by simp [sigOver, List.take_append, hl]
  have h8 : beNat (beBytes 4 2) = 2 ∧ beNat (beBytes 4 1) = 1 ∧ beNat (lmsPart.take 4) = 0 := by decide +kernel
  have h9 : (ownerOver msg).length = 60 := by simp [ownerOver, hl, key_length]
  have h0 : ((sigOver msg).drop 4).take 4 = lmsPart.take 4 := by simp [sigOver, List.drop_append, List.take_append, hl, part_length]
  refine ⟨?_, h5, ?_⟩
  · simp [hssVerify, h1, h2, h3, h4, h5, h6, h7, h8, h9, lms_verifies]
  · simp [hssIndex, h0, h3, h8]

def page0 (o : Nat) : State := { ({} : State) with sec := { ({} : Sec) with cmd := some (o, 2) } }
/-- World 2 belongs to the key under which the signature at offset `at_` of the argument page verifies over the n bytes before it. -/
def signedPage (o n at_ : Nat) (keys : List (List Byte × Nat)) : State :=
  let m := (page0 o).argBytes 0 n
  { (page0 o).storeBytes at_ (sigOver m) with sec :=
    { (page0 o).sec with worlds := [(2, { isOpen := true, owner := ownerOver m })], conf := { ({} : Conf) with keys := keys } } }
theorem byte_sec (s : State) (x : Sec) (p : Nat) : ({ s with sec := x } : State).byte p = s.byte p := rfl
theorem signed_byte (o n at_ p : Nat) (keys : List (List Byte × Nat)) : (signedPage o n at_ keys).byte p =
    if h : at_ ≤ p ∧ p - at_ < (sigOver ((page0 o).argBytes 0 n)).length then (sigOver ((page0 o).argBytes 0 n))[p - at_] else (page0 o).byte p := by
  rw [signedPage, byte_sec, byte_storeBytes]
/-- Nothing cached, no block written: no line fails a check. -/
theorem homePoison_clean (s : State) (line : Nat) (h : s.l2 = []) (hb : s.blocks = []) (hf : s.freshBad = false) : s.homePoison line 0 = false := by
  simp [State.homePoison, State.l2Line, State.hbmPoison, State.blockFails, State.block, h, hb, hf]
theorem argBytes_eq (s : State) (o n : Nat) (h : s.sec.sparg = 0) (hl : s.l2 = []) (hb : s.blocks = []) (hf : s.freshBad = false) :
    s.argBytes o n = (List.range n).map fun i => s.byte (o + i) := by
  simp [State.argBytes, State.secBytes, homePoison_clean s _ hl hb hf, h]
theorem storeBytes_caches (l : List Byte) (s : State) (a : Nat) :
    (s.storeBytes a l).l2 = s.l2 ∧ (s.storeBytes a l).blocks = s.blocks ∧ (s.storeBytes a l).freshBad = s.freshBad := by
  induction l generalizing s a with
  | nil => exact ⟨rfl, rfl, rfl⟩
  | cons b l ih => exact ih _ _
theorem caches_sec (s : State) (x : Sec) : ({ s with sec := x } : State).l2 = s.l2 ∧ ({ s with sec := x } : State).blocks = s.blocks ∧
    ({ s with sec := x } : State).freshBad = s.freshBad := ⟨rfl, rfl, rfl⟩
theorem signed_caches (o n at_ : Nat) (keys : List (List Byte × Nat)) :
    (signedPage o n at_ keys).l2 = [] ∧ (signedPage o n at_ keys).blocks = [] ∧ (signedPage o n at_ keys).freshBad = false := by
  obtain ⟨a, b, c⟩ := storeBytes_caches (sigOver ((page0 o).argBytes 0 n)) (page0 o) at_
  rw [signedPage, (caches_sec _ _).1, (caches_sec _ _).2.1, (caches_sec _ _).2.2, a, b, c]
  exact ⟨rfl, rfl, rfl⟩
/-- CONFIG with an image that is the page itself, signed under a firmware key the configuration in effect trusts: of version 0, with no key of its own. -/
def confBase : State := (page0 1).storeNat 8 8 5108
def confPage : State :=
  let m := confBase.secBytes 0 32
  { confBase.storeBytes 32 (sigOver m) with sec := { confBase.sec with cmd := some (1, 0), conf := { ({} : Conf) with fwKeys := [(ownerOver m, 1)] } } }
theorem conf_byte (p : Nat) : confPage.byte p =
    if h : 32 ≤ p ∧ p - 32 < (sigOver (confBase.secBytes 0 32)).length then (sigOver (confBase.secBytes 0 32))[p - 32] else confBase.byte p := by
  rw [confPage, byte_sec, byte_storeBytes]
theorem conf_caches : confPage.l2 = [] ∧ confPage.blocks = [] ∧ confPage.freshBad = false := by
  obtain ⟨a, b, c⟩ := storeBytes_caches (sigOver (confBase.secBytes 0 32)) confBase 32
  rw [confPage, (caches_sec _ _).1, (caches_sec _ _).2.1, (caches_sec _ _).2.2, a, b, c]
  exact ⟨rfl, rfl, rfl⟩
theorem secBytes_eq (s : State) (a n : Nat) (hl : s.l2 = []) (hb : s.blocks = []) (hf : s.freshBad = false) :
    s.secBytes a n = (List.range n).map fun i => s.byte (a + i) := by
  simp [State.secBytes, homePoison_clean s _ hl hb hf]
theorem conf_low (o n : Nat) (h : o + n ≤ 32) : confPage.secBytes o n = confBase.secBytes o n := by
  obtain ⟨c1, c2, c3⟩ := conf_caches
  rw [secBytes_eq _ _ _ c1 c2 c3, secBytes_eq confBase _ _ rfl rfl rfl]
  refine List.map_congr_left fun i hi => ?_
  rw [List.mem_range] at hi
  rw [conf_byte, dif_neg (by omega)]
theorem witness_config : confPage.sec.cmd = some (1, 0) ∧ confPage.argNat 0 8 = 0 ∧ confPage.argNat 8 8 = 5108 ∧
    (let b := confPage.secBytes 0 32
     let sig := confPage.secBytes 32 5076
     hssVerify (ownerOver b) b sig = true ∧ confPage.sec.conf.fwKeys = [(ownerOver b, 1)] ∧ ¬ 1 ≤ hssIndex sig ∧ confIdentity b = none ∧
       ¬ (confFrom b).version < confPage.sec.confVersion) := by
  have h0 : confPage.sec.sparg = 0 := rfl
  have h1 : confPage.secBytes 0 32 = confBase.secBytes 0 32 := conf_low 0 32 (by omega)
  have h2 : confPage.secBytes 32 5076 = sigOver (confBase.secBytes 0 32) := by
    obtain ⟨c1, c2, c3⟩ := conf_caches
    have hn := (hss_verifies (confBase.secBytes 0 32)).2.1
    rw [secBytes_eq _ _ _ c1 c2 c3]
    generalize hk : 5076 = k at hn ⊢
    refine List.ext_getElem (by rw [hn, List.length_map, List.length_range]) fun i h1 h2 => ?_
    rw [List.getElem_map, List.getElem_range, conf_byte, dif_pos ⟨by omega, by omega⟩]
    simp only [Nat.add_sub_cancel_left]
  obtain ⟨hv, -, hi⟩ := hss_verifies (confBase.secBytes 0 32)
  refine ⟨rfl, ?_, ?_, ?_⟩
  · rw [State.argNat, State.argBytes, h0, conf_low _ _ (by omega)]
    decide +kernel
  · rw [State.argNat, State.argBytes, h0, conf_low _ _ (by omega)]
    decide +kernel
  · refine ⟨by rw [h1, h2]; exact hv, by rw [h1]; rfl, by rw [h2, hi]; omega, ?_, ?_⟩ <;> rw [h1] <;> decide +kernel
/-- KEYLOAD and TOKEN on such pages, with the key's limit passed and not. -/
theorem witness_signed (o n at_ : Nat) (keys : List (List Byte × Nat)) (h : n ≤ at_) :
    (signedPage o n at_ keys).sec.cmd = some (o, 2) ∧ ((signedPage o n at_ keys).worldRec 2).isOpen = true ∧
    hssVerify ((signedPage o n at_ keys).worldRec 2).owner ((signedPage o n at_ keys).argBytes 0 n) ((signedPage o n at_ keys).argBytes at_ 5076) = true ∧
    hssIndex ((signedPage o n at_ keys).argBytes at_ 5076) = 0 ∧ (signedPage o n at_ keys).sec.conf.keys = keys := by
  obtain ⟨hv, hn, hi⟩ := hss_verifies ((page0 o).argBytes 0 n)
  have h1 : (signedPage o n at_ keys).argBytes 0 n = (page0 o).argBytes 0 n := by
    obtain ⟨c1, c2, c3⟩ := signed_caches o n at_ keys
    rw [argBytes_eq _ _ _ rfl c1 c2 c3, argBytes_eq _ _ _ rfl rfl rfl rfl]
    refine List.map_congr_left fun i hi => ?_
    rw [List.mem_range] at hi
    rw [signed_byte, dif_neg (by omega)]
  have h2 : (signedPage o n at_ keys).argBytes at_ 5076 = sigOver ((page0 o).argBytes 0 n) := by
    obtain ⟨c1, c2, c3⟩ := signed_caches o n at_ keys
    rw [argBytes_eq _ _ _ rfl c1 c2 c3]
    generalize hk : 5076 = k at hn ⊢
    refine List.ext_getElem (by rw [hn, List.length_map, List.length_range]) fun i h1 h2 => ?_
    rw [List.getElem_map, List.getElem_range, signed_byte, dif_pos ⟨by omega, by omega⟩]
    simp only [Nat.add_sub_cancel_left]
  exact ⟨rfl, rfl, by rw [h1, h2]; exact hv, by rw [h2]; exact hi, rfl⟩
theorem witness_signed_commands : (124 : Nat) ≤ 128 ∧ (38 : Nat) ≤ 64 ∧
    (let m := (page0 3).argBytes 0 124
     (signedPage 3 124 128 [(ownerOver m, 0)]).sec.conf.keys.any (fun k => k.1 == ownerOver m && k.2 ≤ 0) = true) :=
  ⟨by decide, by decide, by simp [signedPage]⟩

/-- The security processor with a command for a world and an argument page at 0; world 2 open, world 3 with tokens. -/
def secd (o w : Nat) (page : List (Nat × Nat)) : State :=
  page.foldl (fun s e => s.storeNat e.1 8 e.2) { ({} : State) with sec := { ({} : Sec) with cmd := some (o, w), worlds := [(2, { isOpen := true })], images := [(1, some image1)] } }
theorem witness_worldCommands : (secd 2 3 []).sec.cmd = some (2, 3) ∧ ((secd 2 3 []).worldRec 3).isOpen = false ∧ ((secd 3 2 []).worldRec 2).isOpen = true ∧ (secd 3 2 [(48, 1)]).argNat 48 1 = 1 ∧
    (secd 3 2 []).argNat 48 1 = 0 ∧ (secd 3 2 [(48, 2)]).argNat 48 1 = 2 ∧ (secd 4 2 []).launches = [] ∧ (secd 4 2 []).queues = [] ∧ (2 : Nat) ≠ 0 ∧
    (secd 5 2 [(32, 2 ^ 8)]).argNat 33 1 = 1 ∧ (secd 3 2 []).worldOpen 2 = true ∧ (secd 3 3 []).worldOpen 3 = false ∧ (secd 3 0 []).worldOpen 0 = true := by decide +kernel
/-- A token for this device, whose identity key a configuration image has installed, and its version. -/
def tokenPage : State :=
  let s := { secd 5 2 [(33, 1)] with sec := { (secd 5 2 []).sec with identity := some [] } }
  (s.storeBytes 1 (leBytes 32 s.identityDigest.toNat)).storeNat 0 1 2
theorem witness_token : tokenPage.argNat 0 1 = 2 ∧ tokenPage.argNat 1 32 = tokenPage.identityDigest.toNat ∧ tokenPage.argNat 33 1 = 1 ∧
    tokenPage.argNat 34 4 = tokenPage.sec.confVersion := by decide +kernel
/-- Blocks 0 to 1 of controller 0; a range of no block everywhere else. -/
theorem witness_rekey : (secd 7 2 [(8, 512)]).worldOpen 2 = true ∧ ((secd 7 2 [(8, 512)]).worldRec 2).newKey = none ∧ ((secd 7 2 [(8, 512)]).sweep 0).go = false ∧
    (∀ j, j < 16 → (j = 0 ↔ (secd 7 2 [(8, 512)]).argNat (16 * j) 8 / 512 < (secd 7 2 [(8, 512)]).argNat (16 * j + 8) 8 / 512)) ∧ blockCtl 0 = 0 ∧
    (secd 7 3 []).worldOpen 3 = false := by decide +kernel
theorem witness_imageCommands : (secd 1 0 [(8, 5075)]).argNat 8 8 < 5076 ∧ ¬ (secd 1 0 [(8, 5076)]).argNat 8 8 < 5076 ∧ (secd 6 2 []).sec.index < 2 ^ 20 ∧
    2 ^ 20 ≤ ({ secd 6 2 [] with sec := { (secd 6 2 []).sec with index := 2 ^ 20 } } : State).sec.index ∧ (secd 10 0 [(24, 2 ^ 40 * 3)]).argNat 29 1 = 3 ∧
    (secd 10 0 [(0, 64), (8, 64)]).argNat 0 8 % 64 = 0 ∧ (secd 10 0 [(0, 8)]).argNat 0 8 % 64 ≠ 0 ∧ (secd 10 0 [(24, 2 ^ 40 * 3)]).argNat 24 5 < 2 ^ 37 ∧
    (secd 10 0 []).argNat 30 2 = 0 ∧ (secd 10 0 []).argNat 36 28 = 0 ∧ (secd 10 0 [(40, 1)]).argNat 36 28 ≠ 0 ∧ (secd 10 0 []).sec.nextImage < 2 ^ 16 ∧
    (secd 10 0 [(24, 2 ^ 40 * 3)]).worldOpen 3 = false ∧ (secd 6 2 [(72, 2)]).worldOpen ((secd 6 2 [(72, 2)]).argNat 72 1) = true ∧
    (secd 6 2 [(72, 3)]).worldOpen ((secd 6 2 [(72, 3)]).argNat 72 1) = false ∧ (1 : Nat) ≠ (secd 1 0 []).sec.confVersion ∧
    (match (secd 10 0 [(0, 64), (8, 64)]).lxoCheck ⟨64, 64, 0, 0, 0, []⟩ ((secd 10 0 [(0, 64), (8, 64)]).loadBytes 64 64) with | .error k => k == 1 | .ok _ => false) = true ∧
    SMap.get none (secd 11 0 [(0, 1)]).sec.images ((secd 11 0 [(0, 1)]).argNat 0 2) ≠ none ∧ (secd 11 0 [(0, 1)]).argNat 2 62 = 0 ∧
    SMap.get none (secd 11 0 [(0, 2)]).sec.images ((secd 11 0 [(0, 2)]).argNat 0 2) = none ∧ (secd 11 0 []).launches = [] ∧ (secd 12 0 []).sec.cmd = some (12, 0) := by decide +kernel
theorem witness_power : (secd 8 0 []).sec.cmd = some (8, 0) ∧ (secd 8 0 []).launches = [] ∧ (secd 8 0 []).queues = [] ∧ (secd 9 0 []).cores = [] ∧
    ({ secd 9 0 [] with sec := { (secd 9 0 []).sec with power := .sleep } } : State).sec.power = .sleep ∧ (State.reset.core 5).run = .idle ∧ (State.reset.core 5).cmds = [] ∧
    (State.reset.core 5).accsOver = true ∧ (State.reset.core 5).owner = [] ∧ isHost (2 ^ 47) = true ∧ core0.run ≠ .idle := by decide +kernel
/-- Core 0 of a launch of world 2, whose owner has given an invasive token, held by the debugger. -/
def dbg (t : Nat) : State :=
  { on { core0 with run := .debug, spr := { core0.spr with world := 2 } } with
    launches := [(1, some { lau with world := 2, line := true, dbg := true })], sec := { ({} : Sec) with worlds := [(2, { isOpen := true, token := t })] } }
theorem witness_debug : (dbg 2).debugLevel 2 = 2 ∧ (dbg 1).debugLevel 2 ≠ 2 ∧ (dbg 2).debugged 0 = true ∧ (dbg 2).debugged 1 = false ∧
    (dbg 2).launch 1 = some { lau with world := 2, line := true, dbg := true } ∧ lau.dbg = false ∧ 16383 < ((dbg 2).core 0).banks * 4096 ∧ DbgItem.ok (.sreg 31) = true ∧
    DbgItem.ok (.sreg 32) = false ∧ (dbg 0).debugLevel 2 = 0 ∧ ((dbg 0).core 0).spr.world.toNat = 2 ∧ (on core0).debugLevel 0 = 0 ∧ (core0.spr.world).toNat = 0 := by
  decide +kernel
theorem witness_memory : Memory.wf (on core0).mem ∧ State.reset.Sound ∧ ∃ t, step State.reset = .next t :=
  ⟨by decide, rfl, by
    have h : (match step State.reset with | .next _ => true | _ => false) = true := by decide +kernel
    revert h
    cases step State.reset <;> simp⟩
theorem witness_resultLater : (1 : Nat) ≤ 1 ∧ 0 < 1 := by decide
/-! ## One step beside the spec's worked cases (chapters 04, 07, 08, 10, 11) -/

/-- The result core 0 has on its way after a step, if it is the only one. -/
def result (i : Instr) (c : Core) : Option RegWrite :=
  match exec i (on c) with
  | .next t => (match (t.core 0).pend with | [p] => some p.w | _ => none)
  | _ => none
/-- A scalar a step writes one group later, read once it is there. -/
def scalar (i : Instr) (d : Nat) (c : Core) : Option Nat :=
  match exec i (on c) with
  | .next t => some ((t.core 0).regs.rs d).toNat
  | _ => none
/-- Element k of 16 bits of a vector result. -/
def elem16 (w : Option RegWrite) (k : Nat) : Option Nat :=
  match w with
  | some (.v _ _ x _ _) => some (x.extractLsb' (16 * k) 16).toNat
  | _ => none
def vOf (l : List Nat) : VReg := BitVec.ofNat 1024 (l.foldr (fun x a => x + 2 ^ 16 * a) 0)
def withV (c : Core) (l : List (Nat × VReg)) : Core :=
  { c with regs := l.foldl (fun r e => r.writeV e.1 (BitVec.allOnes 1024) e.2 0) c.regs }

theorem test_add_wraps : scalar (.aAdd 0 4 1 2) 4 (withS core0 [(1, 2 ^ 64 - 1), (2, 2)]) = some 1 := by decide +kernel
theorem test_sub_source_is_destination : scalar (.aSub 0 2 1 2) 2 (withS core0 [(1, 3), (2, 5)]) = some (2 ^ 64 - 2) := by decide +kernel
/-- Chapter 07: the mask of the first 17 of 32 elements. -/
theorem test_tailmask_iota : elem16 (result (.vIota .s16 1 0 ⟨1, 0, 0⟩) core0) 31 = some 31 ∧ elem16 (result (.vBc .s16 2 5 ⟨1, 0, 0⟩) (withS core0 [(5, 17)])) 31 = some 17 := by
  decide +kernel
theorem test_tailmask_compare : result (.vCmp .s16 .lt 1 1 2 ⟨1, 0, 0⟩) (withV core0 [(1, vOf (List.range 32)), (2, vOf (List.replicate 32 17))]) =
    some (.w 1 0x3FFFFFFFF) := by decide +kernel
/-- Chapter 07: GELU on nine nodes, six elements of the worked table. -/
def gelu9 : List Nat :=
  [0x0A, 9, 9, 0, 0xFF, 0, 0, 0, 0, 0, 0, 0xC0] ++ List.replicate 52 0 ++
    ([0xBD400000, 0xBDC00000, 0xBE200000, 0xBE200000, 0, 0x3EB00000, 0x3F580000, 0x3FB38000, 0x3FFA0000] : List Nat).flatMap fun x =>
      (List.range 4).map fun k => x / 256 ^ k % 256
def geluCore : Core := { core0 with ctab := putLineBytes core0.ctab 0 (gelu9.map (BitVec.ofNat 8)) }
def geluLoaded : Core := match result (.fTsel 0 false 7) geluCore with | some w => geluCore.deliver w | none => core0
def geluAt (k : Nat) : Option Nat :=
  elem16 (result (.fEval 0 .bf16 4 false 6 5) (withV geluLoaded [(5, vOf [0x3E9A, 0xBFA0, 0x4000, 0x4040, 0xC020, 0x7FC1])])) k
theorem test_gelu : geluAt 0 = some 0x3E54 ∧ geluAt 1 = some 0xBE00 ∧ geluAt 2 = some 0x3FFA ∧ geluAt 3 = some 0x4040 ∧ geluAt 4 = some 0 ∧ geluAt 5 = some 0x7FC0 := by
  decide +kernel
/-- R190: results that are exact. -/
theorem test_functions_exact : elem16 (result (.fRcp 0 .bf16 4 6 5) (withV core0 [(5, vOf [0x4080])])) 0 = some 0x3E80 ∧
    elem16 (result (.fRsq 0 .bf16 4 6 5) (withV core0 [(5, vOf [0x4080])])) 0 = some 0x3F00 ∧
    elem16 (result (.fExp2 0 .bf16 4 6 5) (withV core0 [(5, vOf [0x4040])])) 0 = some 0x4100 ∧
    elem16 (result (.fLog2 0 .bf16 4 6 5) (withV core0 [(5, vOf [0x4100])])) 0 = some 0x4040 := by decide +kernel
/-- Chapter 11: the map in h3, the forward pass; its rows of result, header and entries, its sum. -/
def poolMap : List Nat := [0x3F80, 0x4040, 0x4040, 0xC000, 0x8000, 0, 0x8000, 0xBF80, 0x4000, 0xBF00, 0x3E80, 0x3FC0, 0x3F00, 0x7FA0, 0x4080, 0xBF80]
def poolCore (hw shape : Nat) : Core :=
  { withS core0 [(4, hw), (5, shape), (6, 0), (7, 0x4040)] with
    handles := [(3, ⟨0, 1, false, 2, false, false, 1, 0, 0, 0, none, none, 0⟩), (4, ⟨1, 1, false, 0, false, false, 1, 0, 0, 0, none, none, 0⟩),
      (5, ⟨2, 2, false, 0, false, false, 1, 0, 0, 0, none, none, 0⟩)]
    sp := putLineBytes [] 0 ((poolMap.flatMap fun x => [x % 256, x / 256]).map (BitVec.ofNat 8)) }
def witRow (i : Instr) (c : Core) (row : Nat) : Option Nat :=
  match exec i (on c) with
  | .next t => (match (t.core 0).wit with | some o => (o.writes.find? fun w => w.row == row).map fun w => w.val.toNat | none => none)
  | _ => none
def witSum (i : Instr) (c : Core) : Option Nat :=
  match exec i (on c) with
  | .next t => (t.core 0).wit.map fun o => o.sum.toNat
  | _ => none
theorem test_maxpool : witRow (.vWmax .bf16 8 4 5) (poolCore 0x50403 0x20000040003) 1 = some 0x7FC0400000004040 ∧
    (witRow (.vWmax .bf16 8 4 5) (poolCore 0x50403 0x20000040003) 3).map (· % 2 ^ 32) = some 0x01000181 ∧
    witSum (.vWmax .bf16 8 4 5) (poolCore 0x50403 0x20000040003) = some 1 := by decide +kernel
/-- The same with the clamp of the chapter's variation: results, header, codes, sum. -/
theorem test_clamp : (witRow (.vWclamp .bf16 8 4 5) (poolCore 0x50403 0x60000100000) 1).map (· % 2 ^ 256) =
      some (leNat (([0x80, 0x3F, 0x40, 0x40, 0x40, 0x40, 0, 0, 0, 0, 0, 0, 0, 0, 0, 0, 0, 0x40, 0, 0, 0x80, 0x3E, 0xC0, 0x3F, 0, 0x3F, 0xC0, 0x7F, 0x40, 0x40, 0, 0] : List Nat).map (BitVec.ofNat 8))) ∧
    (witRow (.vWclamp .bf16 8 4 5) (poolCore 0x50403 0x60000100000) 2).map (· % 2 ^ 160) =
      some (leNat (([3, 8, 2, 1, 1, 0, 0, 0, 0x10, 0, 0, 0, 3, 0, 1, 0, 8, 0, 0, 0] : List Nat).map (BitVec.ofNat 8))) ∧
    (witRow (.vWclamp .bf16 8 4 5) (poolCore 0x50403 0x60000100000) 3).map (· % 2 ^ 32) = some 0x6C045140 ∧
    witSum (.vWclamp .bf16 8 4 5) (poolCore 0x50403 0x60000100000) = some 8 := by decide +kernel
/-! ## An image (chapter 01): one task, no section but its digest, unsigned -/

def imageHead : List Byte :=
  leBytes 4 0x004F584C ++ leBytes 2 1 ++ leBytes 2 0 ++ [0, 1] ++ leBytes 2 1 ++ leBytes 4 0 ++ leBytes 8 64 ++ leBytes 8 96 ++ leBytes 8 96 ++ leBytes 8 160 ++ leBytes 8 0 ++ leBytes 8 0
def imageTable : List Byte := [11, 0xFF, 0, 0] ++ leBytes 4 0 ++ leBytes 8 128 ++ leBytes 8 32 ++ leBytes 8 0
def imageFile : List Byte := imageHead ++ imageTable ++ List.replicate 32 0 ++ digestBytes (sha256 (imageHead ++ imageTable))
theorem image_format : lxoFormat imageFile 160 = true ∧ lxoLimit imageFile = true ∧ lxoWorld imageFile 0 = true := by decide +kernel
theorem image_measured : lxoMeasured imageFile = true := by decide +kernel
/-- The digest of "abc" (FIPS 180-4). -/
theorem test_sha256 : beNat (sha256Bytes [0x61, 0x62, 0x63]) = 0xba7816bf8f01cfea414140de5dae2223b00361a396177a9cb410ff61f20015ad := by decide +kernel
theorem test_image_accepted : (match ({ secd 10 0 [] with sec := { (secd 10 0 []).sec with conf := { ({} : Conf) with unsignedOk := true } } } : State).lxoCheck
    ⟨64, 160, 0, 0, 0, []⟩ imageFile with | .ok _ => true | .error _ => false) = true := by decide +kernel

end Sys2Proof.Tests
end

section
/-! PROOF. Bytes and numbers stored in memory read back, and tables in canonical form that read alike are equal. -/
namespace Sys2Proof.SMap

variable {α : Type}

@[simp] theorem get_cons_same (d : α) (k : Nat) (v : α) (m : SMap α) : get d ((k, v) :: m) k = v := if_pos rfl

theorem get_cons_ne (d : α) {k n : Nat} (v : α) (m : SMap α) (h : n ≠ k) : get d ((k, v) :: m) n = get d m n := if_neg h.symm

variable [DecidableEq α]

theorem wfFrom_cons_iff (d : α) (lo k : Nat) (v : α) (m : SMap α) :
    wfFrom d lo ((k, v) :: m) = true ↔ lo ≤ k ∧ v ≠ d ∧ wfFrom d (k + 1) m = true := by
  simp only [wfFrom, Bool.and_eq_true, decide_eq_true_eq, and_assoc]

/-- A table in canonical form lists no key below the one it rises from. -/
theorem get_of_lt_of_wfFrom (d : α) {lo n : Nat} (m : SMap α) (hw : wfFrom d lo m = true) (hn : n < lo) : get d m n = d := by
  induction m generalizing lo with
  | nil => rfl
  | cons e m ih =>
    obtain ⟨k, v⟩ := e
    obtain ⟨hk, -, hm⟩ := (wfFrom_cons_iff ..).1 hw
    rw [get_cons_ne d v m (by omega)]
    exact ih hm (by omega)

/-- The least key of one table is no larger than the least key of a table that reads the same. -/
theorem headKey_le_of_get_eq (d : α) {lo lo' k j : Nat} {v w : α} {m m' : SMap α} (hw : wfFrom d lo ((k, v) :: m) = true)
    (hw' : wfFrom d lo' ((j, w) :: m') = true) (h : ∀ n, get d ((k, v) :: m) n = get d ((j, w) :: m') n) : k ≤ j := by
  obtain ⟨-, hwd, -⟩ := (wfFrom_cons_iff ..).1 hw'
  obtain ⟨-, hv, hm⟩ := (wfFrom_cons_iff ..).1 hw
  refine Nat.le_of_not_lt fun hjk => ?_
  have hfrom : wfFrom d k ((k, v) :: m) = true := (wfFrom_cons_iff ..).2 ⟨Nat.le_refl k, hv, hm⟩
  have hj : d = w := by rw [← get_of_lt_of_wfFrom d _ hfrom hjk, h j, get_cons_same]
  exact hwd hj.symm

/-- The canonical form is one list for each table: tables in it that read the same everywhere are equal. -/
theorem eq_of_wfFrom_of_get_eq (d : α) {lo lo' : Nat} (m m' : SMap α) (hw : wfFrom d lo m = true) (hw' : wfFrom d lo' m' = true)
    (h : ∀ n, get d m n = get d m' n) : m = m' := by
  induction m generalizing lo lo' m' with
  | nil =>
    cases m' with
    | nil => rfl
    | cons e' m' =>
      obtain ⟨j, w⟩ := e'
      obtain ⟨-, hwd, -⟩ := (wfFrom_cons_iff ..).1 hw'
      exact absurd (by simpa only [get_nil, get_cons_same] using (h j).symm) hwd
  | cons e m ih =>
    obtain ⟨k, v⟩ := e
    obtain ⟨-, hv, hm⟩ := (wfFrom_cons_iff ..).1 hw
    cases m' with
    | nil => exact absurd (by simpa only [get_nil, get_cons_same] using h k) hv
    | cons e' m' =>
      obtain ⟨j, w⟩ := e'
      obtain ⟨-, -, hm'⟩ := (wfFrom_cons_iff ..).1 hw'
      obtain rfl : k = j :=
        Nat.le_antisymm (headKey_le_of_get_eq d hw hw' h) (headKey_le_of_get_eq d hw' hw fun n => (h n).symm)
      obtain rfl : v = w := by simpa only [get_cons_same] using h k
      have htail : ∀ n, get d m n = get d m' n := fun n => by
        by_cases hn : n = k
        · rw [hn, get_of_lt_of_wfFrom d m hm (Nat.lt_succ_self k), get_of_lt_of_wfFrom d m' hm' (Nat.lt_succ_self k)]
        · simpa only [get_cons_ne d v _ hn] using h n
      rw [ih m' hm hm' htail]

end Sys2Proof.SMap

namespace Sys2Proof.Machine

/-- Byte i of a number stored is its base-256 digit i (R4). -/
theorem byte_storeNat_in (s : State) (a n x : Nat) {i : Nat} (hi : i < n) :
    (s.storeNat a n x).byte (a + i) = BitVec.ofNat 8 (x / 256 ^ i) := by
  induction n generalizing s a x i with
  | zero => exact absurd hi (Nat.not_lt_zero i)
  | succ n ih =>
    rw [State.storeNat]
    cases i with
    | zero => rw [byte_storeNat_out _ _ _ _ (by omega), Nat.add_zero, byte_putByte_same, Nat.pow_zero, Nat.div_one]
    | succ i => rw [show a + (i + 1) = a + 1 + i by omega, ih _ _ _ (by omega), Nat.div_div_eq_div_mul, Nat.pow_succ']

/-- A number stored reads back modulo the width it is stored in. -/
theorem loadNat_storeNat (s : State) (a n x : Nat) : (s.storeNat a n x).loadNat a n = x % 256 ^ n := by
  induction n generalizing s a x with
  | zero => rw [State.loadNat, Nat.pow_zero, Nat.mod_one]
  | succ n ih =>
    have hlow : (s.storeNat a (n + 1) x).byte a = BitVec.ofNat 8 x := by
      simpa only [Nat.add_zero, Nat.pow_zero, Nat.div_one] using byte_storeNat_in s a (n + 1) x n.succ_pos
    calc (s.storeNat a (n + 1) x).loadNat a (n + 1)
        = x % 256 + 256 * (x / 256 % 256 ^ n) := by rw [State.loadNat, hlow, State.storeNat, ih, BitVec.toNat_ofNat]
      _ = x % 256 ^ (n + 1) := by rw [Nat.pow_succ', Nat.mod_mul]

/-- Bytes stored read back. -/
theorem loadBytes_storeBytes (s : State) (a : Nat) (l : List Byte) : (s.storeBytes a l).loadBytes a l.length = l := by
  induction l generalizing s a with
  | nil => rfl
  | cons b l ih =>
    rw [State.storeBytes, List.length_cons, State.loadBytes, ih, byte_storeBytes_out _ _ _ (by omega), byte_putByte_same]

/-- Memories in canonical form with equal bytes are equal. -/
theorem mem_eq_of_byte_eq {s t : State} (hs : Memory.wf s.mem) (ht : Memory.wf t.mem) (h : ∀ p, s.byte p = t.byte p) :
    s.mem = t.mem :=
  SMap.eq_of_wfFrom_of_get_eq emptyByte _ _ hs ht h

/-- Settles O58: the writes by induction on the bytes written, the canonical form by induction on the two lists of cells. -/
theorem memoryOperations : Obligations.MemoryOperations :=
  ⟨fun s a p b => ⟨byte_putByte s a p b, wf_putByte s a b⟩,
    fun s a n x => ⟨loadNat_storeNat s a n x, fun _ hi => byte_storeNat_in s a n x hi, fun _ hp => byte_storeNat_out s a n x hp,
      wf_storeNat s a n x⟩,
    fun s a l => ⟨loadBytes_storeBytes s a l, fun _ hp => byte_storeBytes_out s a l hp, wf_storeBytes s a l⟩,
    fun _ _ => mem_eq_of_byte_eq⟩

end Sys2Proof.Machine
end

section
/-! PROOF. What one operation's write of rows leaves in the scratchpad and in the buffer table (R123, R218). -/
namespace Sys2Proof.SMap

variable {α : Type}

/-- A table whose values are changed by a function that keeps the default reads as that function of what it read. -/
theorem get_map (d : α) (g : α → α) (hd : g d = d) (f : Nat × α → Nat × α) (hf : ∀ e, f e = (e.1, g e.2)) (m : SMap α) (n : Nat) :
    get d (m.map f) n = g (get d m n) := by
  induction m with
  | nil => exact hd.symm
  | cons e m ih =>
    rw [List.map_cons, hf]
    by_cases h : n = e.1
    · rw [h, get_cons_same, get_cons_same]
    · rw [get_cons_ne d _ _ h, get_cons_ne d _ _ h, ih]

end Sys2Proof.SMap

namespace Sys2Proof.Machine

theorem rowPoison_putRow (c : Core) (r k : Nat) (v : Row) (p : Bool) :
    (c.putRow r v p).rowPoison k = if k = r then p else c.rowPoison k := SMap.get_put ..

/-- A write of rows changes rows and marks alone. -/
theorem putRows_frame (ws : List RowWrite) (c : Core) : ∃ sp marks, c.putRows ws = { c with sp := sp, spPoison := marks } := by
  induction ws generalizing c with
  | nil => exact ⟨c.sp, c.spPoison, rfl⟩
  | cons w ws ih =>
    obtain ⟨sp, marks, h⟩ := ih (c.putRow w.row w.val w.poison)
    exact ⟨sp, marks, h⟩

/-- A row no write names stands, with its mark. -/
theorem putRows_of_not_mem {r : Nat} (ws : List RowWrite) (c : Core) (h : r ∉ ws.map RowWrite.row) :
    (c.putRows ws).row r = c.row r ∧ (c.putRows ws).rowPoison r = c.rowPoison r := by
  induction ws generalizing c with
  | nil => exact ⟨rfl, rfl⟩
  | cons w ws ih =>
    rw [List.map_cons, List.mem_cons, not_or] at h
    obtain ⟨hne, hnot⟩ := h
    rw [Core.putRows, (ih _ hnot).1, (ih _ hnot).2, row_putRow_ne c _ _ hne, rowPoison_putRow, if_neg hne]
    exact ⟨rfl, rfl⟩

/-- A row one write names holds what it wrote, with its mark: no later write names it again. -/
theorem putRows_of_mem {w : RowWrite} (ws : List RowWrite) (c : Core) (hnd : (ws.map RowWrite.row).Nodup) (h : w ∈ ws) :
    (c.putRows ws).row w.row = w.val ∧ (c.putRows ws).rowPoison w.row = w.poison := by
  induction ws generalizing c with
  | nil => exact absurd h List.not_mem_nil
  | cons x ws ih =>
    rw [List.map_cons, List.nodup_cons] at hnd
    obtain ⟨hx, hnd⟩ := hnd
    rw [Core.putRows]
    rcases List.mem_cons.1 h with rfl | h
    · obtain ⟨hrow, hmark⟩ := putRows_of_not_mem ws (c.putRow w.row w.val w.poison) hx
      rw [hrow, hmark, row_putRow_same, rowPoison_putRow, if_pos rfl]
      exact ⟨rfl, rfl⟩
    · exact ih _ hnd h

theorem handle_has_iff (h : Handle) (r : Nat) : h.has r = true ↔ h.row0 ≤ r ∧ r < h.row0 + h.rows := by
  rw [Handle.has, Bool.and_eq_true, decide_eq_true_eq, decide_eq_true_eq]

/-- What one operation that has written the given rows does to an entry of the buffer table (R218). -/
def Handle.touched (rows : List Nat) (x : Handle) : Handle := if rows.any x.has then { x with wb := false, gen := x.gen + 1 } else x

/-- An entry whose buffer holds no row stays: so does the default of the table. -/
theorem touched_empty (rows : List Nat) : Handle.touched rows {} = {} := by
  refine if_neg fun h => ?_
  obtain ⟨r, -, hr⟩ := List.any_eq_true.1 h
  obtain ⟨-, hlt⟩ := (handle_has_iff _ r).1 hr
  exact Nat.not_lt_zero r hlt

theorem handle_touch (c : Core) (rows : List Nat) (h : Nat) : (c.touch rows).handle h = (c.handle h).touched rows := by
  refine SMap.get_map {} (Handle.touched rows) (touched_empty rows) _ (fun e => ?_) c.handles h
  rw [Handle.touched]
  split <;> rfl

theorem any_has_map_row (ws : List RowWrite) (x : Handle) :
    (ws.map RowWrite.row).any x.has = ws.any fun w => decide (x.row0 ≤ w.row ∧ w.row < x.row0 + x.rows) := by
  rw [List.any_map]
  exact congrArg ws.any (funext fun w => Bool.eq_iff_iff.2 ((handle_has_iff x w.row).trans decide_eq_true_iff.symm))

/-- Settles O24: the rows by induction on the writes, the handles by what one touch makes of an entry. -/
theorem scratchpadWrite : Obligations.ScratchpadWrite := by
  intro c ws hnd
  obtain ⟨sp, marks, hframe⟩ := putRows_frame ws c
  refine ⟨fun w hw => putRows_of_mem ws c hnd hw, fun r hr => putRows_of_not_mem ws c hr, fun h => ?_, ?_⟩
  · have hsame : (c.putRows ws).handle h = c.handle h := by rw [hframe]; rfl
    rw [Core.writeRows, handle_touch, hsame, Handle.touched, any_has_map_row]
  · rw [Core.writeRows, hframe]
    exact ⟨rfl, rfl, rfl⟩

end Sys2Proof.Machine
end

section
/-! PROOF. The weight store: refresh windows, held writes and granules (R134 to R136, R305). -/
namespace Sys2Proof.SMap

variable {α : Type}

/-- A table filtered by key: a key that passes reads as before, any other as the default. -/
theorem get_filter (d : α) (p : Nat → Bool) (m : SMap α) (n : Nat) :
    get d (m.filter fun e => p e.1) n = if p n then get d m n else d := by
  induction m with
  | nil => rw [List.filter_nil, get_nil, ite_self]
  | cons e m ih =>
    obtain ⟨k, v⟩ := e
    rw [List.filter_cons]
    by_cases h : n = k
    · subst h
      split
      · rw [get_cons_same, get_cons_same]
      · exact ih.trans (if_neg ‹_›)
    · rw [get_cons_ne d v m h, ← ih]
      split
      · exact get_cons_ne d v _ h
      · rfl

theorem mem_erase {e : Nat × α} {m : SMap α} {n : Nat} (h : e ∈ erase m n) : e ∈ m := by
  induction m with
  | nil => exact h
  | cons x m ih =>
    obtain ⟨k, v⟩ := x
    rw [erase] at h
    split at h
    · exact List.mem_cons_of_mem _ (ih h)
    · exact (List.mem_cons.1 h).elim (fun he => he ▸ List.mem_cons_self) fun he => List.mem_cons_of_mem _ (ih he)

theorem mem_place {e : Nat × α} {m : SMap α} {n : Nat} {v : α} (h : e ∈ place n v m) : e = (n, v) ∨ e ∈ m := by
  induction m with
  | nil => exact .inl (List.mem_singleton.1 h)
  | cons x m ih =>
    obtain ⟨k, w⟩ := x
    rw [place] at h
    split at h
    · exact List.mem_cons.1 h
    · rcases List.mem_cons.1 h with he | he
      · exact .inr (he ▸ List.mem_cons_self)
      · exact (ih he).imp_right (List.mem_cons_of_mem _)

/-- A table with one key set lists that entry, and else what it listed before. -/
theorem mem_set {e : Nat × α} {m : SMap α} {n : Nat} {v : α} (h : e ∈ set m n v) : e = (n, v) ∨ e ∈ m :=
  (mem_place h).imp_right mem_erase

/-- What a table reads at a key is an entry of it, or the key is not listed. -/
theorem mem_of_get (d : α) (m : SMap α) (n : Nat) : (n, get d m n) ∈ m ∨ n ∉ m.map Prod.fst ∧ get d m n = d := by
  induction m with
  | nil => exact .inr ⟨List.not_mem_nil, rfl⟩
  | cons e m ih =>
    obtain ⟨k, v⟩ := e
    by_cases h : n = k
    · subst h
      rw [get_cons_same]
      exact .inl List.mem_cons_self
    · rw [get_cons_ne d v m h]
      refine ih.imp (List.mem_cons_of_mem _) fun hn => ⟨fun hm => ?_, hn.2⟩
      exact (List.mem_cons.1 hm).elim h hn.1

end Sys2Proof.SMap

namespace Sys2Proof.Machine

/-! ## Refresh windows (R136) -/

theorem windowDue_iff (c : Core) :
    c.windowDue = true ↔ c.refresh = false ∧ c.run = .running ∧ c.spr.wref.toNat % 2 ^ 48 ≤ c.spr.cyc.toNat := by
  rw [Core.windowDue, Bool.and_eq_true, Bool.and_eq_true, Bool.not_eq_true', beq_iff_eq, decide_eq_true_iff, and_assoc]

/-- A change made to one core is known by what it makes of that core as it stands. -/
theorem modCore_congr (s : State) (n : Nat) {f g : Core → Core} (h : f (s.core n) = g (s.core n)) : s.modCore n f = s.modCore n g := by
  rw [State.modCore, State.modCore, h]

/-- A running task's window closes once its 16 cycles are over. -/
theorem exec_refreshWindowClose (s : State) (n : Nat) (hopen : (s.core n).refresh = true)
    (hover : (s.core n).spr.wref.toNat % 2 ^ 48 + 16 ≤ (s.core n).spr.cyc.toNat + 4096) :
    exec (.refreshWindowClose n) s = .next (s.modCore n fun c => { c with refresh := false }) := by
  refine congrArg Host.Outcome.next (modCore_congr s n (if_pos ?_))
  rw [hopen, Bool.true_and, Bool.or_eq_true]
  exact .inr (decide_eq_true hover)

/-! ## Reads of the store under way (R135) -/

/-- A copy of the weight store is under way. -/
def Cmd.readsStore (m : Cmd) : Bool :=
  (match m.st with | .running _ | .fabric _ => true | _ => false) && (match m.cpy with | some y => y.ss == .ws | none => false)

/-- An x.ldw or a copy of the core reads the weight store. -/
def Core.readsStore (c : Core) : Bool := c.arr0.ldw.any LdwOp.ws || c.arr1.ldw.any LdwOp.ws || c.cmds.any Cmd.readsStore

theorem readsStore_eq_false_iff (c : Core) :
    c.readsStore = false ↔ (c.arr0.ldw.any LdwOp.ws || c.arr1.ldw.any LdwOp.ws) = false ∧ ∀ m ∈ c.cmds, m.readsStore = false := by
  rw [Core.readsStore, Bool.or_eq_false_iff, List.any_eq_false]
  simp only [Bool.not_eq_true]

theorem wsReads_eq_false_iff (s : State) (die : Nat) :
    s.wsReads die = false ↔ ∀ e ∈ s.cores, dieOf e.1 = die → e.2.readsStore = false := by
  have hdef : s.wsReads die = s.cores.any fun e => dieOf e.1 == die && e.2.readsStore := rfl
  rw [hdef, List.any_eq_false]
  refine forall₂_congr fun e _ => ?_
  rw [Bool.and_eq_true, not_and, Bool.not_eq_true, beq_iff_eq]

/-- On a die whose store nothing reads, no core reads it. -/
theorem readsStore_of_wsReads {s : State} {die n : Nat} (h : s.wsReads die = false) (hn : dieOf n = die) : (s.core n).readsStore = false := by
  rcases SMap.mem_of_get {} s.cores n with hm | ⟨-, hd⟩
  · exact (wsReads_eq_false_iff s die).1 h _ hm hn
  · rw [State.core, hd]
    rfl

theorem wsReads_setCore {s : State} {die : Nat} (n : Nat) {c : Core} (h : s.wsReads die = false) (hc : c.readsStore = false) :
    (s.setCore n c).wsReads die = false := by
  refine (wsReads_eq_false_iff _ die).2 fun e he hd => ?_
  rcases SMap.mem_set he with rfl | hm
  · exact hc
  · exact (wsReads_eq_false_iff s die).1 h e hm hd

/-! ## Held writes (R135) -/

/-- The cycles a copy from the scratchpad takes: one for each row it reads, and with arithmetic at the destination for each row there. -/
def Core.copyCycles (c : Core) (m : Cmd) (y : Cpy) : Nat :=
  (linesOf ((c.seen m).cpySource y)).length + if y.dar = .none then 0 else (linesOf ((c.seen m).cpyDest y)).length

/-- A command of the core as it stands once its held writes have started. -/
def Core.started (c : Core) (m : Cmd) : Cmd :=
  match m.st, m.cpy with
  | .held, some y => { m with st := .running (c.tick + 7 + c.copyCycles m y) }
  | _, _ => m

/-- The core with other commands. -/
def Core.withCmds (c : Core) (l : List Cmd) : Core := { c with cmds := l }

/-- The core once its held writes have started. -/
def Core.startAll (c : Core) : Core := c.withCmds (c.cmds.map c.started)

/-- Where the command is held, it is a copy from the scratchpad to the weight store. -/
def Cmd.heldFromScratchpad (m : Cmd) : Prop := m.st = .held → ∃ y, m.cpy = some y ∧ y.ss = .sp ∧ y.ds = .ws

/-- The commands of the core are told apart by their numbers, and its held ones are copies from the scratchpad to the weight store. -/
def Core.heldFromScratchpad (c : Core) : Prop := (c.cmds.map Cmd.id).Nodup ∧ ∀ m ∈ c.cmds, m.heldFromScratchpad

/-- The step of one command in the start of a core's held writes. -/
def State.startIfHeld (s : State) (n : Nat) (m : Cmd) : State :=
  match m.st, m.cpy with
  | .held, some y => if y.ss == .ws && (s.core n).refresh then s else s.startCopy n m y m.eng
  | _, _ => s

theorem startHeld_eq (s : State) (n : Nat) : s.startHeld n = (s.core n).cmds.foldl (fun s m => s.startIfHeld n m) s := rfl

theorem started_of_held (c : Core) {m : Cmd} {y : Cpy} (hst : m.st = .held) (hy : m.cpy = some y) :
    c.started m = { m with st := .running (c.tick + 7 + c.copyCycles m y) } := by
  rw [Core.started, hst, hy]

theorem started_of_not_held (c : Core) {m : Cmd} (hst : m.st ≠ .held) : c.started m = m := by
  rw [Core.started]
  split
  · exact absurd ‹_› hst
  · rfl

theorem startIfHeld_of_not_held (s : State) (n : Nat) {m : Cmd} (hst : m.st ≠ .held) : s.startIfHeld n m = s := by
  rw [State.startIfHeld]
  split
  · exact absurd ‹_› hst
  · rfl

/-- What a command does once started does not depend on the other commands. -/
theorem started_withCmds (c : Core) (l : List Cmd) : (c.withCmds l).started = c.started := by
  funext m
  have hcyc : ∀ y, (c.withCmds l).copyCycles m y = c.copyCycles m y := fun y => by
    rw [Core.copyCycles, Core.copyCycles, Core.seen, Core.seen]
    split <;> rfl
  by_cases hst : m.st = .held
  · cases hy : m.cpy with
    | some y =>
      rw [started_of_held _ hst hy, started_of_held _ hst hy, hcyc]
      rfl
    | none => rw [Core.started, Core.started, hst, hy]
  · rw [started_of_not_held _ hst, started_of_not_held _ hst]

/-- A copy from the scratchpad to the weight store, which nothing reads, runs from its start on. -/
theorem startCopy_sp_ws (s : State) (n : Nat) (m : Cmd) {y : Cpy} (eng : Nat) (hs : y.ss = .sp) (hd : y.ds = .ws)
    (hr : s.wsReads (dieOf n) = false) :
    s.startCopy n m y eng = s.setCore n ((s.core n).modCmd m.id fun k =>
      { k with st := .running ((s.core n).tick + 7 + (s.core n).copyCycles m y), eng := eng }) := by
  have hlines : linesOf [] = [] := rfl
  have hwalk : s.walkFor m.lid [] = s := by
    rw [State.walkFor]
    split <;> rfl
  simp only [State.startCopy, hs, hd, hlines, List.append_nil, List.map_nil, hwalk, State.linesFault, Option.orElse, hr, reduceCtorEq,
    and_false, Bool.false_eq_true, if_false, if_true, Nat.max_zero, State.beginCmd, State.farLines, List.filterMap_nil, List.isEmpty_nil,
    State.askLines, List.foldl_nil, Core.copyCycles]

theorem started_id (c : Core) (m : Cmd) : (c.started m).id = m.id := by
  rw [Core.started]
  split <;> rfl

/-- No held write is left once all have started. -/
theorem not_held_started (c : Core) {m : Cmd} (hm : m.heldFromScratchpad) : (c.started m).st ≠ .held := by
  by_cases hst : m.st = .held
  · obtain ⟨y, hy, -, -⟩ := hm hst
    rw [started_of_held c hst hy]
    exact nofun
  · rwa [started_of_not_held c hst]

theorem started_started (c : Core) {m : Cmd} (hm : m.heldFromScratchpad) : c.started (c.started m) = c.started m :=
  started_of_not_held c (not_held_started c hm)

/-- A write from the scratchpad does not read the store, once started either. -/
theorem readsStore_started (c : Core) {m : Cmd} (hm : m.heldFromScratchpad) (hr : m.readsStore = false) : (c.started m).readsStore = false := by
  by_cases hst : m.st = .held
  · obtain ⟨y, hy, hs, -⟩ := hm hst
    have hcpy : (c.started m).cpy = some y := by
      rw [started_of_held c hst hy]
      exact hy
    have hnows : (y.ss == .ws) = false := by rw [hs]; rfl
    rw [Cmd.readsStore, hcpy, Bool.and_eq_false_iff]
    exact .inr hnows
  · rwa [started_of_not_held c hst]

/-- A core whose held writes have started starts none again. -/
theorem startAll_startAll {c : Core} (hok : c.heldFromScratchpad) : c.startAll.startAll = c.startAll := by
  have hcmds : (c.cmds.map c.started).map c.started = c.cmds.map c.started := by
    rw [List.map_map]
    exact List.map_congr_left fun m hm => started_started c (hok.2 m hm)
  calc c.startAll.startAll = c.withCmds ((c.cmds.map c.started).map (c.withCmds (c.cmds.map c.started)).started) := rfl
    _ = c.startAll := by rw [started_withCmds, hcmds, Core.startAll]

theorem heldFromScratchpad_startAll {c : Core} (hok : c.heldFromScratchpad) : c.startAll.heldFromScratchpad := by
  obtain ⟨hnd, hheld⟩ := hok
  refine ⟨?_, fun m hm hst => ?_⟩
  · have hids : c.startAll.cmds.map Cmd.id = c.cmds.map Cmd.id := by
      rw [Core.startAll, Core.withCmds, List.map_map]
      exact List.map_congr_left fun m _ => started_id c m
    rwa [hids]
  · obtain ⟨m, hmem, rfl⟩ := List.mem_map.1 hm
    exact absurd hst (not_held_started c (hheld m hmem))

/-- With numbers that tell commands apart, a change of the command of one number changes that command alone. -/
theorem modCmd_of_nodup {c d : Core} {l k : List Cmd} {m : Cmd} (hd : d = c.withCmds (l ++ m :: k)) (f : Cmd → Cmd)
    (hnd : ((l ++ m :: k).map Cmd.id).Nodup) : d.modCmd m.id f = c.withCmds (l ++ f m :: k) := by
  subst hd
  rw [List.map_append, List.map_cons, List.nodup_append, List.nodup_cons] at hnd
  obtain ⟨-, ⟨hk, -⟩, hl⟩ := hnd
  have keep : ∀ r : List Cmd, (∀ x ∈ r, x.id ≠ m.id) → (r.map fun x => if x.id = m.id then f x else x) = r := fun r hr =>
    (List.map_congr_left fun x hx => if_neg (hr x hx)).trans (List.map_id r)
  rw [Core.modCmd, Core.withCmds, Core.withCmds, List.map_append, List.map_cons, if_pos rfl,
    keep l fun x hx => hl _ (List.mem_map_of_mem hx) _ List.mem_cons_self, keep k fun x hx he => hk (he ▸ List.mem_map_of_mem hx)]

/-- From s to t core n has become c, every other core stands, and nothing reads the weight store of the die of n. -/
structure QuietChange (s t : State) (n : Nat) (c : Core) : Prop where
  core : t.core n = c
  frame : ∀ k, k ≠ n → t.core k = s.core k
  quiet : t.wsReads (dieOf n) = false

theorem QuietChange.trans {s t u : State} {n : Nat} {c d : Core} (h : QuietChange s t n c) (h' : QuietChange t u n d) : QuietChange s u n d :=
  ⟨h'.core, fun k hk => (h'.frame k hk).trans (h.frame k hk), h'.quiet⟩

/-- One command of a core starts where it is a held write, and only it changes. -/
theorem quietChange_startIfHeld {s : State} {n : Nat} {c : Core} {l k : List Cmd} {m : Cmd} (hcore : s.core n = c.withCmds (l ++ m :: k))
    (hnd : ((l ++ m :: k).map Cmd.id).Nodup) (hm : m.heldFromScratchpad) (hr : s.wsReads (dieOf n) = false) :
    QuietChange s (s.startIfHeld n m) n (c.withCmds (l ++ c.started m :: k)) := by
  by_cases hst : m.st = .held
  · obtain ⟨y, hy, hs, hd⟩ := hm hst
    have hstart : s.startIfHeld n m = s.setCore n (c.withCmds (l ++ c.started m :: k)) := by
      have hnows : (y.ss == .ws) = false := by rw [hs]; rfl
      have hone : (s.core n).started m = c.started m := by rw [hcore, started_withCmds]
      rw [started_of_held _ hst hy] at hone
      rw [State.startIfHeld, hst, hy]
      simp only [hnows, Bool.false_and, Bool.false_eq_true, if_false]
      rw [startCopy_sp_ws s n m m.eng hs hd hr, ← hone]
      exact congrArg (s.setCore n) (modCmd_of_nodup hcore _ hnd)
    rw [hstart]
    refine ⟨core_setCore_same .., fun j hj => core_setCore_ne s _ hj, wsReads_setCore n hr ?_⟩
    have hreads := readsStore_of_wsReads hr rfl
    rw [hcore, readsStore_eq_false_iff] at hreads
    refine (readsStore_eq_false_iff _).2 ⟨hreads.1, fun x hx => ?_⟩
    have hold : ∀ x ∈ l ++ m :: k, x.readsStore = false := hreads.2
    have hx : x ∈ l ++ c.started m :: k := hx
    rcases List.mem_append.1 hx with hx | hx
    · exact hold x (List.mem_append_left _ hx)
    · rcases List.mem_cons.1 hx with rfl | hx
      · exact readsStore_started c hm (hold m (List.mem_append_right _ List.mem_cons_self))
      · exact hold x (List.mem_append_right _ (List.mem_cons_of_mem _ hx))
  · rw [startIfHeld_of_not_held s n hst, started_of_not_held c hst]
    exact ⟨hcore, fun _ _ => rfl, hr⟩

/-- The commands from one on start in their order, those before it have started. -/
theorem quietChange_foldl_startIfHeld {n : Nat} {c : Core} (k l : List Cmd) {s : State} (hcore : s.core n = c.withCmds (l ++ k))
    (hnd : ((l ++ k).map Cmd.id).Nodup) (hk : ∀ m ∈ k, m.heldFromScratchpad) (hr : s.wsReads (dieOf n) = false) :
    QuietChange s (k.foldl (fun s m => s.startIfHeld n m) s) n (c.withCmds (l ++ k.map c.started)) := by
  induction k generalizing l s with
  | nil => exact ⟨hcore, fun _ _ => rfl, hr⟩
  | cons m k ih =>
    have hone := quietChange_startIfHeld hcore hnd (hk m List.mem_cons_self) hr
    have hsnoc : ∀ r : List Cmd, l ++ c.started m :: r = (l ++ [c.started m]) ++ r := fun r => List.append_cons ..
    refine hone.trans ?_
    rw [List.map_cons, hsnoc]
    refine ih (l ++ [c.started m]) (hone.core.trans (congrArg c.withCmds (hsnoc k))) ?_ (fun x hx => hk x (List.mem_cons_of_mem _ hx)) hone.quiet
    rw [← hsnoc, List.map_append, List.map_cons, started_id]
    rwa [List.map_append, List.map_cons] at hnd

theorem quietChange_startHeld {s : State} {n : Nat} (hok : (s.core n).heldFromScratchpad) (hr : s.wsReads (dieOf n) = false) :
    QuietChange s (s.startHeld n) n (s.core n).startAll :=
  quietChange_foldl_startIfHeld (s.core n).cmds [] rfl hok.1 hok.2 hr

/-- The held writes of some cores of a die start; a core named twice starts nothing the second time. -/
theorem core_foldl_startHeld {die : Nat} (ns : List Nat) {s : State} (hns : ∀ n ∈ ns, dieOf n = die)
    (hok : ∀ k, dieOf k = die → (s.core k).heldFromScratchpad) (hr : s.wsReads die = false) (k : Nat) :
    (ns.foldl State.startHeld s).core k = if k ∈ ns then (s.core k).startAll else s.core k := by
  induction ns generalizing s with
  | nil => rfl
  | cons n ns ih =>
    obtain rfl : dieOf n = die := hns n List.mem_cons_self
    have hone := quietChange_startHeld (hok n rfl) hr
    have hok' : ∀ k, dieOf k = dieOf n → ((s.startHeld n).core k).heldFromScratchpad := fun k hk => by
      by_cases hkn : k = n
      · rw [hkn, hone.core]
        exact heldFromScratchpad_startAll (hok n rfl)
      · rw [hone.frame k hkn]
        exact hok k hk
    rw [List.foldl_cons, ih (fun x hx => hns x (List.mem_cons_of_mem _ hx)) hok' hone.quiet]
    by_cases hkn : k = n
    · rw [hkn, hone.core, startAll_startAll (hok n rfl), ite_self, if_pos List.mem_cons_self]
    · rw [hone.frame k hkn]
      exact ite_congr (propext (List.mem_cons.trans (or_iff_right hkn)).symm) (fun _ => rfl) fun _ => rfl

/-- Every held write of a die starts once no load reads its store (R135). -/
theorem cmds_weightStoreWriteStart {s : State} {die : Nat} (hr : s.wsReads die = false)
    (hok : ∀ k, dieOf k = die → (s.core k).heldFromScratchpad) :
    ∃ t : State, exec (.weightStoreWriteStart die) s = .next t ∧
      ∀ k, dieOf k = die → (t.core k).cmds = (s.core k).cmds.map (s.core k).started := by
  refine ⟨_, congrArg Host.Outcome.next (if_neg (by rw [hr]; exact Bool.false_ne_true)), fun k hk => ?_⟩
  rw [core_foldl_startHeld _ (fun n hn => beq_iff_eq.1 (List.mem_filter.1 hn).2) hok hr]
  split
  · rfl
  · rename_i hnot
    rcases SMap.mem_of_get {} s.cores k with hm | ⟨-, hd⟩
    · have hkey : k ∈ s.cores.map Prod.fst := List.mem_map_of_mem hm
      exact (hnot (List.mem_filter.2 ⟨hkey, beq_iff_eq.2 hk⟩)).elim
    · rw [State.core, hd]
      rfl

/-! ## Granules (R134, R305) -/

/-- The state with a granule of a die zeroed and given to a world. -/
def State.granuleGiven (s : State) (die g w : Nat) : State :=
  { s with
    ws := s.ws.filter fun e => !(e.1 / 2 ^ 14 == die * 2 ^ 8 + g)
    wsPoison := s.wsPoison.filter fun e => !(e.1 / 2 ^ 17 == die * 2 ^ 8 + g)
    wsWorld := SMap.put 0 s.wsWorld (256 * die + g) w }

/-- A granule passes to a world where die, granule and world exist and no load or write of the die's store is under way. -/
theorem exec_weightStoreGranuleAssign (s : State) (die g w : Nat) : exec (.weightStoreGranuleAssign die g w) s =
    .next (if die < 4 ∧ g < 256 ∧ w < 16 ∧ s.wsReads die = false ∧ s.wsWriteHeld die = false then s.granuleGiven die g w else s) := by
  have hcond : (die < 4 ∧ g < 256 ∧ w < 16 ∧ (!s.wsReads die) = true ∧ (!s.wsWriteHeld die) = true) =
      (die < 4 ∧ g < 256 ∧ w < 16 ∧ s.wsReads die = false ∧ s.wsWriteHeld die = false) := by
    rw [Bool.not_eq_true', Bool.not_eq_true']
  exact congrArg Host.Outcome.next (ite_congr hcond (fun _ => rfl) fun _ => rfl)

/-- A key of a granule, of 2 ^ k keys each, counted from its first. -/
theorem granule_of_key (die g o k : Nat) (ho : o < 2 ^ k) : (2 ^ (k + 8) * die + 2 ^ k * g + o) / 2 ^ k = die * 2 ^ 8 + g := by
  have hkey : 2 ^ (k + 8) * die + 2 ^ k * g + o = o + 2 ^ k * (die * 2 ^ 8 + g) := by
    rw [Nat.pow_add, Nat.mul_add, Nat.mul_assoc, Nat.mul_comm die, Nat.add_comm]
  rw [hkey, Nat.add_mul_div_left _ _ (Nat.two_pow_pos k), Nat.div_eq_of_lt ho, Nat.zero_add]

theorem ws_granuleGiven (s : State) (die g w d r o : Nat) (ho : o < 2 ^ 14) :
    SMap.get 0 (s.granuleGiven die g w).ws (2 ^ 22 * d + 2 ^ 14 * r + o) =
      if d * 2 ^ 8 + r = die * 2 ^ 8 + g then 0 else SMap.get 0 s.ws (2 ^ 22 * d + 2 ^ 14 * r + o) := by
  rw [State.granuleGiven, SMap.get_filter 0 (fun k => !(k / 2 ^ 14 == die * 2 ^ 8 + g)), granule_of_key d r o 14 ho]
  by_cases h : d * 2 ^ 8 + r = die * 2 ^ 8 + g
  · rw [if_pos h, h, beq_self_eq_true]
    rfl
  · rw [if_neg h, beq_eq_false_iff_ne.2 h]
    rfl

theorem wsPoison_granuleGiven (s : State) (die g w o : Nat) (ho : o < 2 ^ 17) :
    SMap.get false (s.granuleGiven die g w).wsPoison (2 ^ 25 * die + 2 ^ 17 * g + o) = false := by
  rw [State.granuleGiven, SMap.get_filter false (fun k => !(k / 2 ^ 17 == die * 2 ^ 8 + g)), granule_of_key die g o 17 ho, beq_self_eq_true]
  rfl

/-- Settles O48: the windows and the granules from what their steps do, the held writes by induction on the commands of a core and the
cores of the die. -/
theorem weightStoreEvents : Obligations.WeightStoreEvents := by
  intro s n die g w
  refine ⟨?_, fun hopen _ hover => exec_refreshWindowClose s n hopen hover, fun hr => congrArg Host.Outcome.next (if_pos hr), ?_, ?_, ?_⟩
  · refine congrArg Host.Outcome.next (modCore_congr s n ?_)
    by_cases h : (s.core n).windowDue = true
    · rw [if_pos h, if_pos ((windowDue_iff _).1 h)]
      rfl
    · rw [if_neg h, if_neg fun hw => h ((windowDue_iff _).2 hw)]
  · exact cmds_weightStoreWriteStart
  · intro hdie hg hw hr hh
    refine ⟨s.granuleGiven die g w, ?_, SMap.get_put_same .., fun o ho => ?_, fun o ho => wsPoison_granuleGiven s die g w o ho,
      fun d r o hne hr' ho => ?_⟩
    · rw [exec_weightStoreGranuleAssign, if_pos ⟨hdie, hg, hw, hr, hh⟩]
    · rw [ws_granuleGiven s die g w die g o ho, if_pos rfl]
    · rw [ws_granuleGiven s die g w d r o ho, if_neg (by omega)]
  · intro h
    rw [exec_weightStoreGranuleAssign, if_neg]
    rintro ⟨hdie, hg, hw, hr, hh⟩
    rw [hr, hh] at h
    simp only [Bool.false_eq_true, or_false] at h
    omega

end Sys2Proof.Machine
end

section
/-! PROOF. The arrays: what a load puts into a plane and the images a pass makes of its tiles (R199, R200, R202 to R204, R208, R209). -/
namespace Sys2Proof.SMap

/-- A table that lists a value for each key of a list, the default left out, reads as that value at each of them. -/
theorem get_filter_tabulate {α : Type} [BEq α] [LawfulBEq α] (d : α) (f : Nat → α) (ks : List Nat) (n : Nat) :
    get d ((ks.map fun k => (k, f k)).filter fun e => e.2 != d) n = if n ∈ ks then f n else d := by
  induction ks with
  | nil => rfl
  | cons k ks ih =>
    rw [List.map_cons, List.filter_cons]
    by_cases hk : n = k
    · subst hk
      rw [if_pos List.mem_cons_self]
      by_cases hd : f n = d
      · rw [if_neg (ne_true_of_eq_false (bne_eq_false_iff_eq.2 hd)), ih, hd, ite_self]
      · rw [if_pos (bne_iff_ne.2 hd), get_cons_same]
    · have hmem : n ∈ k :: ks ↔ n ∈ ks := List.mem_cons.trans (or_iff_right hk)
      simp only [hmem]
      rw [← ih]
      split
      · exact get_cons_ne d _ _ hk
      · rfl

/-- What holds of no entry of a table holds of none once a key is set to a value of which it does not hold. -/
theorem any_set_eq_false {α : Type} {p : Nat × α → Bool} {m : SMap α} {n : Nat} {v : α} (h : m.any p = false) (hv : p (n, v) = false) :
    (set m n v).any p = false := by
  rw [List.any_eq_false] at h ⊢
  intro e he
  rcases mem_set he with rfl | hm
  · exact ne_true_of_eq_false hv
  · exact h e hm

/-- What holds of no entry of a table holds of nothing read there. -/
theorem apply_get_eq_false {α : Type} {p : Nat × α → Bool} {d : α} {m : SMap α} (h : m.any p = false) (n : Nat) (hd : p (n, d) = false) :
    p (n, get d m n) = false := by
  rcases mem_of_get d m n with hm | ⟨-, hget⟩
  · exact Bool.eq_false_iff.2 (List.any_eq_false.1 h _ hm)
  · rw [hget, hd]

end Sys2Proof.SMap

namespace Sys2Proof.Machine

open Claims

/-! ## Fields of numbers -/

theorem mod_div_mod_two_pow (x : Nat) {a b w : Nat} (h : a + b ≤ w) : x % 2 ^ w / 2 ^ a % 2 ^ b = x / 2 ^ a % 2 ^ b := by
  obtain ⟨k, rfl⟩ := Nat.exists_eq_add_of_le h
  rw [Nat.add_assoc, Nat.pow_add, Nat.mod_mul_right_div_self, Nat.mod_mod_of_dvd _ (Nat.pow_dvd_pow 2 (Nat.le_add_right b k))]

theorem toNat_ofNat_div_mod (x : Nat) {a b w : Nat} (h : a + b ≤ w) : (BitVec.ofNat w x).toNat / 2 ^ a % 2 ^ b = x / 2 ^ a % 2 ^ b := by
  rw [BitVec.toNat_ofNat, mod_div_mod_two_pow x h]

theorem joinElems_div_mod (n : Nat) (l : List Nat) (i : Nat) : joinElems n l / 2 ^ (n * i) % 2 ^ n = l.getD i 0 % 2 ^ n := by
  induction l generalizing i with
  | nil => rw [joinElems, Nat.zero_div, List.getD_nil]
  | cons x l ih =>
    have hpos : 0 < 2 ^ n := Nat.two_pow_pos n
    cases i with
    | zero => rw [joinElems, Nat.mul_zero, Nat.pow_zero, Nat.div_one, Nat.add_mul_mod_self_left, Nat.mod_mod, List.getD_cons_zero]
    | succ i =>
      rw [joinElems, Nat.mul_succ, Nat.add_comm (n * i), Nat.pow_add, ← Nat.div_div_eq_div_mul, Nat.add_mul_div_left _ _ hpos,
        Nat.div_eq_of_lt (Nat.mod_lt _ hpos), Nat.zero_add, ih, List.getD_cons_succ]

theorem lineNat_add_mod (m : SMap Row) (o b c : Nat) : lineNat m o (b + c) % 256 ^ b = lineNat m o b := by
  induction b generalizing o with
  | zero => rw [Nat.pow_zero, Nat.mod_one, lineNat]
  | succ b ih =>
    rw [Nat.succ_add, lineNat, lineNat, Nat.pow_succ', Nat.mod_mul, Nat.add_mul_mod_self_left, Nat.mod_eq_of_lt (lineByte m o).isLt,
      Nat.add_mul_div_left _ _ (by decide), Nat.div_eq_of_lt (lineByte m o).isLt, Nat.zero_add, ih]

theorem lineNat_add_div (m : SMap Row) (o a c : Nat) : lineNat m o (a + c) / 256 ^ a = lineNat m (o + a) c := by
  induction a generalizing o with
  | zero => rw [Nat.zero_add, Nat.pow_zero, Nat.div_one, Nat.add_zero]
  | succ a ih =>
    rw [Nat.succ_add, lineNat, Nat.pow_succ', ← Nat.div_div_eq_div_mul, Nat.add_mul_div_left _ _ (by decide),
      Nat.div_eq_of_lt (lineByte m o).isLt, Nat.zero_add, ih, Nat.add_assoc, Nat.add_comm 1 a]

/-- Bytes a to a + b − 1 of a number read of a table of lines. -/
theorem lineNat_div_mod (m : SMap Row) (o : Nat) {a b n : Nat} (h : a + b ≤ n) : lineNat m o n / 256 ^ a % 256 ^ b = lineNat m (o + a) b := by
  obtain ⟨k, rfl⟩ := Nat.exists_eq_add_of_le h
  rw [Nat.add_assoc, lineNat_add_div, lineNat_add_mod]

/-! ## Integers as values -/

theorem signed_natAbs (x : Int) : signed (decide (x < 0)) x.natAbs = x := by
  by_cases h : x < 0
  · rw [decide_eq_true h, signed, if_pos rfl]
    omega
  · rw [decide_eq_false h, signed, if_neg Bool.false_ne_true]
    omega

theorem signed_mul (b : Bool) (m c : Nat) : signed b (m * c) = signed b m * c := by
  cases b with
  | false => exact Int.natCast_mul m c
  | true => exact (congrArg Neg.neg (Int.natCast_mul m c)).trans (Int.neg_mul _ _).symm

/-- An integer in units of 2^(t − w), rounded down. -/
theorem floorUnit_ofInt (x : Int) (t w : Nat) : (Val.ofInt x 0).floorUnit ((t : Int) - w) = x * 2 ^ w / 2 ^ t := by
  have htwo : ∀ k : Nat, (0 : Int) < 2 ^ k := fun k => Int.pow_pos (by decide)
  simp only [Val.ofInt, Val.floorUnit, signed_mul, signed_natAbs]
  by_cases h : t ≤ w
  · obtain ⟨k, rfl⟩ := Nat.exists_eq_add_of_le h
    rw [if_pos (by omega), show (0 - ((t : Int) - ((t + k : Nat) : Int))).toNat = k by omega, Int.pow_add, Int.mul_left_comm,
      Int.mul_ediv_cancel_left _ (Int.ne_of_gt (htwo t)), Int.natCast_pow]
    rfl
  · obtain ⟨k, rfl⟩ := Nat.exists_eq_add_of_le (Nat.le_of_not_le h)
    rw [if_neg (by omega), show ((((w + k : Nat) : Int) - w) - 0).toNat = k by omega, Int.pow_add, Int.mul_comm x,
      Int.mul_ediv_mul_of_pos _ _ (htwo w), Int.natCast_pow]
    rfl

theorem intOf_eq_ival (f : Fmt) (x : Nat) (h : 1 ≤ f.bits) : intOf f x = ival f x := by
  obtain ⟨k, hk⟩ := Nat.exists_eq_add_of_le' h
  have hhalf : 2 * x ≥ 2 ^ (k + 1) ↔ 2 ^ k ≤ x := by
    rw [Nat.pow_succ]
    omega
  simp only [intOf, ival, signedOf, hk, Nat.add_sub_cancel, hhalf]
  cases f.isSigned with
  | false => simp only [Bool.false_eq_true, if_false, false_and]
  | true => simp only [if_true, true_and, Int.natCast_pow, Int.cast_ofNat_Int]

/-! ## The stationary operand (R195, R199) -/

/-- The part of a stationary value a plane of a width keeps (R199). -/
def widPart (wid : Wid) (q : Int) : Int := match wid with | .sw => q | .dwh => q / 256 | .dwl => q % 256

/-- Ws - 1: the bits a stationary value has beside its sign (R199). -/
def widBits (wid : Wid) : Nat := (match wid with | .sw => 9 | _ => 17) - 1

theorem widBits_cast (wid : Wid) : (widBits wid : Int) = (if wid = .sw then 9 else 17) - 1 := by
  cases wid <;> rfl

/-- Value j of group g of a list of groups. -/
def heldIn (gs : List PGroup) (g j : Nat) : Int := ((gs.getD g ⟨[], 0⟩).vals.getD j (0, 0)).2

theorem held_eq (p : Plane) (k g j : Nat) : held p k g j = heldIn (SMap.get {} p.col k).groups g j := rfl

theorem getD_of_forall {α : Type} {p : α → Prop} {l : List α} {d : α} (hd : p d) (h : ∀ x ∈ l, p x) (i : Nat) : p (l.getD i d) := by
  rw [List.getD_eq_getElem?_getD]
  cases hi : l[i]? with
  | none => exact hd
  | some x => exact h x (List.mem_of_getElem? hi)

theorem getD_map_range {α : Type} (f : Nat → α) (d : α) {n i : Nat} (h : i < n) : ((List.range n).map f).getD i d = f i := by
  rw [List.getD_eq_getElem?_getD, List.getElem?_map, List.getElem?_range h, Option.map_some, Option.getD_some]

theorem heldIn_eq_zero {gs : List PGroup} (h : gs.all (fun g => g.vals.all fun v => v.2 == 0) = true) (g j : Nat) : heldIn gs g j = 0 := by
  simp only [List.all_eq_true, beq_iff_eq] at h
  have hg : ∀ v ∈ (gs.getD g ⟨[], 0⟩).vals, v.2 = 0 :=
    getD_of_forall (p := fun x : PGroup => ∀ v ∈ x.vals, v.2 = 0) (fun v hv => absurd hv List.not_mem_nil) h g
  exact getD_of_forall (p := fun v : Nat × Int => v.2 = 0) rfl hg j

/-- A column listed as empty holds zeros, as what was loaded into it (R191). -/
theorem heldIn_columnOf (gs : List PGroup) (g j : Nat) : heldIn (columnOf gs false).groups g j = heldIn gs g j := by
  rw [columnOf, Bool.false_or]
  split
  · exact (heldIn_eq_zero ‹_› g j).symm
  · rfl

/-- log2 of the alignment power of an integer source (R62). -/
def intAlign (f : Fmt) : Nat := match f with | .s8 => 7 | .s16 => 15 | _ => 8

theorem alignLog_int {f : Fmt} (hf : f = .s8 ∨ f = .s16 ∨ f = .z8) (scale : Nat) (l : List Val) : alignLog f scale l = intAlign f := by
  rcases hf with rfl | rfl | rfl <;> rfl

/-- An element of packed elements of whole bytes is the number its own bytes form. -/
theorem read_packed {rd : Nat → Nat → Nat} {m : SMap Row} {at_ : Nat} (hrd : ∀ o n, rd o n = lineNat m (at_ + o) n) {n B count idx : Nat}
    (hn : n = 8 * B) (h : idx < count) (base : Nat) : rd base (count * n / 8) / 2 ^ (n * idx) % 2 ^ n = rd (base + idx * n / 8) B := by
  have hin : idx * B + B ≤ count * B := Nat.succ_mul idx B ▸ Nat.mul_le_mul_right B h
  have hbytes : ∀ k, k * (8 * B) / 8 = k * B := fun k => by rw [Nat.mul_left_comm, Nat.mul_div_cancel_left _ (by decide)]
  rw [hn, hbytes, hbytes, hrd, hrd, Nat.mul_assoc 8, Nat.pow_mul, Nat.pow_mul 2 8 B, Nat.mul_comm B, show 2 ^ 8 = 256 from rfl, lineNat_div_mod _ _ hin, Nat.add_assoc]

/-- What a column of integers holds: each value times 2^(Ws - 1) over its alignment power, rounded down, or the part of it the plane keeps (R199). -/
theorem heldIn_loadColumn {rd : Nat → Nat → Nat} {m : SMap Row} {at_ : Nat} (hrd : ∀ o n, rd o n = lineNat m (at_ + o) n) {d : SDesc}
    (hf : d.fmt = .s8 ∨ d.fmt = .s16 ∨ d.fmt = .z8) (base : Nat) (wid : Wid) (sp : Sparsity) (k : Nat) {g j : Nat} (hg : g < 16) (hj : j < sp.held) :
    heldIn (loadColumn rd d base wid sp k) g j = widPart wid
      (ival d.fmt (rd (base + (g * sp.held + j) * d.fmt.bits / 8) (d.fmt.bits / 8)) * 2 ^ widBits wid / 2 ^ intAlign d.fmt) := by
  have hbits : d.fmt.bits = 8 * (d.fmt.bits / 8) ∧ d.fmt ≠ .q4 ∧ d.fmt.isFloat = false ∧ 1 ≤ d.fmt.bits := by
    rcases hf with h | h | h <;> rw [h] <;> decide
  obtain ⟨hbits, hq4, hfloat, hpos⟩ := hbits
  generalize hB : d.fmt.bits / 8 = B at hbits ⊢
  have hidx : g * sp.held + j < 16 * sp.held := by
    have hgroup : (g + 1) * sp.held ≤ 16 * sp.held := Nat.mul_le_mul_right sp.held hg
    rw [Nat.succ_mul] at hgroup
    omega
  have hraw := read_packed hrd hbits hidx base
  simp only [heldIn, loadColumn, List.map_map, List.zip_map', getD_map_range _ _ hg, getD_map_range _ _ hj, if_neg hq4, Function.comp]
  rw [hraw, valOf, hfloat, if_neg Bool.false_ne_true, intOf_eq_ival _ _ hpos, alignLog_int hf]
  have hunit : (1 - if wid = .sw then (9 : Int) else 17) + intAlign d.fmt = intAlign d.fmt - widBits wid := by
    rw [widBits_cast]
    generalize (if wid = .sw then (9 : Int) else 17) = ws
    omega
  rw [hunit, floorUnit_ofInt]
  rfl

/-! ## Passes (R202 to R204) -/

theorem tileElem_eq (v : TileRow) (n : Nat) : tileElem v n = v.toNat / 2 ^ (64 * n) % 2 ^ 64 := by
  rw [tileElem, BitVec.extractLsb'_toNat, Nat.shiftRight_eq_div_pow]

theorem tileElem_lt (v : TileRow) (n : Nat) : tileElem v n < 2 ^ 64 := (v.extractLsb' (64 * n) 64).isLt

theorem tileElem_ofNat_joinElems (l : List Nat) {n : Nat} (hn : n < 256) : tileElem (BitVec.ofNat 16384 (joinElems 64 l)) n = l.getD n 0 % 2 ^ 64 := by
  rw [tileElem_eq, toNat_ofNat_div_mod _ (by omega), joinElems_div_mod]

/-- A value rounded to binary64 fits its 64 bits. -/
theorem roundFloat_fp64_lt (r : Rnd) (v : Val) : roundFloat .fp64 r v < 2 ^ 64 := by
  have hinf : infMag .fp64 < 2 ^ 63 := by decide
  have hmax : maxFinite .fp64 < 2 ^ 63 := by decide
  have hsign : ∀ neg, signBit .fp64 neg ≤ 2 ^ 63 := by decide
  have hover : ∀ neg, overflowMag .fp64 r neg < 2 ^ 63 := by
    intro neg
    cases r <;> cases neg <;> assumption
  have hmag : ∀ neg n, (if n > maxFinite .fp64 then overflowMag .fp64 r neg else n) < 2 ^ 63 := by
    intro neg n
    split
    · exact hover neg
    · exact Nat.lt_of_le_of_lt (Nat.not_lt.1 ‹_›) hmax
  have hsum : ∀ {a b : Nat}, a ≤ 2 ^ 63 → b < 2 ^ 63 → a + b < 2 ^ 64 := fun ha hb => Nat.add_lt_add_of_le_of_lt ha hb
  cases v with
  | nan => exact (by decide : canonNan .fp64 < 2 ^ 64)
  | inf neg => exact hsum (hsign neg) hinf
  | fin neg m e =>
    rw [roundFloat]
    split
    · exact hsum (hsign neg) (Nat.two_pow_pos 63)
    · exact hsum (hsign neg) (hmag neg _)

theorem accumulate_lt {raw : Nat} (h : raw < 2 ^ 64) (n e : Int) : accumulate raw n e < 2 ^ 64 := by
  rw [accumulate]
  split
  · split
    · exact Nat.two_pow_pos 64
    · exact h
  · exact roundFloat_fp64_lt _ _

/-- A row of a tile from its elements: the old row, or where stream rows come in it the elements folded over these. -/
theorem tileElem_folded {α : Type} {mine : List α} {f : Nat → Nat → α → Nat} (hf : ∀ n e x, e < 2 ^ 64 → f n e x < 2 ^ 64) (old : TileRow)
    (p q : BitVec 256) {n : Nat} (hn : n < 256) :
    tileElem (if mine.isEmpty then (old, p)
      else (BitVec.ofNat 16384 (joinElems 64 ((List.range 256).map fun n => mine.foldl (f n) (tileElem old n))), q)).1 n = mine.foldl (f n) (tileElem old n) := by
  split
  · next h => rw [List.isEmpty_iff.1 h, List.foldl_nil]
  · rw [tileElem_ofNat_joinElems _ hn, getD_map_range _ _ hn,
      Nat.mod_eq_of_lt (List.foldlRecOn (motive := (· < 2 ^ 64)) mine (f n) (tileElem_lt old n) fun e he x _ => hf n e x he)]

/-- What a list keeps by a partial function that is f where p holds and nothing elsewhere. -/
theorem filterMap_eq_map_filter {α : Type} {f : Nat → α} {p : Nat → Prop} [DecidablePred p] {g : Nat → Option α} {l : List Nat}
    (h : ∀ r ∈ l, g r = if p r then some (f r) else none) : l.filterMap g = (l.filter fun r => p r).map f := by
  induction l with
  | nil => rfl
  | cons r l ih =>
    rw [List.filterMap_cons, List.filter_cons, h r List.mem_cons_self, ih fun q hq => h q (List.mem_cons_of_mem r hq)]
    by_cases hr : p r
    · rw [if_pos hr, if_pos (decide_eq_true hr), List.map_cons]
    · rw [if_neg hr, if_neg (mt of_decide_eq_true hr)]

/-- The rows of a list whose numbers satisfy a condition, in order. -/
theorem filterMap_getElem_map_range {α : Type} (f : Nat → α) (p : Nat → Prop) [DecidablePred p] (n : Nat) :
    ((List.range ((List.range n).map f).length).filterMap fun r => if p r then ((List.range n).map f)[r]? else none) =
      ((List.range n).filter fun r => p r).map f := by
  rw [List.length_map, List.length_range]
  refine filterMap_eq_map_filter fun r hr => ?_
  rw [List.getElem?_map, List.getElem?_range (List.mem_range.1 hr), Option.map_some]

/-- The sum over the held values of a group, which is 0 where the column lists none (R64, R202). -/
theorem groupSum_eq (row : StreamRow) (x : Column) (g : Nat) :
    groupSum row g x.groups = ((x.groups.getD g ⟨[], 0⟩).vals.map fun v => row.p.getD (16 * g + v.1) 0 * v.2).sum := by
  rw [groupSum, List.getD_eq_getElem?_getD]
  cases x.groups[g]? with
  | none => rfl
  | some pg => rw [Option.getD_some, List.sum_eq_foldl, List.foldl_map]

/-- An element after one stream row: the products of its sixteen groups added in order (R202). -/
theorem passElem_eq (dw sub : Bool) (row : StreamRow) (a b : Column) (raw : Nat) :
    passElem dw sub row a b raw = (List.range 16).foldl (fun e g =>
      accumulate e (groupProduct dw sub row a b g).1 (groupProduct dw sub row a b g).2) raw := by
  simp only [passElem, groupSum_eq]
  rfl

theorem passElem_lt (dw sub : Bool) (row : StreamRow) (a b : Column) {raw : Nat} (h : raw < 2 ^ 64) : passElem dw sub row a b raw < 2 ^ 64 :=
  List.foldlRecOn (motive := (· < 2 ^ 64)) _ _ h fun _ he _ _ => accumulate_lt he _ _

theorem tileAt_eq (c : Core) (t r n : Nat) : tileAt c t r n = tileElem (c.tileRow t r) n := (tileElem_eq _ _).symm

/-- An element of the image of x.mul is the element of its tile, each of its stream rows added in order (R202, R203). -/
theorem tileElem_mulRow (c : Core) (arr : Arr) (d : SDesc) (pl rows : Nat) (sp : Sparsity) (dw sub : Bool) (tile k ρ : Nat) {n : Nat} (hn : n < 256) :
    tileElem (mulRow c arr ((List.range rows).map (c.readStreamRow d pl)) sp dw sub tile k ρ).1 n = mulImage c arr d pl rows sp dw sub tile k ρ n := by
  simp only [mulRow, filterMap_getElem_map_range]
  rw [tileElem_folded (fun _ _ _ he => passElem_lt _ _ _ _ _ he) _ _ _ hn, List.foldl_map]
  simp only [passElem_eq, ← tileAt_eq]
  cases sp <;> rfl

/-- An element of the image of x.acc is the element of its tile, each stream row of its residue added in order (R204). -/
theorem tileElem_accRow (c : Core) (d : SDesc) (pl rows : Nat) (sub : Bool) (tile ρ : Nat) {n : Nat} (hn : n < 256) :
    tileElem (accRow c ((List.range rows).map (c.readStreamRow d pl)) sub tile ρ).1 n =
      ((List.range rows).filter fun r => r % 16 == ρ).foldl (fun e r =>
        let x := c.readStreamRow d pl r
        accumulate e (if sub then -(x.p.getD n 0) else x.p.getD n 0) (x.lu.getD (n / 16) 0)) (tileAt c tile ρ n) := by
  simp only [accRow, filterMap_getElem_map_range]
  rw [tileElem_folded (fun _ _ _ he => accumulate_lt he _ _) _ _ _ hn, List.foldl_map, tileAt_eq]
  rfl

/-- A pass image reads back as the rows it is made of. -/
theorem passIs_passOf (c : Core) (tile beats : Nat) (lead : Bool) {row : Nat → TileRow × BitVec 256} {el : Nat → Nat → Nat}
    (h : ∀ ρ n, n < 256 → tileElem (row ρ).1 n = el ρ n) : passIs (passOf c tile lead beats row) c tile beats lead el := by
  refine ⟨rfl, rfl, rfl, rfl, fun ρ n hρ hn => ?_⟩
  rw [← h ρ n hn, tileElem_eq, passOf, List.map_map]
  rw [show (fun e : Nat × TileRow × BitVec 256 => (e.1, e.2.1)) ∘ (fun r => (r, row r)) = fun r => (r, (row r).1) from rfl,
    SMap.get_filter_tabulate, if_pos (List.mem_range.2 hρ)]

/-! ## The slots of the X class, alone in their groups -/

/-- A slot that raises a cause other than that of c.brk. -/
theorem issueSolo_trap {i : Instr} {f : SlotFn} {s : State} {cause : Nat} {fa : Word} (h : s.issuesSolo i = true) (hi : isScrub i = false)
    (hf : f (soloCtx i s) s.begun = .trap cause fa 0) (hc : cause ≠ cBREAK) :
    issueSolo i f s = .next (s.takeTrap s.cur cause (slotOf i).code false 0 fa (s.core s.cur).pc) := by
  rw [issueSolo_eq h hi, hf]
  exact congrArg Host.Outcome.next (if_neg fun hb => hc hb.1)

/-- A slot that changes its core alone. -/
theorem issueSolo_coreNext {i : Instr} {f : SlotFn} {s : State} {g g' : Core → Core} (h : s.issuesSolo i = true) (hi : isScrub i = false)
    (hf : f (soloCtx i s) s.begun = .ok (s.begun.modCore s.cur g) .fall) (hg : g { s.core s.cur with drain := none } = g' { s.core s.cur with drain := none }) :
    issueSolo i f s = .next (coreNext i s g') := by
  rw [issueSolo_ok h hi hf ⟨nofun, nofun, nofun⟩, modCore_congr (g := g') _ _ (by rw [begun_core, hg])]
  rfl

/-- No write of the weight store is held on a die once a group has begun that was not held before (R135). -/
theorem wsWriteHeld_begun {s : State} {die : Nat} (h : s.wsWriteHeld die = false) : s.begun.wsWriteHeld die = false := by
  have hcore := SMap.apply_get_eq_false (d := {}) h s.cur (Bool.and_false _)
  exact SMap.any_set_eq_false h hcore

section
variable {arr : Bool} {wid : Wid} {sp : Sparsity} {qw : BitVec 4} {cols : BitVec 12} {x : Ctx} {s : State}

/-- What x.ldw waits for (R200). -/
def ldwWaits (arr : Bool) (qw : BitVec 4) (x : Ctx) (s : State) : Prop :=
  (x.core.arr arr).ldw.isSome ∨ x.core.refresh ∨ ((parseDesc (srcQ x qw)).space ∧ s.wsWriteHeld (dieOf x.n))

/-- The bytes x.ldw reads (R195). -/
def ldwBytes (sp : Sparsity) (qw : BitVec 4) (cols : BitVec 12) (x : Ctx) : List (Nat × Nat) :=
  (List.range cols.toNat).flatMap (x.core.ldwRanges (parseDesc (srcQ x qw)) sp)

/-- A byte of the source of x.ldw: of the weight store of the die, or of the scratchpad. -/
def ldwNat (qw : BitVec 4) (x : Ctx) (s : State) (o n : Nat) : Nat :=
  if (parseDesc (srcQ x qw)).space then s.wsNat (dieOf x.n) o n else x.core.spNat o n

/-- Column k as x.ldw loads it. -/
def ldwColumn (wid : Wid) (sp : Sparsity) (qw : BitVec 4) (x : Ctx) (s : State) (k : Nat) : Column :=
  let d := parseDesc (srcQ x qw)
  columnOf (loadColumn (ldwNat qw x s) d (x.core.streamRow d true k) wid sp k)
    ((x.core.ldwRanges d sp k).any fun r => if d.space then s.wsPoisoned (dieOf x.n) r.1 r.2 else (rowsOf r.1 r.2).any x.core.rowPoison)

theorem ldwNat_eq_lineNat (qw : BitVec 4) (x : Ctx) (s : State) : ∃ m at_, ∀ o n, ldwNat qw x s o n = lineNat m (at_ + o) n := by
  by_cases hd : (parseDesc (srcQ x qw)).space = true
  · exact ⟨s.ws, dieOf x.n * 2 ^ 28, fun o n => if_pos hd⟩
  · exact ⟨x.core.sp, 0, fun o n => (if_neg hd).trans (by rw [Nat.zero_add, Core.spNat])⟩

/-- What a column of integers with no failed data holds once it is loaded (R199, R302). -/
theorem heldIn_ldwColumn {k g j : Nat} (hf : (parseDesc (srcQ x qw)).fmt = .s8 ∨ (parseDesc (srcQ x qw)).fmt = .s16 ∨ (parseDesc (srcQ x qw)).fmt = .z8)
    (hg : g < 16) (hj : j < sp.held) (hp : (ldwColumn wid sp qw x s k).poison = false) :
    let d := parseDesc (srcQ x qw)
    heldIn (ldwColumn wid sp qw x s k).groups g j = widPart wid
      (ival d.fmt (ldwNat qw x s (x.core.streamRow d true k + (g * sp.held + j) * d.fmt.bits / 8) (d.fmt.bits / 8)) * 2 ^ widBits wid / 2 ^ intAlign d.fmt) := by
  obtain ⟨m, at_, hrd⟩ := ldwNat_eq_lineNat qw x s
  intro d
  have hcol : ldwColumn wid sp qw x s k = columnOf (loadColumn (ldwNat qw x s) d (x.core.streamRow d true k) wid sp k) (ldwColumn wid sp qw x s k).poison := rfl
  rw [hcol, hp, heldIn_columnOf, heldIn_loadColumn hrd hf _ _ _ _ hg hj]

theorem streamRow_eq_ite (c : Core) (d : SDesc) (k : Nat) :
    c.streamRow d true k = if d.bound then c.streamRow d true k else (if d.space then d.base else d.base / 32 * 32) + k * d.rstr := by
  split
  · rfl
  · exact if_neg ‹_›

theorem slotXLdw_stream (hw : ¬ ldwWaits arr qw x s) (hb : stationaryBad x.core qw.toNat (parseDesc (srcQ x qw)) sp = true) :
    slotXLdw arr wid sp qw cols x s = .trap cSTREAM (BitVec.ofNat 64 qw.toNat) 0 := (if_neg hw).trans (if_pos hb)

/-- An x.ldw alone in its group waits for nothing where no load of its array runs, no window is open and no write of the store it reads is held. -/
theorem not_ldwWaits {i : Instr} (hidle : ((s.core s.cur).arr arr).ldw = none) (hrefresh : (s.core s.cur).refresh = false)
    (hstore : (parseDesc ((s.core s.cur).regs.rq qw.toNat)).space = true → s.wsWriteHeld (dieOf s.cur) = false) : ¬ ldwWaits arr qw (soloCtx i s) s.begun := by
  rintro (hl | hr | ⟨hd, hs⟩)
  · exact ne_true_of_eq_false (congrArg Option.isSome hidle) hl
  · exact ne_true_of_eq_false hrefresh hr
  · exact ne_true_of_eq_false (wsWriteHeld_begun (hstore hd)) hs

variable (hw : ¬ ldwWaits arr qw x s) (hb : stationaryBad x.core qw.toNat (parseDesc (srcQ x qw)) sp = false)
include hw hb

theorem slotXLdw_bank {o : Nat} (hd : (parseDesc (srcQ x qw)).space = false) (ho : x.core.spFail (ldwBytes sp qw cols x) = some o) :
    slotXLdw arr wid sp qw cols x s = .trap cBANK (BitVec.ofNat 64 o) 0 := by
  have hbank : (if (parseDesc (srcQ x qw)).space then none else x.core.spFail (ldwBytes sp qw cols x)) = some o := by rw [hd]; exact ho
  refine (if_neg hw).trans ((if_neg (ne_true_of_eq_false hb)).trans ?_)
  rw [ldwBytes] at hbank
  simp only [hbank]

theorem slotXLdw_world {o : Nat} (hd : (parseDesc (srcQ x qw)).space = true)
    (ho : s.wsFail (dieOf x.n) x.core.spr.world.toNat (ldwBytes sp qw cols x) = some o) :
    slotXLdw arr wid sp qw cols x s = .trap cWORLD (BitVec.ofNat 64 o) 0 := by
  refine (if_neg hw).trans ((if_neg (ne_true_of_eq_false hb)).trans ?_)
  rw [ldwBytes] at ho
  simp only [hd, if_true, ho]

/-- A load that passes its checks goes on its way with its columns. -/
theorem slotXLdw_loads (hbank : (parseDesc (srcQ x qw)).space = false → x.core.spFail (ldwBytes sp qw cols x) = none)
    (hworld : (parseDesc (srcQ x qw)).space = true → s.wsFail (dieOf x.n) x.core.spr.world.toNat (ldwBytes sp qw cols x) = none) :
    ∃ op : LdwOp, slotXLdw arr wid sp qw cols x s = .ok (s.modCore x.n fun c => c.setArr arr { c.arr arr with ldw := some op }) .fall ∧
      op.ws = (parseDesc (srcQ x qw)).space ∧
      op.plane = ⟨wid, sp, cols.toNat, ((List.range cols.toNat).map fun k => (k, ldwColumn wid sp qw x s k)).filter fun e => e.2 != {}⟩ := by
  have hb' : (if (parseDesc (srcQ x qw)).space then none else x.core.spFail (ldwBytes sp qw cols x)) = none := by
    split
    · rfl
    · exact hbank (Bool.eq_false_iff.2 ‹_›)
  have hw' : (if (parseDesc (srcQ x qw)).space then s.wsFail (dieOf x.n) x.core.spr.world.toNat (ldwBytes sp qw cols x) else none) = none := by
    split
    · exact hworld ‹_›
    · rfl
  rw [ldwBytes] at hb' hw'
  have hslot : slotXLdw arr wid sp qw cols x s = _ := (if_neg hw).trans (if_neg (ne_true_of_eq_false hb))
  simp only [hb', hw'] at hslot
  exact ⟨_, hslot, rfl, rfl⟩

end

section
variable {mt : BitVec 3} {qa : BitVec 4} {beats : BitVec 12} {pl : BitVec 5} {sp : Sparsity} {dw sub : Bool} {x : Ctx} {s : State}

/-- The streaming rows of a pass (R202). -/
def mulRows (beats : BitVec 12) (pl : BitVec 5) (dw : Bool) : Nat := beats.toNat / (pl.toNat * if dw then 2 else 1)

/-- What x.mul waits for: a load of the shadow plane it reads, rows of a ring (R208). -/
def mulWaits (mt : BitVec 3) (qa : BitVec 4) (beats : BitVec 12) (pl : BitVec 5) (dw : Bool) (x : Ctx) : Prop :=
  (dw ∧ (x.core.arr (mt.getLsbD 2)).ldw.isSome) ∨ x.core.ringWaits qa.toNat (parseDesc (srcQ x qa)) (mulRows beats pl dw)

/-- The plane tags a pass needs (R202). -/
def tagsFit (a : Arr) (sp : Sparsity) (dw : Bool) : Bool :=
  if dw then a.active.wid == .dwh && a.shadow.wid == .dwl && a.active.sp == sp && a.shadow.sp == sp else a.active.wid == .sw && a.active.sp == sp

theorem tagsFit_iff (a : Arr) (sp : Sparsity) (dw : Bool) : tagsFit a sp dw = true ↔
    if dw then a.active.wid = .dwh ∧ a.shadow.wid = .dwl ∧ a.active.sp = sp ∧ a.shadow.sp = sp else a.active.wid = .sw ∧ a.active.sp = sp := by
  cases dw with
  | false => simp only [tagsFit, Bool.false_eq_true, if_false, Bool.and_eq_true, beq_iff_eq]
  | true => simp only [tagsFit, if_true, Bool.and_eq_true, beq_iff_eq, and_assoc]

/-- The scratchpad bytes a pass of n rows reads (R194). -/
def passBytes (qa : BitVec 4) (pl : BitVec 5) (x : Ctx) (n : Nat) : List (Nat × Nat) :=
  (List.range n).flatMap (x.core.passRanges (parseDesc (srcQ x qa)) pl.toNat)

/-- The images x.mul sends on their way, one for each tile it writes (R203). -/
def mulPasses (mt : BitVec 3) (beats : BitVec 12) (pl : BitVec 5) (sp : Sparsity) (dw sub : Bool) (c : Core) (d : SDesc) : List Pass :=
  (List.range (passTiles mt sp).length).map fun k => passOf c ((passTiles mt sp).getD k 0) (k == 0) beats.toNat fun ρ =>
    mulRow c (c.arr (mt.getLsbD 2)) ((List.range (mulRows beats pl dw)).map (c.readStreamRow d pl.toNat)) sp dw sub ((passTiles mt sp).getD k 0) k ρ

theorem passTiles_length (mt : BitVec 3) (sp : Sparsity) : (passTiles mt sp).length = match sp with | .sp16 => 1 | .sp8 => 2 | _ => 4 := by
  cases sp <;> rfl

theorem passTiles_getD (mt : BitVec 3) (sp : Sparsity) {k : Nat} (hk : k < (passTiles mt sp).length) :
    (passTiles mt sp).getD k 0 = 4 * (mt.toNat / 4) + (mt.toNat % 4 + k) % 4 := by
  rw [passTiles_length] at hk
  exact getD_map_range _ _ hk

theorem mulPasses_length (c : Core) (d : SDesc) : (mulPasses mt beats pl sp dw sub c d).length = match sp with | .sp16 => 1 | .sp8 => 2 | _ => 4 := by
  rw [mulPasses, List.length_map, List.length_range, passTiles_length]

/-- Each image holds what its pass makes of its tile (R202, R203). -/
theorem passIs_of_mulPasses {c : Core} {d : SDesc} {k : Nat} {p : Pass} (h : (mulPasses mt beats pl sp dw sub c d)[k]? = some p) :
    let tile := 4 * (mt.toNat / 4) + (mt.toNat % 4 + k) % 4
    passIs p c tile beats.toNat (k == 0) (mulImage c (c.arr (mt.getLsbD 2)) d pl.toNat (mulRows beats pl dw) sp dw sub tile k) := by
  obtain ⟨hk, rfl⟩ := List.getElem?_eq_some_iff.1 h
  rw [mulPasses, List.length_map, List.length_range] at hk
  simp only [mulPasses, List.getElem_map, List.getElem_range, passTiles_getD mt sp hk]
  exact passIs_passOf _ _ _ _ fun ρ n hn => tileElem_mulRow _ _ _ _ _ _ _ _ _ _ _ hn

/-- An x.mul alone in its group waits for nothing where no load of a plane it reads runs and its ring holds its rows. -/
theorem not_mulWaits {i : Instr} (hidle : dw = true → ((s.core s.cur).arr (mt.getLsbD 2)).ldw = none)
    (hring : (s.core s.cur).ringWaits qa.toNat (parseDesc ((s.core s.cur).regs.rq qa.toNat)) (mulRows beats pl dw) = false) :
    ¬ mulWaits mt qa beats pl dw (soloCtx i s) := by
  rintro (⟨hdw, hl⟩ | hr)
  · exact ne_true_of_eq_false (congrArg Option.isSome (hidle hdw)) hl
  · exact ne_true_of_eq_false hring hr

theorem slotXMul_sched (hw : ¬ mulWaits mt qa beats pl dw x) (ht : tagsFit (x.core.arr (mt.getLsbD 2)) sp dw = false) :
    slotXMul mt qa beats pl sp dw sub x s = .trap cSCHED (BitVec.ofNat 64 x.word) 0 :=
  (if_neg hw).trans (if_pos (congrArg not ht))

variable (hw : ¬ mulWaits mt qa beats pl dw x) (ht : tagsFit (x.core.arr (mt.getLsbD 2)) sp dw = true)
include hw ht

theorem slotXMul_stream (hb : streamBad x.core qa.toNat (parseDesc (srcQ x qa)) pl.toNat = true) :
    slotXMul mt qa beats pl sp dw sub x s = .trap cSTREAM (BitVec.ofNat 64 qa.toNat) 0 :=
  (if_neg hw).trans ((if_neg (ne_true_of_eq_false (congrArg not ht))).trans (if_pos hb))

variable (hb : streamBad x.core qa.toNat (parseDesc (srcQ x qa)) pl.toNat = false)
include hb

/-- Once its tags and its descriptor pass, x.mul is decided by the bytes it reads. -/
theorem slotXMul_checked : slotXMul mt qa beats pl sp dw sub x s = match x.core.spFail (passBytes qa pl x (mulRows beats pl dw)) with
    | some o => .trap cBANK (BitVec.ofNat 64 o) 0
    | none => .ok (s.modCore x.n fun c => c.startPass (mt.getLsbD 2) beats.toNat (pl.toNat * if dw then 2 else 1) true dw (srcQ x qa)
        (mulPasses mt beats pl sp dw sub x.core (parseDesc (srcQ x qa)))) .fall :=
  (if_neg hw).trans ((if_neg (ne_true_of_eq_false (congrArg not ht))).trans (if_neg (ne_true_of_eq_false hb)))

theorem slotXMul_bank {o : Nat} (ho : x.core.spFail (passBytes qa pl x (mulRows beats pl dw)) = some o) :
    slotXMul mt qa beats pl sp dw sub x s = .trap cBANK (BitVec.ofNat 64 o) 0 := by
  rw [slotXMul_checked hw ht hb, ho]

theorem slotXMul_passes (ho : x.core.spFail (passBytes qa pl x (mulRows beats pl dw)) = none) :
    slotXMul mt qa beats pl sp dw sub x s = .ok (s.modCore x.n fun c => c.startPass (mt.getLsbD 2) beats.toNat (pl.toNat * if dw then 2 else 1) true dw
      (srcQ x qa) (mulPasses mt beats pl sp dw sub x.core (parseDesc (srcQ x qa)))) .fall := by
  rw [slotXMul_checked hw ht hb, ho]

end

section
variable {mt : BitVec 3} {qa : BitVec 4} {beats : BitVec 12} {pl : BitVec 5} {sub : Bool} {x : Ctx} {s : State}

/-- The image x.acc sends on its way (R204). -/
def accPass (mt : BitVec 3) (beats : BitVec 12) (pl : BitVec 5) (sub : Bool) (c : Core) (d : SDesc) : Pass :=
  passOf c mt.toNat true beats.toNat (accRow c ((List.range (beats.toNat / pl.toNat)).map (c.readStreamRow d pl.toNat)) sub mt.toNat)

variable (hw : x.core.ringWaits qa.toNat (parseDesc (srcQ x qa)) (beats.toNat / pl.toNat) = false)
include hw

theorem slotXAcc_stream (hb : streamBad x.core qa.toNat (parseDesc (srcQ x qa)) pl.toNat = true) :
    slotXAcc mt qa beats pl sub x s = .trap cSTREAM (BitVec.ofNat 64 qa.toNat) 0 :=
  (if_neg (ne_true_of_eq_false hw)).trans (if_pos hb)

variable (hb : streamBad x.core qa.toNat (parseDesc (srcQ x qa)) pl.toNat = false)
include hb

/-- Once its descriptor passes, x.acc is decided by the bytes it reads. -/
theorem slotXAcc_checked : slotXAcc mt qa beats pl sub x s = match x.core.spFail (passBytes qa pl x (beats.toNat / pl.toNat)) with
    | some o => .trap cBANK (BitVec.ofNat 64 o) 0
    | none => .ok (s.modCore x.n fun c => c.startPass (mt.getLsbD 2) beats.toNat pl.toNat false false (srcQ x qa)
        [accPass mt beats pl sub x.core (parseDesc (srcQ x qa))]) .fall :=
  (if_neg (ne_true_of_eq_false hw)).trans (if_neg (ne_true_of_eq_false hb))

theorem slotXAcc_bank {o : Nat} (ho : x.core.spFail (passBytes qa pl x (beats.toNat / pl.toNat)) = some o) :
    slotXAcc mt qa beats pl sub x s = .trap cBANK (BitVec.ofNat 64 o) 0 := by
  rw [slotXAcc_checked hw hb, ho]

theorem slotXAcc_pass (ho : x.core.spFail (passBytes qa pl x (beats.toNat / pl.toNat)) = none) :
    slotXAcc mt qa beats pl sub x s = .ok (s.modCore x.n fun c => c.startPass (mt.getLsbD 2) beats.toNat pl.toNat false false (srcQ x qa)
      [accPass mt beats pl sub x.core (parseDesc (srcQ x qa))]) .fall := by
  rw [slotXAcc_checked hw hb, ho]

end

/-- Settles O31: each slot by its waits and checks in their order, what a load leaves of each value by `heldIn_ldwColumn`, the images of a pass by
`passIs_of_mulPasses` and `tileElem_accRow`. -/
theorem xLoadsAndPasses : Obligations.XLoadsAndPasses := by
  unfold Obligations.XLoadsAndPasses
  refine ⟨fun arr wid sp qw cols s => ?_, fun mt qa beats pl sp dw sub s => ⟨?_, ?_, fun m k t => rfl⟩⟩
  · intro i c a d ranges fit h hidle hrefresh hstore
    have hw : ¬ ldwWaits arr qw (soloCtx i s) s.begun := not_ldwWaits hidle hrefresh hstore
    refine ⟨fun hb => issueSolo_trap h rfl (slotXLdw_stream hw hb) (by decide), fun hb => ⟨?_, ?_, fun hbank hworld => ?_⟩, fun m t op hop hdue => ?_⟩
    · exact fun o hd ho => issueSolo_trap h rfl (slotXLdw_bank hw hb hd ho) (by decide)
    · exact fun o hd ho => issueSolo_trap h rfl (slotXLdw_world hw hb hd ho) (by decide)
    · obtain ⟨op, hslot, hws, hplane⟩ := slotXLdw_loads (wid := wid) hw hb hbank hworld
      have hcol : ∀ k, SMap.get {} op.plane.col k = if k < cols.toNat then ldwColumn wid sp qw (soloCtx i s) s.begun k else {} := by
        intro k
        rw [hplane, SMap.get_filter_tabulate]
        simp only [List.mem_range]
      refine ⟨op, issueSolo_coreNext h rfl hslot rfl, by rw [hplane], by rw [hplane], by rw [hplane], hws, fun k hk => ?_, fun hf k g j hk hg hj hp => ?_⟩
      · rw [hcol, if_neg (Nat.not_lt.2 hk)]
      · rw [hcol, if_pos hk] at hp
        intro row o raw top q
        have hrow : row = c.streamRow d true k := (streamRow_eq_ite c d k).symm
        clear_value row
        subst hrow
        rw [held_eq, hcol, if_pos hk]
        exact heldIn_ldwColumn hf hg hj hp
    · exact congrArg Host.Outcome.next (modCore_congr t m (by simp only [hop, hdue, if_true]))
  · intro h hidle hring
    have hw : ¬ mulWaits mt qa beats pl dw (soloCtx (.xMul mt qa beats pl sp dw sub) s) := not_mulWaits hidle hring
    have ht := tagsFit_iff ((s.core s.cur).arr (mt.getLsbD 2)) sp dw
    refine ⟨fun hg => ?_, fun hg hb => ?_, fun hg hb => ⟨fun o ho => ?_, fun ho => ?_⟩⟩
    · exact issueSolo_trap h rfl (slotXMul_sched hw (Bool.eq_false_iff.2 fun hfit => hg (ht.1 hfit))) (by decide)
    · exact issueSolo_trap h rfl (slotXMul_stream hw (ht.2 hg) hb) (by decide)
    · exact issueSolo_trap h rfl (slotXMul_bank hw (ht.2 hg) hb ho) (by decide)
    · exact ⟨mulPasses mt beats pl sp dw sub (s.core s.cur) (parseDesc ((s.core s.cur).regs.rq qa.toNat)),
        issueSolo_coreNext h rfl (slotXMul_passes hw (ht.2 hg) hb ho) rfl, mulPasses_length .., fun k p hp => passIs_of_mulPasses hp⟩
  · intro h hring
    refine ⟨fun hb => ?_, fun hb => ⟨fun o ho => ?_, fun ho => ?_⟩⟩
    · exact issueSolo_trap h rfl (slotXAcc_stream hring hb) (by decide)
    · exact issueSolo_trap h rfl (slotXAcc_bank (x := soloCtx (.xAcc mt qa beats pl sub) s) hring hb ho) (by decide)
    · exact ⟨accPass mt beats pl sub (s.core s.cur) (parseDesc ((s.core s.cur).regs.rq qa.toNat)), issueSolo_coreNext h rfl (slotXAcc_pass hring hb ho) rfl,
        passIs_passOf _ _ _ _ fun ρ n hn => tileElem_accRow _ _ _ _ _ _ _ hn⟩

end Sys2Proof.Machine
end

section
/-! PROOF. The store of a tile: when x.st stalls, and the statement about it refuted (R206, R209, R234). -/
namespace Sys2Proof.Machine

open Claims

/-- An x.st stalls while a witness form in flight holds one of the rows its descriptor names from BASE on, bits 4:0 of a weight-store offset
included, whatever the checks of R209 would find of that descriptor (R98, R234). -/
theorem exec_xSt_of_witHolds {mt : BitVec 3} {qa : BitVec 4} {fmt : Fmt} {rnd : Rnd} {clr : Bool} {s : State}
    (h : s.issuesSolo (.xSt mt qa fmt rnd clr) = true)
    (hw : let d := parseDesc ((s.core s.cur).regs.rq qa.toNat)
      (s.core s.cur).witHolds ((List.range 16).map fun r => (d.base32 + r * d.rstr, 32 * fmt.bits)) = true) :
    exec (.xSt mt qa fmt rnd clr) s = .next (s.stallCycle s.cur none false) := by
  have hslot : slotXSt mt qa fmt rnd clr (soloCtx (.xSt mt qa fmt rnd clr) s) s.begun = .stall none := if_pos (.inr hw)
  exact (issueSolo_eq h rfl).trans (by rw [hslot]; rfl)

/-- A core with a witness form in flight on row 4 of its scratchpad, and in q1 a descriptor that names the weight store with BASE 1. -/
def witnessBesideStore : Core :=
  { run := .running, banks := 4, owner := (List.range 4).map fun b => (b, BankOwner.task)
    handles := [(1, { row0 := 4, rows := 1 })], regs := { q := [(1, BitVec.ofNat 256 (1 + 2 ^ 28))] }
    wit := some { i := .vWmax .s8 0 0 0, handler := false, back := [(1, 0)], setWb := none, free := none, writes := [], sd := 0, sum := 0, due := 0 } }

/-- The package with that core alone. -/
def storeBesideWitness : State := { cores := [(0, witnessBesideStore)] }

/-- Refutes O32: for a descriptor that names the weight store, the model takes BASE whole in the rows x.st waits for before its checks, and the
statement has bits 4:0 of BASE ignored in the rows it presumes free. Of 256 bytes from offset 1 the last lies in row 4, which the witness form
in flight holds: the x.st stalls, where the statement has it raise STREAM. -/
theorem not_xTilesPlanesAndStore : ¬ Obligations.XTilesPlanesAndStore := by
  unfold Obligations.XTilesPlanesAndStore
  intro h
  have hissues : storeBesideWitness.issuesSolo (.xSt 0 1 .s8 .rne false) = true := by decide +kernel
  obtain ⟨hstream, -⟩ := h.2 0 1 .s8 .rne false storeBesideWitness hissues rfl rfl (by decide +kernel)
  have htraps := hstream (.inl (by decide +kernel))
  rw [exec_xSt_of_witHolds hissues (by decide +kernel)] at htraps
  have hcore := congrArg (State.core · 0) (Host.Outcome.next.inj htraps)
  exact absurd (congrArg Core.handler hcore) (by decide +kernel)

end Sys2Proof.Machine
end
